-- ==== Sys2Proof/Word.lean ====
section
/-! DEFINITION.
The words, fields and small data types that every other file of the model shares:
the 64-bit word, register numbers, element types of vector instructions (R39), bit fields (R33, R34),
sparse maps as sorted lists, and the packets of the fabric (R533). -/

namespace Sys2Proof

/-- A 64-bit value: an x register, an address, a CSR (R12, R526). -/
abbrev Word := BitVec 64

/-- A register number of an instruction word (R33). -/
abbrev Reg := BitVec 5

/-- A sparse table: pairs of a key and a value, keys strictly rising. A key that is not listed holds the default. -/
abbrev SMap (α : Type) := List (Nat × α)

/-- The six element types of the vector instructions (R39). -/
inductive ElemT where
  | f32 | bf16 | f16 | i32 | i16 | i8
  deriving DecidableEq, Repr

/-- The field code of an element type in bits [14:12] (R39). -/
def ElemT.code : ElemT → BitVec 3
  | .f32 => 0 | .bf16 => 1 | .f16 => 2 | .i32 => 3 | .i16 => 4 | .i8 => 5

/-- The element type that a field code names; 110 is unassigned and 111 is the memory group (R39). -/
def ElemT.ofCode (c : BitVec 3) : Option ElemT :=
  if c = 0 then some .f32 else if c = 1 then some .bf16 else if c = 2 then some .f16
  else if c = 3 then some .i32 else if c = 4 then some .i16 else if c = 5 then some .i8 else none

/-- Bits [lo + len - 1 : lo] of a word. -/
def fld {n : Nat} (w : BitVec n) (lo len : Nat) : BitVec len := w.extractLsb' lo len

/-- One record of a fold in a packet or at a press (R127): address, key, value, domain (level and number), phase. -/
structure FoldRec where
  addr : Word
  key : BitVec 32
  value : BitVec 32
  lvl : BitVec 3
  dom : BitVec 16
  phase : Bool
  deriving DecidableEq, Repr

/-- A context that takes part in a joined value: device, endpoint and context (R385, R548), and for another device the tag of its
portion, which the replies to it name (R547, R551). -/
structure Party where
  dev : BitVec 10
  ep : Nat
  ctx : Nat
  tag : Nat := 0
  deriving DecidableEq, Repr

/-- One packet of the fabric (R532, R533). Every kind uses the header; the rest of the fields are the union of
what the kinds carry, and a field that a kind does not carry is zero. -/
structure Packet where
  /-- source and target device (R532) -/
  src : BitVec 10
  dst : BitVec 10
  /-- code of the kind, 0x01 RD to 0x26 DCL (R533) -/
  what : Nat
  /-- sequence number in its (source, target, class) stream (R532) -/
  seq : Nat
  /-- level-4 domain that the packet counts for, or zero (R533) -/
  fdom : BitVec 16
  /-- grant token of a request (R537) -/
  token : Word
  /-- requester's endpoint, context and tag: the age of its access (R533, R541) -/
  ep : Nat
  ctx : Nat
  tag : Nat
  /-- address and length of the portion, or the value a reply carries in ktval (R546) -/
  addr : Word
  len : Nat
  /-- lattice type, width code and vintage of a join (R548); kind of a WAIT, CK or RCK (R550) -/
  typ : BitVec 4
  width : BitVec 2
  vint : BitVec 8
  kind : Nat
  /-- data bytes with their active mask; readability mask of an RDR (R464) -/
  data : BitVec 4096
  mask : BitVec 512
  /-- signature of an RL or an ANS (R549), and its saturated flag -/
  sig : BitVec 1024
  sat : Bool
  /-- cause of a REJ, reason of a NACK, status of an NTC, result of an ANS, code of a TKT -/
  code : Nat
  value : Word
  aux : Word
  /-- contributors of a join and records of an FD -/
  parties : List Party
  recs : List FoldRec
  /-- words of a report record (RPT) or triggers of a WT -/
  words : List Word
  /-- a join in line form under the type and width that it carries, where a gateway may merge it (R548) -/
  join : Option (BitVec 128 × BitVec 1024) := none
  deriving DecidableEq, Repr

end Sys2Proof
end

