-- ==== Sys2Proof/Syntax.lean ====
section
/-! DEFINITION.
The instructions and events of the device: one constructor per row of spec/opcode_table.json.
The first 219 are instruction words with their operand fields (R33 to R43). The rest are the events that have no word:
each is one whole step of a unit of the device (spec/95), with what names the unit or the thing that moves. -/

namespace Sys2Proof

/-- One constructor per row of the opcode table, in the table's order. -/
inductive Instr where
  /-- LUI (R65): Writes the sign-extended U immediate to rd. -/
  | lui (rd : Reg) (imm : BitVec 20)
  /-- AUIPC (R65): Writes pc plus the U immediate to rd. -/
  | auipc (rd : Reg) (imm : BitVec 20)
  /-- ADDI (R65): Adds the sign-extended immediate to rs1, modulo 2^64. -/
  | addi (rd : Reg) (rs1 : Reg) (imm : BitVec 12)
  /-- SLTI (R65): Writes 1 if rs1 is below the immediate (signed), else 0. -/
  | slti (rd : Reg) (rs1 : Reg) (imm : BitVec 12)
  /-- SLTIU (R65): Writes 1 if rs1 is below the immediate (unsigned), else 0. -/
  | sltiu (rd : Reg) (rs1 : Reg) (imm : BitVec 12)
  /-- XORI (R65): Bitwise xor of rs1 and the immediate. -/
  | xori (rd : Reg) (rs1 : Reg) (imm : BitVec 12)
  /-- ORI (R65): Bitwise or of rs1 and the immediate. -/
  | ori (rd : Reg) (rs1 : Reg) (imm : BitVec 12)
  /-- ANDI (R65): Bitwise and of rs1 and the immediate. -/
  | andi (rd : Reg) (rs1 : Reg) (imm : BitVec 12)
  /-- SLLI (R65): Shifts rs1 left by a 6-bit amount. -/
  | slli (rd : Reg) (rs1 : Reg) (sh : BitVec 6)
  /-- SRLI (R65): Shifts rs1 right logically by a 6-bit amount. -/
  | srli (rd : Reg) (rs1 : Reg) (sh : BitVec 6)
  /-- SRAI (R65): Shifts rs1 right arithmetically by a 6-bit amount. -/
  | srai (rd : Reg) (rs1 : Reg) (sh : BitVec 6)
  /-- ADDIW (R65): 32-bit add of the immediate, result sign-extended. -/
  | addiw (rd : Reg) (rs1 : Reg) (imm : BitVec 12)
  /-- SLLIW (R65): 32-bit left shift by a 5-bit amount, sign-extended. -/
  | slliw (rd : Reg) (rs1 : Reg) (sh : BitVec 5)
  /-- SRLIW (R65): 32-bit logical right shift, sign-extended. -/
  | srliw (rd : Reg) (rs1 : Reg) (sh : BitVec 5)
  /-- SRAIW (R65): 32-bit arithmetic right shift, sign-extended. -/
  | sraiw (rd : Reg) (rs1 : Reg) (sh : BitVec 5)
  /-- ADD (R65): Adds rs1 and rs2 modulo 2^64. -/
  | add (rd : Reg) (rs1 : Reg) (rs2 : Reg)
  /-- SUB (R65): Subtracts rs2 from rs1 modulo 2^64. -/
  | sub (rd : Reg) (rs1 : Reg) (rs2 : Reg)
  /-- SLL (R65): Shifts rs1 left by rs2[5:0]. -/
  | sll (rd : Reg) (rs1 : Reg) (rs2 : Reg)
  /-- SLT (R65): Signed less-than of rs1 and rs2. -/
  | slt (rd : Reg) (rs1 : Reg) (rs2 : Reg)
  /-- SLTU (R65): Unsigned less-than of rs1 and rs2. -/
  | sltu (rd : Reg) (rs1 : Reg) (rs2 : Reg)
  /-- XOR (R65): Bitwise xor of rs1 and rs2. -/
  | xorR (rd : Reg) (rs1 : Reg) (rs2 : Reg)
  /-- SRL (R65): Logical right shift of rs1 by rs2[5:0]. -/
  | srl (rd : Reg) (rs1 : Reg) (rs2 : Reg)
  /-- SRA (R65): Arithmetic right shift of rs1 by rs2[5:0]. -/
  | sra (rd : Reg) (rs1 : Reg) (rs2 : Reg)
  /-- OR (R65): Bitwise or of rs1 and rs2. -/
  | orR (rd : Reg) (rs1 : Reg) (rs2 : Reg)
  /-- AND (R65): Bitwise and of rs1 and rs2. -/
  | andR (rd : Reg) (rs1 : Reg) (rs2 : Reg)
  /-- ADDW (R65): 32-bit add, sign-extended. -/
  | addw (rd : Reg) (rs1 : Reg) (rs2 : Reg)
  /-- SUBW (R65): 32-bit subtract, sign-extended. -/
  | subw (rd : Reg) (rs1 : Reg) (rs2 : Reg)
  /-- SLLW (R65): 32-bit left shift by rs2[4:0], sign-extended. -/
  | sllw (rd : Reg) (rs1 : Reg) (rs2 : Reg)
  /-- SRLW (R65): 32-bit logical right shift, sign-extended. -/
  | srlw (rd : Reg) (rs1 : Reg) (rs2 : Reg)
  /-- SRAW (R65): 32-bit arithmetic right shift, sign-extended. -/
  | sraw (rd : Reg) (rs1 : Reg) (rs2 : Reg)
  /-- MUL (R66): Low 64 bits of the product. -/
  | mul (rd : Reg) (rs1 : Reg) (rs2 : Reg)
  /-- MULH (R66): High 64 bits of the signed product. -/
  | mulh (rd : Reg) (rs1 : Reg) (rs2 : Reg)
  /-- MULHSU (R66): High 64 bits of the signed-by-unsigned product. -/
  | mulhsu (rd : Reg) (rs1 : Reg) (rs2 : Reg)
  /-- MULHU (R66): High 64 bits of the unsigned product. -/
  | mulhu (rd : Reg) (rs1 : Reg) (rs2 : Reg)
  /-- DIV (R67): Signed division rounded toward zero, never trapping. -/
  | div (rd : Reg) (rs1 : Reg) (rs2 : Reg)
  /-- DIVU (R67): Unsigned division, never trapping. -/
  | divu (rd : Reg) (rs1 : Reg) (rs2 : Reg)
  /-- REM (R67): Signed remainder, never trapping. -/
  | rem (rd : Reg) (rs1 : Reg) (rs2 : Reg)
  /-- REMU (R67): Unsigned remainder, never trapping. -/
  | remu (rd : Reg) (rs1 : Reg) (rs2 : Reg)
  /-- MULW (R66): Low 32 bits of the product, sign-extended. -/
  | mulw (rd : Reg) (rs1 : Reg) (rs2 : Reg)
  /-- DIVW (R67): 32-bit signed division, sign-extended. -/
  | divw (rd : Reg) (rs1 : Reg) (rs2 : Reg)
  /-- DIVUW (R67): 32-bit unsigned division, sign-extended. -/
  | divuw (rd : Reg) (rs1 : Reg) (rs2 : Reg)
  /-- REMW (R67): 32-bit signed remainder, sign-extended. -/
  | remw (rd : Reg) (rs1 : Reg) (rs2 : Reg)
  /-- REMUW (R67): 32-bit unsigned remainder, sign-extended. -/
  | remuw (rd : Reg) (rs1 : Reg) (rs2 : Reg)
  /-- JAL (R68): Jumps pc-relative and links; never checked. -/
  | jal (rd : Reg) (off : BitVec 20)
  /-- JALR (R69): Jumps to rs1 plus offset and links; checked for a landing pad unless a return. -/
  | jalr (rd : Reg) (rs1 : Reg) (imm : BitVec 12)
  /-- BEQ (R68): Branches when rs1 equals rs2. -/
  | beq (rs1 : Reg) (rs2 : Reg) (off : BitVec 12)
  /-- BNE (R68): Branches when rs1 differs from rs2. -/
  | bne (rs1 : Reg) (rs2 : Reg) (off : BitVec 12)
  /-- BLT (R68): Branches on signed less-than. -/
  | blt (rs1 : Reg) (rs2 : Reg) (off : BitVec 12)
  /-- BGE (R68): Branches on signed greater-or-equal. -/
  | bge (rs1 : Reg) (rs2 : Reg) (off : BitVec 12)
  /-- BLTU (R68): Branches on unsigned less-than. -/
  | bltu (rs1 : Reg) (rs2 : Reg) (off : BitVec 12)
  /-- BGEU (R68): Branches on unsigned greater-or-equal. -/
  | bgeu (rs1 : Reg) (rs2 : Reg) (off : BitVec 12)
  /-- LB (R72): Loads a sign-extended byte, behaving by page class. -/
  | lb (rd : Reg) (rs1 : Reg) (imm : BitVec 12)
  /-- LH (R72): Loads a sign-extended halfword. -/
  | lh (rd : Reg) (rs1 : Reg) (imm : BitVec 12)
  /-- LW (R72): Loads a sign-extended word. -/
  | lw (rd : Reg) (rs1 : Reg) (imm : BitVec 12)
  /-- LD (R72): Loads a doubleword; an exact read on LAT pages. -/
  | ld (rd : Reg) (rs1 : Reg) (imm : BitVec 12)
  /-- LBU (R72): Loads a zero-extended byte. -/
  | lbu (rd : Reg) (rs1 : Reg) (imm : BitVec 12)
  /-- LHU (R72): Loads a zero-extended halfword. -/
  | lhu (rd : Reg) (rs1 : Reg) (imm : BitVec 12)
  /-- LWU (R72): Loads a zero-extended word. -/
  | lwu (rd : Reg) (rs1 : Reg) (imm : BitVec 12)
  /-- SB (R72): Stores a byte; a join on LAT pages of width 1. -/
  | sb (rs1 : Reg) (rs2 : Reg) (imm : BitVec 12)
  /-- SH (R72): Stores a halfword. -/
  | sh (rs1 : Reg) (rs2 : Reg) (imm : BitVec 12)
  /-- SW (R72): Stores a word. -/
  | sw (rs1 : Reg) (rs2 : Reg) (imm : BitVec 12)
  /-- SD (R72): Stores a doubleword. -/
  | sd (rs1 : Reg) (rs2 : Reg) (imm : BitVec 12)
  /-- FLW (R70): Loads a word into an f register unchanged. -/
  | flw (rd : Reg) (rs1 : Reg) (imm : BitVec 12)
  /-- FSW (R73): Stores an f register word; a join on LAT pages of width 4. -/
  | fsw (rs1 : Reg) (rs2 : Reg) (imm : BitVec 12)
  /-- FENCE (R80): Acts as fence.s sys, acq+rel when pred and succ are nonzero, else orders nothing. -/
  | fence (pred : BitVec 4) (succ : BitVec 4)
  /-- FENCE_TSO (R80): Acts as fence.s sys, acq+rel. -/
  | fenceTso
  /-- FENCE_I (R78): Makes the context's fetches see its visible stores and discards fetched instructions. -/
  | fenceI
  /-- ECALL (R81): Takes a precise trap of cause 8 or 9. -/
  | ecall
  /-- EBREAK (R81): Takes a precise breakpoint trap, cause 3. -/
  | ebreak
  /-- KRET (R82): Returns from a trap handler: pc := kepc, PRV := PPRV, TIP := 0. -/
  | kret
  /-- CSRRW (R83): Atomically swaps a CSR with rs1. -/
  | csrrw (rd : Reg) (rs1 : Reg) (csr : BitVec 12)
  /-- CSRRS (R83): Reads a CSR and sets bits from rs1. -/
  | csrrs (rd : Reg) (rs1 : Reg) (csr : BitVec 12)
  /-- CSRRC (R83): Reads a CSR and clears bits from rs1. -/
  | csrrc (rd : Reg) (rs1 : Reg) (csr : BitVec 12)
  /-- CSRRWI (R83): Writes a 5-bit immediate to a CSR. -/
  | csrrwi (rd : Reg) (uimm : BitVec 5) (csr : BitVec 12)
  /-- CSRRSI (R83): Sets CSR bits from a 5-bit immediate. -/
  | csrrsi (rd : Reg) (uimm : BitVec 5) (csr : BitVec 12)
  /-- CSRRCI (R83): Clears CSR bits from a 5-bit immediate. -/
  | csrrci (rd : Reg) (uimm : BitVec 5) (csr : BitVec 12)
  /-- CSR_WRITE (R85): A write to a register that has no row of its own takes effect for the context's next instruction. -/
  | csrWrite (csr : BitVec 12) (v : BitVec 64)
  /-- KVSTAT_READ (R199): A read of kvstat waits for the context's vector, cask and copy work to retire, then returns the flags. -/
  | kvstatRead (rd : Reg)
  /-- FMADD_S (R88): Fused multiply-add, one rounding. -/
  | fmaddS (rd : Reg) (rs1 : Reg) (rs2 : Reg) (rs3 : Reg) (rm : BitVec 3)
  /-- FMSUB_S (R88): Fused multiply-subtract. -/
  | fmsubS (rd : Reg) (rs1 : Reg) (rs2 : Reg) (rs3 : Reg) (rm : BitVec 3)
  /-- FNMSUB_S (R88): Negated fused multiply-subtract. -/
  | fnmsubS (rd : Reg) (rs1 : Reg) (rs2 : Reg) (rs3 : Reg) (rm : BitVec 3)
  /-- FNMADD_S (R88): Negated fused multiply-add. -/
  | fnmaddS (rd : Reg) (rs1 : Reg) (rs2 : Reg) (rs3 : Reg) (rm : BitVec 3)
  /-- FADD_S (R88): FP32 addition. -/
  | faddS (rd : Reg) (rs1 : Reg) (rs2 : Reg) (rm : BitVec 3)
  /-- FSUB_S (R88): FP32 subtraction. -/
  | fsubS (rd : Reg) (rs1 : Reg) (rs2 : Reg) (rm : BitVec 3)
  /-- FMUL_S (R88): FP32 multiplication. -/
  | fmulS (rd : Reg) (rs1 : Reg) (rs2 : Reg) (rm : BitVec 3)
  /-- FDIV_S (R88): FP32 division. -/
  | fdivS (rd : Reg) (rs1 : Reg) (rs2 : Reg) (rm : BitVec 3)
  /-- FSQRT_S (R88): FP32 square root. -/
  | fsqrtS (rd : Reg) (rs1 : Reg) (rm : BitVec 3)
  /-- FSGNJ_S (R88): Sign injection. -/
  | fsgnjS (rd : Reg) (rs1 : Reg) (rs2 : Reg)
  /-- FSGNJN_S (R88): Negated sign injection. -/
  | fsgnjnS (rd : Reg) (rs1 : Reg) (rs2 : Reg)
  /-- FSGNJX_S (R88): Xor sign injection. -/
  | fsgnjxS (rd : Reg) (rs1 : Reg) (rs2 : Reg)
  /-- FMIN_S (R89): FP32 minimum with -0 below +0. -/
  | fminS (rd : Reg) (rs1 : Reg) (rs2 : Reg)
  /-- FMAX_S (R89): FP32 maximum with -0 below +0. -/
  | fmaxS (rd : Reg) (rs1 : Reg) (rs2 : Reg)
  /-- FCVT_W_S (R90): Converts FP32 to int32 with range saturation. -/
  | fcvtWS (rd : Reg) (rs1 : Reg) (rm : BitVec 3)
  /-- FCVT_WU_S (R90): Converts FP32 to uint32. -/
  | fcvtWuS (rd : Reg) (rs1 : Reg) (rm : BitVec 3)
  /-- FCVT_L_S (R90): Converts FP32 to int64. -/
  | fcvtLS (rd : Reg) (rs1 : Reg) (rm : BitVec 3)
  /-- FCVT_LU_S (R90): Converts FP32 to uint64. -/
  | fcvtLuS (rd : Reg) (rs1 : Reg) (rm : BitVec 3)
  /-- FCVT_S_W (R88): Converts int32 to FP32. -/
  | fcvtSW (rd : Reg) (rs1 : Reg) (rm : BitVec 3)
  /-- FCVT_S_WU (R88): Converts uint32 to FP32. -/
  | fcvtSWu (rd : Reg) (rs1 : Reg) (rm : BitVec 3)
  /-- FCVT_S_L (R88): Converts int64 to FP32. -/
  | fcvtSL (rd : Reg) (rs1 : Reg) (rm : BitVec 3)
  /-- FCVT_S_LU (R88): Converts uint64 to FP32. -/
  | fcvtSLu (rd : Reg) (rs1 : Reg) (rm : BitVec 3)
  /-- FMV_X_W (R88): Moves f bits to an x register, sign-extended. -/
  | fmvXW (rd : Reg) (rs1 : Reg)
  /-- FCLASS_S (R91): Writes the class mask of an FP32 value. -/
  | fclassS (rd : Reg) (rs1 : Reg)
  /-- FEQ_S (R89): FP32 equality comparison. -/
  | feqS (rd : Reg) (rs1 : Reg) (rs2 : Reg)
  /-- FLT_S (R89): FP32 less-than comparison. -/
  | fltS (rd : Reg) (rs1 : Reg) (rs2 : Reg)
  /-- FLE_S (R89): FP32 less-or-equal comparison. -/
  | fleS (rd : Reg) (rs1 : Reg) (rs2 : Reg)
  /-- FMV_W_X (R88): Moves x bits [31:0] to an f register. -/
  | fmvWX (rd : Reg) (rs1 : Reg)
  /-- HSTART (R26): Starts the next helper in rotation, or returns -1 if it is still live. -/
  | hstart (rd : Reg) (rs1 : Reg) (rs2 : Reg)
  /-- HEXIT (R27): Ends the issuing context after draining its work. -/
  | hexit (rs1 : Reg)
  /-- HEXIT_COMPLETE (R27): When the drain ends (and, for context 0, all helpers have retired) the context retires and passes or discards its signature. -/
  | hexitComplete (ep : Nat) (ctx : Fin 11)
  /-- HWAIT (R28): Parks until a helper retires and returns its exit value. -/
  | hwait (rd : Reg) (rs1 : Reg)
  /-- CARVE (R161): Arrives at the team barrier to renegotiate the carve-out. -/
  | carve (rd : Reg) (rs1 : Reg) (rs2 : Reg)
  /-- CARVE_RECONFIGURE (R161): Once every helper has arrived and the drain ends, applies or refuses the new carve and releases the barrier. -/
  | carveReconfigure (ep : Nat)
  /-- GANG (R337): Arrives at the gang-set rendezvous to fuse the set into one gang. -/
  | gang (rd : Reg)
  /-- SPLIT (R338): Drains the gang and returns each member to its own team. -/
  | split (rd : Reg)
  /-- GANG_RENDEZVOUS (R337): When every core of the set has arrived and drained, ganging is refused or done. -/
  | gangRendezvous (ep : Nat)
  /-- LPAD (R47): Marks a landing pad; no effect unless checked. -/
  | lpad (label : BitVec 12)
  /-- JT (R52): Jumps through a bounded jump table and expects its label. -/
  | jt (rd : Reg) (rs1 : Reg) (tb : Reg)
  /-- FENCE_S (R315): Scoped fence with acquire, release and SC flags. -/
  | fenceS (sc : BitVec 1) (rel : BitVec 1) (acq : BitVec 1) (scope : BitVec 3)
  /-- BAR (R391): Releases, arrives at the domain barrier and waits for its release. -/
  | bar (lvl : BitVec 5)
  /-- SEND (R393): Stages a vector register for an arrival channel at the end of the phase. -/
  | send (rs1 : Reg) (rs2 : Reg)
  /-- TSEND (R400): Checks the slot and waits for its next occurrence to send a vector register. -/
  | tsend (rs1 : Reg) (rs2 : Reg)
  /-- TSEND_SLOT_SEND (R400): At the start of the slot occurrence the data travel along the reserved route. -/
  | tsendSlotSend (ep : Nat) (ctx : Fin 11)
  /-- QARM (R410): Arms or disarms a quiescence handler on a domain. -/
  | qarm (rs1 : Reg) (rs2 : Reg)
  /-- QRETIRE (R412): Retires a context of the declared domain from a quiescence handler. -/
  | qretire (rs1 : Reg)
  /-- TASKQ (R440): Asks the distributor for the next range-task index into an answer pair. -/
  | taskq (rs1 : Reg)
  /-- TASKPUT (R443): Submits a queue entry to a distributor queue as a package-scope release. -/
  | taskput (rs1 : Reg) (rs2 : Reg)
  /-- TASKEND (R442): Returns the context's remaining interval to the range task. -/
  | taskend
  /-- LEASE (R489): SC-class request to lease a free memory core. -/
  | lease (rd : Reg) (rs1 : Reg) (rs2 : Reg)
  /-- RENEW (R490): SC-class reset of a lease's expiry count. -/
  | renew (rd : Reg) (rs1 : Reg) (rs2 : Reg)
  /-- UNLEASE (R491): SC-class release of a lease. -/
  | unlease (rs1 : Reg)
  /-- MCALL (R492): Releases the named ranges and sends a call to a leased memory core. -/
  | mcall (rd : Reg) (rs1 : Reg) (rs2 : Reg)
  /-- TLBW (R365): Installs a translation entry in the cluster's L2 TLB or refuses it. -/
  | tlbw (rd : Reg) (rs1 : Reg)
  /-- TLBINV (R366): Removes every translation of a page from the device, with write-backs. -/
  | tlbinv (rd : Reg) (rs1 : Reg) (rs2 : Reg)
  /-- REPLAYALL (R368): Sends an all notice for the cluster to every ticket-holding unit and seen device. -/
  | replayall
  /-- TKPOST (R367): Answers a fault-buffer slot with a status and frees it. -/
  | tkpost (rs1 : Reg) (rs2 : Reg)
  /-- FLUSHCTX (R369): Flushes one team's buffered, cached and TLB state from one core. -/
  | flushctx (rd : Reg) (rs1 : Reg)
  /-- RHOLD (R477): Creates a residency handle over a range of pages. -/
  | rhold (rd : Reg) (rs1 : Reg) (rs2 : Reg)
  /-- RPRIO (R477): Changes a residency handle's priority. -/
  | rprio (rs1 : Reg) (rs2 : Reg)
  /-- RDROP (R477): Frees a residency handle. -/
  | rdrop (rs1 : Reg)
  /-- JOIN (R106): Joins the low W bytes of rs2 into a LAT element. -/
  | join (rs1 : Reg) (rs2 : Reg)
  /-- XLD (R109): Exact read of a LAT element at the page's width. -/
  | xld (rd : Reg) (rs1 : Reg)
  /-- JOINM (R108): Joins one value into up to 16 listed destinations. -/
  | joinm (rs1 : Reg) (rs2 : Reg)
  /-- CORK (R113): Ends growth of every line in a range. -/
  | cork (rs1 : Reg) (rs2 : Reg)
  /-- CORKW (R114): Corks a range and parks until every press acknowledges. -/
  | corkw (rs1 : Reg) (rs2 : Reg)
  /-- BOTTLE (R117): Publishes OWN pages as corked FILL pages without copying. -/
  | bottle (rs1 : Reg) (rs2 : Reg)
  /-- REL (R121): Waits for earlier accesses, then sends a MAXU join with the write signature. -/
  | rel (rs1 : Reg) (rs2 : Reg)
  /-- REL_SEND (R121): When the release wait ends, the signature is taken and cleared and the join is sent. -/
  | relSend (ep : Nat) (ctx : Fin 11)
  /-- RACK (R131): Racks every fold line of a range now and parks until done. -/
  | rack (rs1 : Reg) (rs2 : Reg)
  /-- ACQ (R124): Parks until the variable passes t, then invalidates by the received signature. -/
  | acq (rd : Reg) (rs1 : Reg) (rs2 : Reg) (rs3 : Reg)
  /-- FOLD_S (R127): Appends an FP32 fold record to the lees. -/
  | foldS (rs1 : Reg) (rs2 : Reg) (rs3 : Reg) (lvl : BitVec 2)
  /-- RECYCLE (R119): Returns LAT pages to use with a new class, type or owner and a new vintage. -/
  | recycle (rs1 : Reg) (rs2 : Reg) (rs3 : Reg)
  /-- FOLD_H (R127): Appends a BF16 fold record, widened to FP32. -/
  | foldH (rs1 : Reg) (rs2 : Reg) (rs3 : Reg) (lvl : BitVec 2)
  /-- WAIT_GE (R111): Parks until the element passes the trigger in its growth order. -/
  | waitGe (rd : Reg) (rs1 : Reg) (rs2 : Reg)
  /-- WAIT_HAS (R111): Parks until an OR element holds every trigger bit. -/
  | waitHas (rd : Reg) (rs1 : Reg) (rs2 : Reg)
  /-- WAIT_ANY (R112): Parks until one of an incompatible list of triggers is passed. -/
  | waitAny (rd : Reg) (rs1 : Reg) (rs2 : Reg)
  /-- WAIT_FULL (R111): Parks until a FILL element or FILLT line is filled. -/
  | waitFull (rd : Reg) (rs1 : Reg)
  /-- WAIT_CORK (R111): Parks until the line is corked or racked. -/
  | waitCork (rd : Reg) (rs1 : Reg)
  /-- WAIT_ANSWER (R110): The press's answer wakes a parked WAIT and writes its index. -/
  | waitAnswer (k : Nat)
  /-- ACQ_ANSWER (R124): The press's answer wakes an ACQ, applies Invalidate(G) and writes the result. -/
  | acqAnswer (k : Nat)
  /-- CORK_ACK (R114): The last press acknowledgement wakes a CORKW. -/
  | corkAck (ep : Nat) (ctx : Fin 11)
  /-- RACK_COMPLETE (R131): When every line of the range is racked the RACK wakes. -/
  | rackComplete (ep : Nat) (ctx : Fin 11)
  /-- VADD (R211): Elementwise add. -/
  | vadd (bc : BitVec 1) (t : ElemT) (rd : Reg) (rs1 : Reg) (rs2 : Reg)
  /-- VSUB (R211): Elementwise subtract. -/
  | vsub (bc : BitVec 1) (t : ElemT) (rd : Reg) (rs1 : Reg) (rs2 : Reg)
  /-- VMUL (R211): Elementwise multiply. -/
  | vmul (bc : BitVec 1) (t : ElemT) (rd : Reg) (rs1 : Reg) (rs2 : Reg)
  /-- VFMA (R211): Elementwise fused multiply-add into rd. -/
  | vfma (bc : BitVec 1) (t : ElemT) (rd : Reg) (rs1 : Reg) (rs2 : Reg)
  /-- VMAX (R211): Elementwise maximum. -/
  | vmax (bc : BitVec 1) (t : ElemT) (rd : Reg) (rs1 : Reg) (rs2 : Reg)
  /-- VMIN (R211): Elementwise minimum. -/
  | vmin (bc : BitVec 1) (t : ElemT) (rd : Reg) (rs1 : Reg) (rs2 : Reg)
  /-- VABS (R211): Elementwise absolute value. -/
  | vabs (t : ElemT) (rd : Reg) (rs1 : Reg)
  /-- VNEG (R211): Elementwise negation. -/
  | vneg (t : ElemT) (rd : Reg) (rs1 : Reg)
  /-- VEXP2 (R213): Correctly rounded 2^a. -/
  | vexp2 (t : ElemT) (rd : Reg) (rs1 : Reg)
  /-- VRCP (R213): Correctly rounded reciprocal. -/
  | vrcp (t : ElemT) (rd : Reg) (rs1 : Reg)
  /-- VRSQ (R213): Correctly rounded reciprocal square root. -/
  | vrsq (t : ElemT) (rd : Reg) (rs1 : Reg)
  /-- VLOG2 (R213): Correctly rounded log2. -/
  | vlog2 (t : ElemT) (rd : Reg) (rs1 : Reg)
  /-- VAND (R212): Elementwise bitwise and. -/
  | vand (bc : BitVec 1) (t : ElemT) (rd : Reg) (rs1 : Reg) (rs2 : Reg)
  /-- VOR (R212): Elementwise bitwise or. -/
  | vor (bc : BitVec 1) (t : ElemT) (rd : Reg) (rs1 : Reg) (rs2 : Reg)
  /-- VXOR (R212): Elementwise bitwise xor. -/
  | vxor (bc : BitVec 1) (t : ElemT) (rd : Reg) (rs1 : Reg) (rs2 : Reg)
  /-- VSHL (R212): Elementwise left shift. -/
  | vshl (bc : BitVec 1) (t : ElemT) (rd : Reg) (rs1 : Reg) (rs2 : Reg)
  /-- VSHRA (R212): Elementwise arithmetic right shift. -/
  | vshra (bc : BitVec 1) (t : ElemT) (rd : Reg) (rs1 : Reg) (rs2 : Reg)
  /-- VSHRL (R212): Elementwise logical right shift. -/
  | vshrl (bc : BitVec 1) (t : ElemT) (rd : Reg) (rs1 : Reg) (rs2 : Reg)
  /-- VCMPLT (R214): Writes a mask of elementwise less-than. -/
  | vcmplt (bc : BitVec 1) (t : ElemT) (rd : Reg) (rs1 : Reg) (rs2 : Reg)
  /-- VCMPEQ (R214): Writes a mask of elementwise equality. -/
  | vcmpeq (bc : BitVec 1) (t : ElemT) (rd : Reg) (rs1 : Reg) (rs2 : Reg)
  /-- VSEL (R215): Selects elements by the MIDX mask. -/
  | vsel (bc : BitVec 1) (t : ElemT) (rd : Reg) (rs1 : Reg) (rs2 : Reg)
  /-- VREDSUM (R218): Pairwise-tree sum of the active elements. -/
  | vredsum (t : ElemT) (rd : Reg) (rs1 : Reg)
  /-- VREDMAX (R219): Maximum of the active elements. -/
  | vredmax (t : ElemT) (rd : Reg) (rs1 : Reg)
  /-- VCVT (R220): Converts between an element type and a non-block format, with optional amax. -/
  | vcvt (bc : BitVec 1) (t : ElemT) (rd : Reg) (rs1 : Reg) (fmt : BitVec 4)
  /-- VBCAST (R222): Broadcasts a scalar or a selected element. -/
  | vbcast (bc : BitVec 1) (t : ElemT) (rd : Reg) (rs1 : Reg) (rs2 : Reg)
  /-- VPERM (R222): Permutes elements by an index vector. -/
  | vperm (t : ElemT) (rd : Reg) (rs1 : Reg) (rs2 : Reg)
  /-- VAMAX (R221): Offers active elements to an amax register. -/
  | vamax (t : ElemT) (rs1 : Reg)
  /-- VMOVM (R217): Moves and combines masks by subop. -/
  | vmovm (t : ElemT) (rd : Reg) (rs1 : Reg) (subop : BitVec 5)
  /-- VSLIDE (R223): Shifts elements by a signed scalar amount. -/
  | vslide (t : ElemT) (rd : Reg) (rs1 : Reg) (rs2 : Reg)
  /-- VTRN (R223): One step of a 2x2 transpose. -/
  | vtrn (t : ElemT) (rd : Reg) (rs1 : Reg) (rs2 : Reg)
  /-- VLD (R227): Loads 512 contiguous bytes. -/
  | vld (rd : Reg) (rs1 : Reg)
  /-- VST (R227): Stores 512 contiguous bytes; joins on LAT pages. -/
  | vst (rd : Reg) (rs1 : Reg)
  /-- VLDS (R229): Strided segment load. -/
  | vlds (rd : Reg) (rs1 : Reg) (rs2 : Reg)
  /-- VSTS (R229): Strided segment store. -/
  | vsts (rd : Reg) (rs1 : Reg) (rs2 : Reg)
  /-- VLDX (R230): Gathers 128 words. -/
  | vldx (rd : Reg) (rs1 : Reg) (rs2 : Reg)
  /-- VSTX (R230): Scatters 128 words. -/
  | vstx (rd : Reg) (rs1 : Reg) (rs2 : Reg)
  /-- VXLD (R227): Exact vector read of a LAT page. -/
  | vxld (rd : Reg) (rs1 : Reg)
  /-- VJOIN (R227): Vector join into a LAT page. -/
  | vjoin (rd : Reg) (rs1 : Reg)
  /-- SBIND (R234): Binds a stream register to a generator or arrival channel. -/
  | sbind (rd : Reg) (rs1 : Reg) (rs2 : Reg)
  /-- SUNBIND (R234): Ends a stream binding and zeroes the register. -/
  | sunbind (rd : Reg)
  /-- VLDF (R232): Reads and empties a full synchronised block. -/
  | vldf (rd : Reg) (rs1 : Reg)
  /-- VSTF (R233): Writes and fills an empty synchronised block. -/
  | vstf (rd : Reg) (rs1 : Reg)
  /-- VFOLD (R231): Appends one fold record per active lane. -/
  | vfold (rd : Reg) (rs1 : Reg) (rs2 : Reg)
  /-- MMA (R248): Pushes a dense matrix multiply-accumulate into an accumulator. -/
  | mma (zd : BitVec 2) (acc : BitVec 1) (tb : BitVec 1) (ta : BitVec 1) (pair : BitVec 4) (rs1 : Reg) (rs2 : Reg) (rs3 : Reg)
  /-- MMAS (R248): Pushes a 2:4-sparse matrix multiply-accumulate. -/
  | mmas (zd : BitVec 2) (acc : BitVec 1) (tb : BitVec 1) (pair : BitVec 2) (rs1 : Reg) (rs2 : Reg) (rs3 : Reg)
  /-- MZERO (R253): Clears an accumulator. -/
  | mzero (rd : Reg)
  /-- MCVTST (R254): Converts and stores 64 accumulator rows, optionally transposed. -/
  | mcvtst (rd : Reg) (rs1 : Reg) (rs2 : Reg)
  /-- CNLD (R259): Fills canopy stripes from scratchpad or memory. -/
  | cnld (rs1 : Reg) (rs2 : Reg)
  /-- MSEND (R260): Pushes a matrix command into another core's engine. -/
  | msend (rs1 : Reg) (rs2 : Reg)
  /-- MPOP (R251): Pops the context's oldest engine completion. -/
  | mpop (rd : Reg)
  /-- AMXRD (R266): Reads an amax register. -/
  | amxrd (rd : Reg) (rs1 : Reg)
  /-- AMXCLR (R266): Clears an amax register. -/
  | amxclr (rs1 : Reg)
  /-- AMXJOIN (R266): Joins an amax register into a MAXF element. -/
  | amxjoin (rs1 : Reg) (rs2 : Reg)
  /-- MRD (R253): Reads an accumulator row quarter into a vector register. -/
  | mrd (rd : Reg) (rs1 : Reg) (rs2 : Reg)
  /-- MWR (R253): Writes a vector register into an accumulator row quarter. -/
  | mwr (rd : Reg) (rs1 : Reg) (rs2 : Reg)
  /-- ENGINE_COMMAND_START (R249): The matrix engine starts the next queued command in push order. -/
  | engineCommandStart (ep : Nat)
  /-- ENGINE_COMMAND_COMPLETE (R250): A matrix-engine command finishes and its completion token is queued for its pusher. -/
  | engineCommandComplete (ep : Nat)
  /-- MSEND_ARRIVAL (R263): A remote matrix command arrives at the target, is access- and capability-checked and enters its queue. -/
  | msendArrival (k : Nat)
  /-- CK_AXPY (R283): Cask y := y + a*x. -/
  | ckAxpy (rd : Reg) (rs1 : Reg) (rs2 : Reg)
  /-- CK_SCAL (R283): Cask scaling by a. -/
  | ckScal (rd : Reg) (rs1 : Reg) (rs2 : Reg)
  /-- CK_DOT (R284): Cask dot product with a fixed sum order. -/
  | ckDot (rs1 : Reg) (rs2 : Reg)
  /-- CK_MAX (R283): Cask elementwise maximum. -/
  | ckMax (rs1 : Reg) (rs2 : Reg)
  /-- CK_SMX (R285): Cask softmax-partial update. -/
  | ckSmx (rd : Reg) (rs1 : Reg) (rs2 : Reg)
  /-- CK_AMAX (R283): Offers a cask vector to an amax register. -/
  | ckAmax (rs1 : Reg) (rs2 : Reg)
  /-- CK_CVT (R283): Cask scaled conversion to any format. -/
  | ckCvt (rd : Reg) (rs1 : Reg) (rs2 : Reg)
  /-- CK_FILL (R283): Fills a cask vector with a converted scalar. -/
  | ckFill (rd : Reg) (rs1 : Reg) (rs2 : Reg)
  /-- CK_EMPTY (R283): Marks synchronised words empty. -/
  | ckEmpty (rs1 : Reg) (rs2 : Reg)
  /-- CK_SUM (R284): Cask sum with a fixed order. -/
  | ckSum (rs1 : Reg) (rs2 : Reg)
  /-- CASK_PART_EXECUTE (R282): A cask part, once its read words are full, checks write-only words and performs its effect. -/
  | caskPartExecute (ep : Nat) (k : Nat)
  /-- REMOTE_CASK_ARRIVAL (R289): A remote cask command arrives at the target core and is checked against its carve. -/
  | remoteCaskArrival (k : Nat)
  /-- CP (R292): Copies bytes between OWN or HOST pages and windows. -/
  | cp (rd : Reg) (rs1 : Reg) (rs2 : Reg) (rs3 : Reg)
  /-- CPX (R292): Copies from a LAT page by exact read. -/
  | cpx (rd : Reg) (rs1 : Reg) (rs2 : Reg) (rs3 : Reg)
  /-- CPJ (R292): Copies into a LAT page by joins. -/
  | cpj (rd : Reg) (rs1 : Reg) (rs2 : Reg) (rs3 : Reg)
  /-- CPFILL (R292): Copies into synchronised scratchpad, filling words. -/
  | cpfill (rd : Reg) (rs1 : Reg) (rs2 : Reg) (rs3 : Reg)
  /-- COPY_PORTION (R293): The copy engine performs the next portion of a copy in destination order. -/
  | copyPortion (ep : Nat)
  /-- COPY_COMPLETE (R294): A copy completes and its token is written to rd. -/
  | copyComplete (ep : Nat)
  /-- EMPTY_WORD_READ_WAKE (R277): A woken context reissues its read of a filled word. -/
  | emptyWordReadWake (ep : Nat) (ctx : Fin 11)
  /-- COMBINING_BUFFER_LEAVE (R175): A combining-buffer entry's hold time ends and it leaves for the press or L1. -/
  | combiningBufferLeave (ep : Nat) (k : Nat)
  /-- DEFERRED_TRAP (R139): A failure that reaches the context after issue is taken at the next instruction boundary. -/
  | deferredTrap (ep : Nat) (ctx : Fin 11)
  /-- REPORT_POST (R147): A reported-fault record arrives and is posted in the report area, or lost when full. -/
  | reportPost (k : Nat)
  /-- REPORT_DELIVERY (R150): A pending record is delivered as an asynchronous trap once TIP is 0 and the context runs. -/
  | reportDelivery (ep : Nat) (ctx : Fin 11)
  /-- RTAIL_WRITE (R147): A write to RTAIL consumes records unless it would leave the bounds. -/
  | rtailWrite (ep : Nat) (ctx : Fin 11) (v : BitVec 32)
  /-- FAULT_BUFFER_REQUEST (R357): A ticketed request coalesces onto a slot, allocates one, or takes an unlisted ticket. -/
  | faultBufferRequest (k : Nat)
  /-- KFBMSG_READ (R363): A read of kfbmsg dequeues the oldest message, moving a slot into service, or stalls. -/
  | kfbmsgRead (rd : Reg)
  /-- REPLAY_NOTICE (R372): A matching replay notice replays, fails or freezes ticket entries in age order. -/
  | replayNotice (k : Nat)
  /-- FLUSH_ACK (R452): The old core's flush acknowledgement lets the migrated team's first acquire proceed. -/
  | flushAck (ep : Nat)
  /-- CLUSTER_BARRIER_RELEASE (R345): When every member core arrives the cluster unit racks and releases the domain. -/
  | clusterBarrierRelease (k : Nat)
  /-- BARRIER_RELEASE (R390): A domain barrier releases every waiting member once all arrivals, racks, SENDs and TSENDs are done. -/
  | barrierRelease (k : Nat)
  /-- CHANNEL_ROOM_FREED (R395): An entry waiting for channel room is placed when a read frees an entry. -/
  | channelRoomFreed (ep : Nat) (ch : Fin 8)
  /-- TIMED_ARRIVAL (R401): A timed arrival enters its channel, the holding buffer, or waits in the router and sets LATE. -/
  | timedArrival (k : Nat)
  /-- ROUTER_COMBINE_LEAVE (R385): A router combining entry's 16 cycles end and it is sent on. -/
  | routerCombineLeave (k : Nat)
  /-- NOTIFICATION_WINDOW (R403): At the end of a 32-cycle window, announcements are ordered and delivered 64 cycles later, completing SC operations. -/
  | notificationWindow
  /-- DETECTOR_SAMPLE (R406): Every 1,024 cycles the die detector samples idleness and wake events. -/
  | detectorSample
  /-- QUIESCENCE_PROBE (R413): The coordinator probes every device of a fabric domain for idle state and packet totals. -/
  | quiescenceProbe (dom : BitVec 16)
  /-- PROBE_RESTART (R413): After 4,096 cycles a failed confirmation restarts the probe exchange. -/
  | probeRestart (dom : BitVec 16)
  /-- TASK_RECORD_DECODE (R426): A queue entry is decoded against its base record and accepted or refused. -/
  | taskRecordDecode (dist : Fin 4) (k : Nat)
  /-- HEAD_LATENESS_CHECK (R427): A record reaching the head is checked against the time and dropped or kept if late. -/
  | headLatenessCheck (dist : Fin 4) (q : Fin 16)
  /-- DISTRIBUTOR_SELECT (R428): The distributor selects the candidate with the smallest key. -/
  | distributorSelect (dist : Fin 4)
  /-- DISPATCH (R432): A selected record whose cores are available starts every team in one step. -/
  | dispatch (dist : Fin 4)
  /-- TEAM_COMPLETION (R434): A team completes, frees its cores and posts its completion record. -/
  | teamCompletion (ep : Nat)
  /-- TASKQ_ANSWER (R440): The distributor answers a TASKQ by filling the pair, or returns the index if the pair is full. -/
  | taskqAnswer (dist : Fin 4) (k : Nat)
  /-- BALANCER_TICK (R444): Every 4,096 cycles the balancer issues up to four migration commands. -/
  | balancerTick
  /-- MIGRATION_COMMAND (R445): A source distributor moves movable records into the destination's transfer list. -/
  | migrationCommand (k : Nat)
  /-- PREEMPT (R449): A team is stopped, drained and written to its image slots. -/
  | preempt (ep : Nat)
  /-- RESUME (R451): A pre-empted team is restored on its own or other cores and replays its tickets. -/
  | resume (dist : Fin 4) (target : List Nat)
  /-- PRESS_JOIN (R463): The press applies a join in press order, or discards and reports it. -/
  | pressJoin (k : Nat)
  /-- PRESS_EXACT_READ (R464): The press answers an exact read with the line and a readability mask. -/
  | pressExactRead (k : Nat)
  /-- PRESS_WAIT_REGISTER (R465): A WAIT or ACQ is answered at once or registered, overflowing to the waiter table or retry. -/
  | pressWaitRegister (k : Nat)
  /-- PRESS_WAIT_RETRY (R465): 1,024 cycles after a retry answer the core reissues the wait. -/
  | pressWaitRetry (k : Nat)
  /-- PRESS_REL (R122): The press applies a REL join and updates the line's signature ring. -/
  | pressRel (k : Nat)
  /-- PRESS_CORK (R115): The press sets the line's cork state and answers its registrations. -/
  | pressCork (k : Nat)
  /-- PRESS_FOLD_APPEND (R128): The press appends a fold record or discards it as second domain or after rack. -/
  | pressFoldAppend (k : Nat)
  /-- LEASE_COUNT_TICK (R489): COUNT is decremented each time the cycle counter passes a multiple of 1,024. -/
  | leaseCountTick
  /-- LEASE_LAPSE (R496): A lapse stops the memory core at its SC place and drains it. -/
  | leaseLapse (mc : Nat)
  /-- MC_DRAIN_COMPLETE (R496): A draining memory core delivers STATUS 1 tokens, reports cause 35 and becomes FREE. -/
  | mcDrainComplete (mc : Nat)
  /-- MC_CALL_START (R492): A call arrives at the memory core and starts or queues. -/
  | mcCallStart (mc : Nat)
  /-- MCALL_TOKEN (R493): The call ends and its token and signature return to the issuer. -/
  | mcallToken (mc : Nat)
  /-- MC_BUNDLE (R479): The memory core issues one 64-bit bundle of two moves. -/
  | mcBundle (mc : Nat)
  /-- MC_ADD (R480): ALU trigger: r := a + v. -/
  | mcAdd (mc : Nat) (v : BitVec 64)
  /-- MC_SUB (R480): ALU trigger: r := a - v. -/
  | mcSub (mc : Nat) (v : BitVec 64)
  /-- MC_AND (R480): ALU trigger: bitwise and. -/
  | mcAnd (mc : Nat) (v : BitVec 64)
  /-- MC_OR (R480): ALU trigger: bitwise or. -/
  | mcOr (mc : Nat) (v : BitVec 64)
  /-- MC_XOR (R480): ALU trigger: bitwise xor. -/
  | mcXor (mc : Nat) (v : BitVec 64)
  /-- MC_SHL (R480): ALU trigger: left shift. -/
  | mcShl (mc : Nat) (v : BitVec 64)
  /-- MC_SHR (R480): ALU trigger: logical right shift. -/
  | mcShr (mc : Nat) (v : BitVec 64)
  /-- MC_SRA (R480): ALU trigger: arithmetic right shift. -/
  | mcSra (mc : Nat) (v : BitVec 64)
  /-- MC_MUL (R480): ALU trigger: low 64 bits of the product. -/
  | mcMul (mc : Nat) (v : BitVec 64)
  /-- MC_LTU (R480): ALU trigger: unsigned less-than. -/
  | mcLtu (mc : Nat) (v : BitVec 64)
  /-- MC_LT (R480): ALU trigger: signed less-than. -/
  | mcLt (mc : Nat) (v : BitVec 64)
  /-- MC_EQ (R480): ALU trigger: equality. -/
  | mcEq (mc : Nat) (v : BitVec 64)
  /-- MC_MINU (R480): ALU trigger: unsigned minimum. -/
  | mcMinu (mc : Nat) (v : BitVec 64)
  /-- MC_MAXU (R480): ALU trigger: unsigned maximum. -/
  | mcMaxu (mc : Nat) (v : BitVec 64)
  /-- MC_INC (R480): ALU trigger: v + 1. -/
  | mcInc (mc : Nat) (v : BitVec 64)
  /-- MC_DEC (R480): ALU trigger: v - 1. -/
  | mcDec (mc : Nat) (v : BitVec 64)
  /-- MC_NOT (R480): ALU trigger: bitwise not. -/
  | mcNot (mc : Nat) (v : BitVec 64)
  /-- MC_NEG (R480): ALU trigger: negation. -/
  | mcNeg (mc : Nat) (v : BitVec 64)
  /-- MC_LD (R482): Loads 8 bytes at v into lr. -/
  | mcLd (mc : Nat) (v : BitVec 64)
  /-- MC_LWZ (R482): Loads 4 bytes zero-extended into lr. -/
  | mcLwz (mc : Nat) (v : BitVec 64)
  /-- MC_ST (R482): Stores 8 bytes of v at sa. -/
  | mcSt (mc : Nat) (v : BitVec 64)
  /-- MC_SW4 (R482): Stores the low 4 bytes of v at sa. -/
  | mcSw4 (mc : Nat) (v : BitVec 64)
  /-- MC_LLD (R482): Loads a line into the selected buffer. -/
  | mcLld (mc : Nat) (v : BitVec 64)
  /-- MC_LST (R482): Stores the selected buffer to an OWN or HOST line. -/
  | mcLst (mc : Nat) (v : BitVec 64)
  /-- MC_LJOIN (R482): Joins the selected buffer into a LAT line. -/
  | mcLjoin (mc : Nat) (v : BitVec 64)
  /-- MC_PW (R483): Pushes the selected buffer into a compute core's scratchpad window. -/
  | mcPw (mc : Nat) (v : BitVec 64)
  /-- MC_PC (R483): Pushes the selected buffer into a canopy line. -/
  | mcPc (mc : Nat) (v : BitVec 64)
  /-- MC_BPUT (R480): Writes a buffer word and advances bi. -/
  | mcBput (mc : Nat) (v : BitVec 64)
  /-- MC_BGET (R480): Reads a buffer word and advances bi. -/
  | mcBget (mc : Nat)
  /-- MC_JMP (R480): Branches after one delay bundle. -/
  | mcJmp (mc : Nat) (v : BitVec 64)
  /-- MC_DONE (R480): Ends the call with value v after earlier accesses are performed. -/
  | mcDone (mc : Nat) (v : BitVec 64)
  /-- MC_FENCE (R480): Stalls until earlier accesses are performed at package scope. -/
  | mcFence (mc : Nat)
  /-- MC_PUSH_ARRIVAL (R483): A memory-core push reaches its target core, waits if the team is pre-empted, or fails. -/
  | mcPushArrival (k : Nat)
  /-- UNIT_MARK (R524): A unit over its error threshold is marked, logged and RREQ set. -/
  | unitMark (unit : Nat) (logic : Bool)
  /-- UNIT_DISABLE (R524): A marked unit is disabled when its team ends, it becomes FREE, or at boot. -/
  | unitDisable (unit : Nat)
  /-- ERROR_EPOCH_END (R524): A 2^40 ns epoch ends and per-unit corrected-error counts restart. -/
  | errorEpochEnd
  /-- THERMAL_STEP (R521): Per millisecond, THROT follows the hottest sensor and posts a power event. -/
  | thermalStep (temps : Vector (BitVec 16) 4) (power : BitVec 16)
  /-- THERMAL_TRIP (R521): At 115 C the device stops issuing and sets TTRIP. -/
  | thermalTrip
  /-- DEVICE_RESET (R511): Power-on or host reset resets every unit (boot stage 1). -/
  | deviceReset
  /-- SELF_TEST (R511): Boot stage 2 tests units and writes capacity fields. -/
  | selfTest (badCores : List Nat) (badMcores : List Nat) (badPch : List Nat)
  /-- MEMORY_TRAINING (R511): Boot stage 3 trains HBM and second-tier links. -/
  | memoryTraining (t2len : Vector (BitVec 41) 12) (ok : Bool)
  /-- LINE_STATE_ZERO (R511): Boot stage 4 zeroes line-state, waiter and lees parts. -/
  | lineStateZero
  /-- CHOING_LOAD (R511): Boot stage 6 loads Choing into every service core after the host writes HTAIL. -/
  | choingLoad (entry : BitVec 64) (image : List (Nat × Nat × Nat))
  /-- HTAIL_WRITE (R518): The host doorbell starts intake of HSQ entries in sequence order. -/
  | htailWrite (v : BitVec 32)
  /-- HSQ_TASK_ENTRY (R517): A host task entry is decoded into its queue. -/
  | hsqTaskEntry
  /-- HSQ_PREEMPT (R517): A host request pre-empts a team. -/
  | hsqPreempt
  /-- HSQ_UNFREEZE (R517): A host request unfreezes an endpoint. -/
  | hsqUnfreeze
  /-- HSQ_WAKE (R517): A host request sets or clears a domain's HWAKE. -/
  | hsqWake
  /-- HSQ_RELEASE_HELD (R517): A host request releases a HELD memory core to FREE. -/
  | hsqReleaseHeld
  /-- HSQ_QUEUE_RESET (R517): A host request resets a queue's host base record. -/
  | hsqQueueReset
  /-- HSQ_MALFORMED (R517): An unknown HSQ kind posts a sequence event and counts as accepted. -/
  | hsqMalformed
  /-- RING_LOG_WRITE (R510): A write of HSQLOG or DEQLOG sets up a ring and zeroes its sequence registers. -/
  | ringLogWrite (deq : Bool) (v : BitVec 64)
  /-- DCONS_WRITE (R519): The host acknowledges consumed device entries, freeing ring room. -/
  | dconsWrite (v : BitVec 32)
  /-- DEQ_POST (R519): A waiting report is posted into the device ring when room exists. -/
  | deqPost
  /-- HOST_READ (R514): A host read through the device window is translated and served by page class. -/
  | hostRead (w : BitVec 40) (len : Nat)
  /-- HOST_WRITE (R514): A host write through the device window is a plain write or a join by page class. -/
  | hostWrite (w : BitVec 40) (len : Nat) (data : Nat) (be : Nat)
  /-- BACK_INVALIDATE_RESPONSE (R515): The host's response to a back-invalidation snoop lets the waiting device access proceed. -/
  | backInvalidateResponse (k : Nat)
  /-- PORT_DOWN (R531): A port exceeding its retry limit goes down and unacknowledged packets are resent on the next port. -/
  | portDown (port : Fin 36)
  /-- GATEWAY_MERGE_SEND (R548): A gateway join entry's 32-cycle window ends and it is sent. -/
  | gatewayMergeSend (k : Nat)
  /-- DEV_WRITE (R536): An accepted write of the device number takes effect at once everywhere. -/
  | devWrite (v : BitVec 64)
  /-- REGION_TABLE_WRITE (R536): A write to RTBASE or RTN empties every gateway's region cache. -/
  | regionTableWrite (rtn : Bool) (v : BitVec 64)
  /-- RD (R546): A remote read request arrives and is checked and served at the target. -/
  | pktRd (p : Packet)
  /-- JN (R547): A remote join request arrives and is checked and sent to the press. -/
  | pktJn (p : Packet)
  /-- FD (R533): Remote fold records arrive for the target presses. -/
  | pktFd (p : Packet)
  /-- WT (R550): A remote WAIT or ACQ registration arrives at the target press. -/
  | pktWt (p : Packet)
  /-- RL (R549): A remote REL join with its signature arrives at the press. -/
  | pktRl (p : Packet)
  /-- CK (R533): A remote cork, rack or recycle page request arrives. -/
  | pktCk (p : Packet)
  /-- FL (R533): A remote fill of synchronised words arrives. -/
  | pktFl (p : Packet)
  /-- WD (R550): Withdrawal of a remote registration arrives at the press. -/
  | pktWd (p : Packet)
  /-- RDR (R546): Remote read data with a readability mask arrives at the requester. -/
  | pktRdr (p : Packet)
  /-- ANS (R549): A remote wait or ACQ answer arrives and wakes or is discarded. -/
  | pktAns (p : Packet)
  /-- TKT (R551): A ticket code from the target is recorded in the reserved entry. -/
  | pktTkt (p : Packet)
  /-- NTC (R551): A replay notice arrives across the fabric. -/
  | pktNtc (p : Packet)
  /-- REJ (R551): A rejection arrives and becomes a deferred trap. -/
  | pktRej (p : Packet)
  /-- NACK (R543): A violation arrives at the source and freezes the endpoint. -/
  | pktNack (p : Packet)
  /-- RPT (R547): A remote report record arrives and is posted to the issuer's report area. -/
  | pktRpt (p : Packet)
  /-- ACK (R547): A remote join, fold, fill or range page is acknowledged, lowering the outstanding count. -/
  | pktAck (p : Packet)
  /-- ARV (R552): A device's arrival count reaches the coordinator of a fabric barrier. -/
  | pktArv (p : Packet)
  /-- RLS (R552): The coordinator's release reaches a device, which releases its members. -/
  | pktRls (p : Packet)
  /-- RCK (R552): A rack count request or rack/discard decision arrives. -/
  | pktRck (p : Packet)
  /-- PRB (R413): A quiescence probe arrives at a device. -/
  | pktPrb (p : Packet)
  /-- IDL (R413): A device's idle state and packet totals reach the coordinator. -/
  | pktIdl (p : Packet)
  /-- DCL (R413): A declaration reaches a device of a fabric domain. -/
  | pktDcl (p : Packet)
  /-- ILLEGAL_INSTRUCTION (R44): A fetched word that is no instruction traps precisely with cause 2 and has no other effect. -/
  | illegalInstruction (word : BitVec 32)
  /-- INSTRUCTION_FETCH_FAULT (R77): A fetch is refused with cause 1 (uncorked LAT line, window, other device) or misses translation and takes a ticket. -/
  | instructionFetchFault
  /-- LOAD_VALUE_RETURN (R76): A plain read's value returns from L1, cellar, HBM or a window, and the destination register leaves the scoreboard. -/
  | loadValueReturn (ep : Nat) (k : Nat)
  /-- REMOTE_CASK_COMPLETION (R289): The completion reply of a remote cask command reaches the issuer, accrues its flags and frees its scoreboard ranges. -/
  | remoteCaskCompletion (k : Nat)
  /-- POWER_OFF (R524): Loss of power clears RREQ, while the disable log survives. -/
  | powerOff
  /-- PORT_TRAINED (R531): An Aprum port becomes trained and carrying traffic, which sets its kflinks bit and lets held requests be resent. -/
  | portTrained (port : Fin 36)
  /-- GATEWAY_ACKNOWLEDGEMENT (R532): The receiving gateway acknowledges a packet, and the sending gateway stops keeping it for resend. -/
  | gatewayAcknowledgement (k : Nat)
  /-- HOST_CONTROL_WRITE (R510): A host CXL.io write to PCAP, ETHR, HSQBASE, DEQBASE, IMGBASE, IMGN, HVBASE or BOOTIMG takes effect subject to the BOOT stage and range gating. -/
  | hostControlWrite (off : BitVec 64) (v : BitVec 64)
  deriving DecidableEq, Repr

end Sys2Proof
end

