-- ==== Sys2Proof/WellFormed.lean ====
section
/-! DEFINITION.
Well-formed instructions: the operand fields that the spec admits whatever the state is. A word with other fields decodes, and its
instruction takes cause 2 when it is performed (R44, R208); an event with other fields names a unit that the device does not have
(R527). -/

namespace Sys2Proof

/-- The rounding-mode field of a floating-point word: 101 and 110 are reserved (R87). -/
def rmOk (rm : BitVec 3) : Bool := rm != 5 && rm != 6

/-- The FP element types (R208). -/
def ElemT.isFp : ElemT → Bool
  | .f32 => true
  | .bf16 => true
  | .f16 => true
  | _ => false

/-- A mask field names m0 to m7 (R208). -/
def maskOk (r : Reg) : Bool := r.toNat ≤ 7

/-- A stream register (R234). -/
def streamOk (r : Reg) : Bool := 24 ≤ r.toNat

/-- An accumulator z0 to z3 as a whole register field (R253). -/
def zOk (r : Reg) : Bool := r.toNat ≤ 3

/-- The fields of VMOVM by its subop (R217). -/
def movmOk (rd rs1 : Reg) (subop : BitVec 5) : Bool :=
  match subop.toNat with
  | 0 => maskOk rd
  | 1 => maskOk rs1
  | 2 => maskOk rd && maskOk rs1
  | 3 => maskOk rd && maskOk rs1
  | 4 => maskOk rd && maskOk rs1
  | 5 => maskOk rd && maskOk rs1
  | _ => false

/-- The format codes of VCVT (R220). -/
def cvtOk (fmt : BitVec 4) : Bool := fmt.toNat < 7 || (12 ≤ fmt.toNat && fmt.toNat < 15)

/-- The scope of FENCE.S, and of its sc class (R43, R315). -/
def scopeOk (sc : BitVec 1) (scope : BitVec 3) : Bool := scope.toNat < 6 && (sc == 0 || 4 ≤ scope.toNat)

/-- An endpoint that issues instructions: a compute core or a translation service core (R527). -/
def coreEp (ep : Nat) : Bool := ep < 576 || (960 ≤ ep && ep < 1032)

/-- An endpoint that is a memory core (R527). -/
def mcEp (ep : Nat) : Bool := 576 ≤ ep && ep < 960

/-- The fields of an instruction word that the spec admits. -/
def Instr.wordWf : Instr → Bool
  | .fmaddS _ _ _ _ rm | .fmsubS _ _ _ _ rm | .fnmsubS _ _ _ _ rm | .fnmaddS _ _ _ _ rm => rmOk rm
  | .faddS _ _ _ rm | .fsubS _ _ _ rm | .fmulS _ _ _ rm | .fdivS _ _ _ rm => rmOk rm
  | .fsqrtS _ _ rm | .fcvtWS _ _ rm | .fcvtWuS _ _ rm | .fcvtLS _ _ rm | .fcvtLuS _ _ rm => rmOk rm
  | .fcvtSW _ _ rm | .fcvtSWu _ _ rm | .fcvtSL _ _ rm | .fcvtSLu _ _ rm => rmOk rm
  | .fenceS sc _ _ scope => scopeOk sc scope
  | .bar lvl => decide (lvl.toNat < 4)
  | .vexp2 t _ _ | .vrcp t _ _ | .vrsq t _ _ | .vlog2 t _ _ => t.isFp
  | .vand _ t _ _ _ | .vor _ t _ _ _ | .vxor _ t _ _ _ => !t.isFp
  | .vshl _ t _ _ _ | .vshra _ t _ _ _ | .vshrl _ t _ _ _ => !t.isFp
  | .vcmplt _ _ rd _ _ | .vcmpeq _ _ rd _ _ => maskOk rd
  | .vmovm _ rd rs1 subop => movmOk rd rs1 subop
  | .vcvt _ _ _ _ fmt => cvtOk fmt
  | .vbcast bc _ _ rs1 _ => bc == 0 || rs1 == 0
  | .sbind rd _ _ => streamOk rd
  | .sunbind rd => streamOk rd
  | .mzero rd => zOk rd
  | .mrd _ _ rs2 => zOk rs2
  | .mwr rd _ _ => zOk rd
  | _ => true

/-- The units that an event names exist. -/
def Instr.unitWf : Instr → Bool
  | .hexitComplete ep _ | .relSend ep _ | .corkAck ep _ | .rackComplete ep _ | .emptyWordReadWake ep _ => coreEp ep
  | .deferredTrap ep _ | .reportDelivery ep _ | .tsendSlotSend ep _ | .rtailWrite ep _ _ => coreEp ep
  | .carveReconfigure ep | .gangRendezvous ep | .engineCommandStart ep | .engineCommandComplete ep => coreEp ep
  | .copyPortion ep | .copyComplete ep | .teamCompletion ep | .preempt ep | .flushAck ep => coreEp ep
  | .loadValueReturn ep _ | .combiningBufferLeave ep _ | .caskPartExecute ep _ | .channelRoomFreed ep _ => coreEp ep
  | .mcAdd mc _ | .mcSub mc _ | .mcAnd mc _ | .mcOr mc _ | .mcXor mc _ | .mcShl mc _ | .mcShr mc _ | .mcSra mc _ => mcEp mc
  | .mcMul mc _ | .mcLtu mc _ | .mcLt mc _ | .mcEq mc _ | .mcMinu mc _ | .mcMaxu mc _ | .mcInc mc _ | .mcDec mc _ => mcEp mc
  | .mcNot mc _ | .mcNeg mc _ | .mcLd mc _ | .mcLwz mc _ | .mcSt mc _ | .mcSw4 mc _ | .mcLld mc _ | .mcLst mc _ => mcEp mc
  | .mcLjoin mc _ | .mcPw mc _ | .mcPc mc _ | .mcBput mc _ | .mcBget mc | .mcJmp mc _ | .mcDone mc _ | .mcFence mc => mcEp mc
  | .leaseLapse mc | .mcDrainComplete mc | .mcCallStart mc | .mcallToken mc | .mcBundle mc | .mcPushArrival mc => mcEp mc
  | _ => true

/-- A well-formed instruction or event. -/
def Instr.wf (i : Instr) : Bool := i.wordWf && i.unitWf

end Sys2Proof
end

