-- ==== Sys2Proof/Decode.lean ====
section
/-! DEFINITION.
Decoding of a 32-bit word (R32 to R45) and, after it, the encoder written from the same encoding tables.
Decoding is total: a word that is no instruction is refused with the name of the reason (R44). -/

namespace Sys2Proof

/-- Why a word is no instruction (R44). Each of them is cause 2. -/
inductive DecodeError where
  /-- bits [1:0] are not 0b11 (R32) -/
  | lowBits
  /-- a major opcode that R36 calls illegal or reserved -/
  | majorOpcode
  /-- a code that is unassigned, or a field that is required to be zero is not (R37 to R44) -/
  | unassignedCode
  deriving DecidableEq, Repr

/-- The branch offset without its bit 0: imm[12:1] (R34). -/
def decB (w : BitVec 32) : BitVec 12 := fld w 31 1 ++ fld w 7 1 ++ fld w 25 6 ++ fld w 8 4
/-- The jump offset without its bit 0: imm[20:1] (R34). -/
def decJ (w : BitVec 32) : BitVec 20 := fld w 31 1 ++ fld w 12 8 ++ fld w 20 1 ++ fld w 21 10
/-- The store offset imm[11:0] (R33). -/
def decS (w : BitVec 32) : BitVec 12 := fld w 25 7 ++ fld w 7 5
/-- The dense pair code of MMA: funct3[1:0] then funct2 (R41). -/
def decPair (w : BitVec 32) : BitVec 4 := fld w 12 2 ++ fld w 25 2

/-- The instructions of major opcode 0110111 (R36 to R43). -/
def decLui (w : BitVec 32) : Option Instr :=
  some (.lui (fld w 7 5) (fld w 12 20))

/-- The instructions of major opcode 0010111 (R36 to R43). -/
def decAuipc (w : BitVec 32) : Option Instr :=
  some (.auipc (fld w 7 5) (fld w 12 20))

/-- The instructions of major opcode 0010011 (R36 to R43). -/
def decOpImm (w : BitVec 32) : Option Instr :=
  if fld w 12 3 = 0#3 then some (.addi (fld w 7 5) (fld w 15 5) (fld w 20 12))
  else if fld w 12 3 = 2#3 then some (.slti (fld w 7 5) (fld w 15 5) (fld w 20 12))
  else if fld w 12 3 = 3#3 then some (.sltiu (fld w 7 5) (fld w 15 5) (fld w 20 12))
  else if fld w 12 3 = 4#3 then some (.xori (fld w 7 5) (fld w 15 5) (fld w 20 12))
  else if fld w 12 3 = 6#3 then some (.ori (fld w 7 5) (fld w 15 5) (fld w 20 12))
  else if fld w 12 3 = 7#3 then some (.andi (fld w 7 5) (fld w 15 5) (fld w 20 12))
  else if fld w 26 6 = 0#6 ∧ fld w 12 3 = 1#3 then some (.slli (fld w 7 5) (fld w 15 5) (fld w 20 6))
  else if fld w 26 6 = 0#6 ∧ fld w 12 3 = 5#3 then some (.srli (fld w 7 5) (fld w 15 5) (fld w 20 6))
  else if fld w 26 6 = 16#6 ∧ fld w 12 3 = 5#3 then some (.srai (fld w 7 5) (fld w 15 5) (fld w 20 6))
  else none

/-- The instructions of major opcode 0011011 (R36 to R43). -/
def decOpImm32 (w : BitVec 32) : Option Instr :=
  if fld w 12 3 = 0#3 then some (.addiw (fld w 7 5) (fld w 15 5) (fld w 20 12))
  else if fld w 25 7 = 0#7 ∧ fld w 12 3 = 1#3 then some (.slliw (fld w 7 5) (fld w 15 5) (fld w 20 5))
  else if fld w 25 7 = 0#7 ∧ fld w 12 3 = 5#3 then some (.srliw (fld w 7 5) (fld w 15 5) (fld w 20 5))
  else if fld w 25 7 = 32#7 ∧ fld w 12 3 = 5#3 then some (.sraiw (fld w 7 5) (fld w 15 5) (fld w 20 5))
  else none

/-- The instructions of major opcode 0110011 (R36 to R43). -/
def decOp (w : BitVec 32) : Option Instr :=
  if fld w 25 7 = 0#7 ∧ fld w 12 3 = 0#3 then some (.add (fld w 7 5) (fld w 15 5) (fld w 20 5))
  else if fld w 25 7 = 32#7 ∧ fld w 12 3 = 0#3 then some (.sub (fld w 7 5) (fld w 15 5) (fld w 20 5))
  else if fld w 25 7 = 0#7 ∧ fld w 12 3 = 1#3 then some (.sll (fld w 7 5) (fld w 15 5) (fld w 20 5))
  else if fld w 25 7 = 0#7 ∧ fld w 12 3 = 2#3 then some (.slt (fld w 7 5) (fld w 15 5) (fld w 20 5))
  else if fld w 25 7 = 0#7 ∧ fld w 12 3 = 3#3 then some (.sltu (fld w 7 5) (fld w 15 5) (fld w 20 5))
  else if fld w 25 7 = 0#7 ∧ fld w 12 3 = 4#3 then some (.xorR (fld w 7 5) (fld w 15 5) (fld w 20 5))
  else if fld w 25 7 = 0#7 ∧ fld w 12 3 = 5#3 then some (.srl (fld w 7 5) (fld w 15 5) (fld w 20 5))
  else if fld w 25 7 = 32#7 ∧ fld w 12 3 = 5#3 then some (.sra (fld w 7 5) (fld w 15 5) (fld w 20 5))
  else if fld w 25 7 = 0#7 ∧ fld w 12 3 = 6#3 then some (.orR (fld w 7 5) (fld w 15 5) (fld w 20 5))
  else if fld w 25 7 = 0#7 ∧ fld w 12 3 = 7#3 then some (.andR (fld w 7 5) (fld w 15 5) (fld w 20 5))
  else if fld w 25 7 = 1#7 ∧ fld w 12 3 = 0#3 then some (.mul (fld w 7 5) (fld w 15 5) (fld w 20 5))
  else if fld w 25 7 = 1#7 ∧ fld w 12 3 = 1#3 then some (.mulh (fld w 7 5) (fld w 15 5) (fld w 20 5))
  else if fld w 25 7 = 1#7 ∧ fld w 12 3 = 2#3 then some (.mulhsu (fld w 7 5) (fld w 15 5) (fld w 20 5))
  else if fld w 25 7 = 1#7 ∧ fld w 12 3 = 3#3 then some (.mulhu (fld w 7 5) (fld w 15 5) (fld w 20 5))
  else if fld w 25 7 = 1#7 ∧ fld w 12 3 = 4#3 then some (.div (fld w 7 5) (fld w 15 5) (fld w 20 5))
  else if fld w 25 7 = 1#7 ∧ fld w 12 3 = 5#3 then some (.divu (fld w 7 5) (fld w 15 5) (fld w 20 5))
  else if fld w 25 7 = 1#7 ∧ fld w 12 3 = 6#3 then some (.rem (fld w 7 5) (fld w 15 5) (fld w 20 5))
  else if fld w 25 7 = 1#7 ∧ fld w 12 3 = 7#3 then some (.remu (fld w 7 5) (fld w 15 5) (fld w 20 5))
  else none

/-- The instructions of major opcode 0111011 (R36 to R43). -/
def decOp32 (w : BitVec 32) : Option Instr :=
  if fld w 25 7 = 0#7 ∧ fld w 12 3 = 0#3 then some (.addw (fld w 7 5) (fld w 15 5) (fld w 20 5))
  else if fld w 25 7 = 32#7 ∧ fld w 12 3 = 0#3 then some (.subw (fld w 7 5) (fld w 15 5) (fld w 20 5))
  else if fld w 25 7 = 0#7 ∧ fld w 12 3 = 1#3 then some (.sllw (fld w 7 5) (fld w 15 5) (fld w 20 5))
  else if fld w 25 7 = 0#7 ∧ fld w 12 3 = 5#3 then some (.srlw (fld w 7 5) (fld w 15 5) (fld w 20 5))
  else if fld w 25 7 = 32#7 ∧ fld w 12 3 = 5#3 then some (.sraw (fld w 7 5) (fld w 15 5) (fld w 20 5))
  else if fld w 25 7 = 1#7 ∧ fld w 12 3 = 0#3 then some (.mulw (fld w 7 5) (fld w 15 5) (fld w 20 5))
  else if fld w 25 7 = 1#7 ∧ fld w 12 3 = 4#3 then some (.divw (fld w 7 5) (fld w 15 5) (fld w 20 5))
  else if fld w 25 7 = 1#7 ∧ fld w 12 3 = 5#3 then some (.divuw (fld w 7 5) (fld w 15 5) (fld w 20 5))
  else if fld w 25 7 = 1#7 ∧ fld w 12 3 = 6#3 then some (.remw (fld w 7 5) (fld w 15 5) (fld w 20 5))
  else if fld w 25 7 = 1#7 ∧ fld w 12 3 = 7#3 then some (.remuw (fld w 7 5) (fld w 15 5) (fld w 20 5))
  else none

/-- The instructions of major opcode 1101111 (R36 to R43). -/
def decJal (w : BitVec 32) : Option Instr :=
  some (.jal (fld w 7 5) (decJ w))

/-- The instructions of major opcode 1100111 (R36 to R43). -/
def decJalr (w : BitVec 32) : Option Instr :=
  if fld w 12 3 = 0#3 then some (.jalr (fld w 7 5) (fld w 15 5) (fld w 20 12))
  else none

/-- The instructions of major opcode 1100011 (R36 to R43). -/
def decBranch (w : BitVec 32) : Option Instr :=
  if fld w 12 3 = 0#3 then some (.beq (fld w 15 5) (fld w 20 5) (decB w))
  else if fld w 12 3 = 1#3 then some (.bne (fld w 15 5) (fld w 20 5) (decB w))
  else if fld w 12 3 = 4#3 then some (.blt (fld w 15 5) (fld w 20 5) (decB w))
  else if fld w 12 3 = 5#3 then some (.bge (fld w 15 5) (fld w 20 5) (decB w))
  else if fld w 12 3 = 6#3 then some (.bltu (fld w 15 5) (fld w 20 5) (decB w))
  else if fld w 12 3 = 7#3 then some (.bgeu (fld w 15 5) (fld w 20 5) (decB w))
  else none

/-- The instructions of major opcode 0000011 (R36 to R43). -/
def decLoad (w : BitVec 32) : Option Instr :=
  if fld w 12 3 = 0#3 then some (.lb (fld w 7 5) (fld w 15 5) (fld w 20 12))
  else if fld w 12 3 = 1#3 then some (.lh (fld w 7 5) (fld w 15 5) (fld w 20 12))
  else if fld w 12 3 = 2#3 then some (.lw (fld w 7 5) (fld w 15 5) (fld w 20 12))
  else if fld w 12 3 = 3#3 then some (.ld (fld w 7 5) (fld w 15 5) (fld w 20 12))
  else if fld w 12 3 = 4#3 then some (.lbu (fld w 7 5) (fld w 15 5) (fld w 20 12))
  else if fld w 12 3 = 5#3 then some (.lhu (fld w 7 5) (fld w 15 5) (fld w 20 12))
  else if fld w 12 3 = 6#3 then some (.lwu (fld w 7 5) (fld w 15 5) (fld w 20 12))
  else none

/-- The instructions of major opcode 0100011 (R36 to R43). -/
def decStore (w : BitVec 32) : Option Instr :=
  if fld w 12 3 = 0#3 then some (.sb (fld w 15 5) (fld w 20 5) (decS w))
  else if fld w 12 3 = 1#3 then some (.sh (fld w 15 5) (fld w 20 5) (decS w))
  else if fld w 12 3 = 2#3 then some (.sw (fld w 15 5) (fld w 20 5) (decS w))
  else if fld w 12 3 = 3#3 then some (.sd (fld w 15 5) (fld w 20 5) (decS w))
  else none

/-- The instructions of major opcode 0000111 (R36 to R43). -/
def decLoadFp (w : BitVec 32) : Option Instr :=
  if fld w 12 3 = 2#3 then some (.flw (fld w 7 5) (fld w 15 5) (fld w 20 12))
  else none

/-- The instructions of major opcode 0100111 (R36 to R43). -/
def decStoreFp (w : BitVec 32) : Option Instr :=
  if fld w 12 3 = 2#3 then some (.fsw (fld w 15 5) (fld w 20 5) (decS w))
  else none

/-- The instructions of major opcode 0001111 (R36 to R43). -/
def decMiscMem (w : BitVec 32) : Option Instr :=
  if fld w 28 4 = 0#4 ∧ fld w 15 5 = 0#5 ∧ fld w 12 3 = 0#3 ∧ fld w 7 5 = 0#5 then some (.fence (fld w 24 4) (fld w 20 4))
  else if fld w 25 7 = 65#7 ∧ fld w 20 5 = 19#5 ∧ fld w 15 5 = 0#5 ∧ fld w 12 3 = 0#3 ∧ fld w 7 5 = 0#5 then some (.fenceTso)
  else if fld w 25 7 = 0#7 ∧ fld w 20 5 = 0#5 ∧ fld w 15 5 = 0#5 ∧ fld w 12 3 = 1#3 ∧ fld w 7 5 = 0#5 then some (.fenceI)
  else none

/-- The instructions of major opcode 1110011 (R36 to R43). -/
def decSystem (w : BitVec 32) : Option Instr :=
  if fld w 25 7 = 0#7 ∧ fld w 20 5 = 0#5 ∧ fld w 15 5 = 0#5 ∧ fld w 12 3 = 0#3 ∧ fld w 7 5 = 0#5 then some (.ecall)
  else if fld w 25 7 = 0#7 ∧ fld w 20 5 = 1#5 ∧ fld w 15 5 = 0#5 ∧ fld w 12 3 = 0#3 ∧ fld w 7 5 = 0#5 then some (.ebreak)
  else if fld w 12 3 = 1#3 then some (.csrrw (fld w 7 5) (fld w 15 5) (fld w 20 12))
  else if fld w 12 3 = 2#3 then some (.csrrs (fld w 7 5) (fld w 15 5) (fld w 20 12))
  else if fld w 12 3 = 3#3 then some (.csrrc (fld w 7 5) (fld w 15 5) (fld w 20 12))
  else if fld w 12 3 = 5#3 then some (.csrrwi (fld w 7 5) (fld w 15 5) (fld w 20 12))
  else if fld w 12 3 = 6#3 then some (.csrrsi (fld w 7 5) (fld w 15 5) (fld w 20 12))
  else if fld w 12 3 = 7#3 then some (.csrrci (fld w 7 5) (fld w 15 5) (fld w 20 12))
  else none

/-- The instructions of major opcode 1111011 (R36 to R43). -/
def decCustom3 (w : BitVec 32) : Option Instr :=
  if fld w 25 7 = 6#7 ∧ fld w 20 5 = 0#5 ∧ fld w 15 5 = 0#5 ∧ fld w 12 3 = 0#3 ∧ fld w 7 5 = 0#5 then some (.kret)
  else if fld w 25 7 = 0#7 ∧ fld w 12 3 = 0#3 then some (.hstart (fld w 7 5) (fld w 15 5) (fld w 20 5))
  else if fld w 25 7 = 1#7 ∧ fld w 20 5 = 0#5 ∧ fld w 12 3 = 0#3 ∧ fld w 7 5 = 0#5 then some (.hexit (fld w 15 5))
  else if fld w 25 7 = 2#7 ∧ fld w 20 5 = 0#5 ∧ fld w 12 3 = 0#3 then some (.hwait (fld w 7 5) (fld w 15 5))
  else if fld w 25 7 = 3#7 ∧ fld w 12 3 = 0#3 then some (.carve (fld w 7 5) (fld w 15 5) (fld w 20 5))
  else if fld w 25 7 = 4#7 ∧ fld w 20 5 = 0#5 ∧ fld w 15 5 = 0#5 ∧ fld w 12 3 = 0#3 then some (.gang (fld w 7 5))
  else if fld w 25 7 = 5#7 ∧ fld w 20 5 = 0#5 ∧ fld w 15 5 = 0#5 ∧ fld w 12 3 = 0#3 then some (.split (fld w 7 5))
  else if fld w 15 5 = 0#5 ∧ fld w 12 3 = 1#3 ∧ fld w 7 5 = 0#5 then some (.lpad (fld w 20 12))
  else if fld w 25 7 = 0#7 ∧ fld w 12 3 = 2#3 then some (.jt (fld w 7 5) (fld w 15 5) (fld w 20 5))
  else if fld w 26 6 = 0#6 ∧ fld w 15 5 = 0#5 ∧ fld w 12 3 = 6#3 ∧ fld w 7 5 = 0#5 then some (.fenceS (fld w 25 1) (fld w 24 1) (fld w 23 1) (fld w 20 3))
  else if fld w 25 7 = 0#7 ∧ fld w 15 5 = 0#5 ∧ fld w 12 3 = 3#3 ∧ fld w 7 5 = 0#5 then some (.bar (fld w 20 5))
  else if fld w 25 7 = 1#7 ∧ fld w 12 3 = 3#3 ∧ fld w 7 5 = 0#5 then some (.send (fld w 15 5) (fld w 20 5))
  else if fld w 25 7 = 2#7 ∧ fld w 12 3 = 3#3 ∧ fld w 7 5 = 0#5 then some (.tsend (fld w 15 5) (fld w 20 5))
  else if fld w 25 7 = 3#7 ∧ fld w 12 3 = 3#3 ∧ fld w 7 5 = 0#5 then some (.qarm (fld w 15 5) (fld w 20 5))
  else if fld w 25 7 = 4#7 ∧ fld w 20 5 = 0#5 ∧ fld w 12 3 = 3#3 ∧ fld w 7 5 = 0#5 then some (.qretire (fld w 15 5))
  else if fld w 25 7 = 0#7 ∧ fld w 20 5 = 0#5 ∧ fld w 12 3 = 4#3 ∧ fld w 7 5 = 0#5 then some (.taskq (fld w 15 5))
  else if fld w 25 7 = 1#7 ∧ fld w 12 3 = 4#3 ∧ fld w 7 5 = 0#5 then some (.taskput (fld w 15 5) (fld w 20 5))
  else if fld w 25 7 = 2#7 ∧ fld w 20 5 = 0#5 ∧ fld w 15 5 = 0#5 ∧ fld w 12 3 = 4#3 ∧ fld w 7 5 = 0#5 then some (.taskend)
  else if fld w 25 7 = 3#7 ∧ fld w 12 3 = 4#3 then some (.lease (fld w 7 5) (fld w 15 5) (fld w 20 5))
  else if fld w 25 7 = 4#7 ∧ fld w 12 3 = 4#3 then some (.renew (fld w 7 5) (fld w 15 5) (fld w 20 5))
  else if fld w 25 7 = 5#7 ∧ fld w 20 5 = 0#5 ∧ fld w 12 3 = 4#3 ∧ fld w 7 5 = 0#5 then some (.unlease (fld w 15 5))
  else if fld w 25 7 = 6#7 ∧ fld w 12 3 = 4#3 then some (.mcall (fld w 7 5) (fld w 15 5) (fld w 20 5))
  else if fld w 25 7 = 0#7 ∧ fld w 20 5 = 0#5 ∧ fld w 12 3 = 5#3 then some (.tlbw (fld w 7 5) (fld w 15 5))
  else if fld w 25 7 = 1#7 ∧ fld w 12 3 = 5#3 then some (.tlbinv (fld w 7 5) (fld w 15 5) (fld w 20 5))
  else if fld w 25 7 = 2#7 ∧ fld w 20 5 = 0#5 ∧ fld w 15 5 = 0#5 ∧ fld w 12 3 = 5#3 ∧ fld w 7 5 = 0#5 then some (.replayall)
  else if fld w 25 7 = 3#7 ∧ fld w 12 3 = 5#3 ∧ fld w 7 5 = 0#5 then some (.tkpost (fld w 15 5) (fld w 20 5))
  else if fld w 25 7 = 4#7 ∧ fld w 20 5 = 0#5 ∧ fld w 12 3 = 5#3 then some (.flushctx (fld w 7 5) (fld w 15 5))
  else if fld w 25 7 = 5#7 ∧ fld w 12 3 = 5#3 then some (.rhold (fld w 7 5) (fld w 15 5) (fld w 20 5))
  else if fld w 25 7 = 6#7 ∧ fld w 12 3 = 5#3 ∧ fld w 7 5 = 0#5 then some (.rprio (fld w 15 5) (fld w 20 5))
  else if fld w 25 7 = 7#7 ∧ fld w 20 5 = 0#5 ∧ fld w 12 3 = 5#3 ∧ fld w 7 5 = 0#5 then some (.rdrop (fld w 15 5))
  else none

/-- The instructions of major opcode 1000011 (R36 to R43). -/
def decMadd (w : BitVec 32) : Option Instr :=
  if fld w 25 2 = 0#2 then some (.fmaddS (fld w 7 5) (fld w 15 5) (fld w 20 5) (fld w 27 5) (fld w 12 3))
  else none

/-- The instructions of major opcode 1000111 (R36 to R43). -/
def decMsub (w : BitVec 32) : Option Instr :=
  if fld w 25 2 = 0#2 then some (.fmsubS (fld w 7 5) (fld w 15 5) (fld w 20 5) (fld w 27 5) (fld w 12 3))
  else none

/-- The instructions of major opcode 1001011 (R36 to R43). -/
def decNmsub (w : BitVec 32) : Option Instr :=
  if fld w 25 2 = 0#2 then some (.fnmsubS (fld w 7 5) (fld w 15 5) (fld w 20 5) (fld w 27 5) (fld w 12 3))
  else none

/-- The instructions of major opcode 1001111 (R36 to R43). -/
def decNmadd (w : BitVec 32) : Option Instr :=
  if fld w 25 2 = 0#2 then some (.fnmaddS (fld w 7 5) (fld w 15 5) (fld w 20 5) (fld w 27 5) (fld w 12 3))
  else none

/-- The instructions of major opcode 1010011 (R36 to R43). -/
def decOpFp (w : BitVec 32) : Option Instr :=
  if fld w 25 7 = 0#7 then some (.faddS (fld w 7 5) (fld w 15 5) (fld w 20 5) (fld w 12 3))
  else if fld w 25 7 = 4#7 then some (.fsubS (fld w 7 5) (fld w 15 5) (fld w 20 5) (fld w 12 3))
  else if fld w 25 7 = 8#7 then some (.fmulS (fld w 7 5) (fld w 15 5) (fld w 20 5) (fld w 12 3))
  else if fld w 25 7 = 12#7 then some (.fdivS (fld w 7 5) (fld w 15 5) (fld w 20 5) (fld w 12 3))
  else if fld w 25 7 = 44#7 ∧ fld w 20 5 = 0#5 then some (.fsqrtS (fld w 7 5) (fld w 15 5) (fld w 12 3))
  else if fld w 25 7 = 16#7 ∧ fld w 12 3 = 0#3 then some (.fsgnjS (fld w 7 5) (fld w 15 5) (fld w 20 5))
  else if fld w 25 7 = 16#7 ∧ fld w 12 3 = 1#3 then some (.fsgnjnS (fld w 7 5) (fld w 15 5) (fld w 20 5))
  else if fld w 25 7 = 16#7 ∧ fld w 12 3 = 2#3 then some (.fsgnjxS (fld w 7 5) (fld w 15 5) (fld w 20 5))
  else if fld w 25 7 = 20#7 ∧ fld w 12 3 = 0#3 then some (.fminS (fld w 7 5) (fld w 15 5) (fld w 20 5))
  else if fld w 25 7 = 20#7 ∧ fld w 12 3 = 1#3 then some (.fmaxS (fld w 7 5) (fld w 15 5) (fld w 20 5))
  else if fld w 25 7 = 96#7 ∧ fld w 20 5 = 0#5 then some (.fcvtWS (fld w 7 5) (fld w 15 5) (fld w 12 3))
  else if fld w 25 7 = 96#7 ∧ fld w 20 5 = 1#5 then some (.fcvtWuS (fld w 7 5) (fld w 15 5) (fld w 12 3))
  else if fld w 25 7 = 96#7 ∧ fld w 20 5 = 2#5 then some (.fcvtLS (fld w 7 5) (fld w 15 5) (fld w 12 3))
  else if fld w 25 7 = 96#7 ∧ fld w 20 5 = 3#5 then some (.fcvtLuS (fld w 7 5) (fld w 15 5) (fld w 12 3))
  else if fld w 25 7 = 104#7 ∧ fld w 20 5 = 0#5 then some (.fcvtSW (fld w 7 5) (fld w 15 5) (fld w 12 3))
  else if fld w 25 7 = 104#7 ∧ fld w 20 5 = 1#5 then some (.fcvtSWu (fld w 7 5) (fld w 15 5) (fld w 12 3))
  else if fld w 25 7 = 104#7 ∧ fld w 20 5 = 2#5 then some (.fcvtSL (fld w 7 5) (fld w 15 5) (fld w 12 3))
  else if fld w 25 7 = 104#7 ∧ fld w 20 5 = 3#5 then some (.fcvtSLu (fld w 7 5) (fld w 15 5) (fld w 12 3))
  else if fld w 25 7 = 112#7 ∧ fld w 20 5 = 0#5 ∧ fld w 12 3 = 0#3 then some (.fmvXW (fld w 7 5) (fld w 15 5))
  else if fld w 25 7 = 112#7 ∧ fld w 20 5 = 0#5 ∧ fld w 12 3 = 1#3 then some (.fclassS (fld w 7 5) (fld w 15 5))
  else if fld w 25 7 = 80#7 ∧ fld w 12 3 = 2#3 then some (.feqS (fld w 7 5) (fld w 15 5) (fld w 20 5))
  else if fld w 25 7 = 80#7 ∧ fld w 12 3 = 1#3 then some (.fltS (fld w 7 5) (fld w 15 5) (fld w 20 5))
  else if fld w 25 7 = 80#7 ∧ fld w 12 3 = 0#3 then some (.fleS (fld w 7 5) (fld w 15 5) (fld w 20 5))
  else if fld w 25 7 = 120#7 ∧ fld w 20 5 = 0#5 ∧ fld w 12 3 = 0#3 then some (.fmvWX (fld w 7 5) (fld w 15 5))
  else none

/-- The instructions of major opcode 0001011 (R36 to R43). -/
def decCustom0 (w : BitVec 32) : Option Instr :=
  if fld w 25 7 = 0#7 ∧ fld w 12 3 = 0#3 ∧ fld w 7 5 = 0#5 then some (.join (fld w 15 5) (fld w 20 5))
  else if fld w 25 7 = 1#7 ∧ fld w 20 5 = 0#5 ∧ fld w 12 3 = 0#3 then some (.xld (fld w 7 5) (fld w 15 5))
  else if fld w 25 7 = 2#7 ∧ fld w 12 3 = 0#3 ∧ fld w 7 5 = 0#5 then some (.joinm (fld w 15 5) (fld w 20 5))
  else if fld w 25 7 = 3#7 ∧ fld w 12 3 = 0#3 ∧ fld w 7 5 = 0#5 then some (.cork (fld w 15 5) (fld w 20 5))
  else if fld w 25 7 = 4#7 ∧ fld w 12 3 = 0#3 ∧ fld w 7 5 = 0#5 then some (.corkw (fld w 15 5) (fld w 20 5))
  else if fld w 25 7 = 5#7 ∧ fld w 12 3 = 0#3 ∧ fld w 7 5 = 0#5 then some (.bottle (fld w 15 5) (fld w 20 5))
  else if fld w 25 7 = 6#7 ∧ fld w 12 3 = 0#3 ∧ fld w 7 5 = 0#5 then some (.rel (fld w 15 5) (fld w 20 5))
  else if fld w 25 7 = 7#7 ∧ fld w 12 3 = 0#3 ∧ fld w 7 5 = 0#5 then some (.rack (fld w 15 5) (fld w 20 5))
  else if fld w 25 2 = 0#2 ∧ fld w 12 3 = 1#3 then some (.acq (fld w 7 5) (fld w 15 5) (fld w 20 5) (fld w 27 5))
  else if fld w 25 2 = 1#2 ∧ fld w 12 3 = 1#3 ∧ fld w 9 3 = 0#3 then some (.foldS (fld w 15 5) (fld w 20 5) (fld w 27 5) (fld w 7 2))
  else if fld w 25 2 = 2#2 ∧ fld w 12 3 = 1#3 ∧ fld w 7 5 = 0#5 then some (.recycle (fld w 15 5) (fld w 20 5) (fld w 27 5))
  else if fld w 25 2 = 3#2 ∧ fld w 12 3 = 1#3 ∧ fld w 9 3 = 0#3 then some (.foldH (fld w 15 5) (fld w 20 5) (fld w 27 5) (fld w 7 2))
  else if fld w 25 7 = 0#7 ∧ fld w 12 3 = 2#3 then some (.waitGe (fld w 7 5) (fld w 15 5) (fld w 20 5))
  else if fld w 25 7 = 1#7 ∧ fld w 12 3 = 2#3 then some (.waitHas (fld w 7 5) (fld w 15 5) (fld w 20 5))
  else if fld w 25 7 = 2#7 ∧ fld w 12 3 = 2#3 then some (.waitAny (fld w 7 5) (fld w 15 5) (fld w 20 5))
  else if fld w 25 7 = 3#7 ∧ fld w 20 5 = 0#5 ∧ fld w 12 3 = 2#3 then some (.waitFull (fld w 7 5) (fld w 15 5))
  else if fld w 25 7 = 4#7 ∧ fld w 20 5 = 0#5 ∧ fld w 12 3 = 2#3 then some (.waitCork (fld w 7 5) (fld w 15 5))
  else none

/-- The instructions of major opcode 0101011 (R36 to R43). -/
def decVecArith (t : ElemT) (w : BitVec 32) : Option Instr :=
  if fld w 25 6 = 0#6 then some (.vadd (fld w 31 1) t (fld w 7 5) (fld w 15 5) (fld w 20 5))
  else if fld w 25 6 = 1#6 then some (.vsub (fld w 31 1) t (fld w 7 5) (fld w 15 5) (fld w 20 5))
  else if fld w 25 6 = 2#6 then some (.vmul (fld w 31 1) t (fld w 7 5) (fld w 15 5) (fld w 20 5))
  else if fld w 25 6 = 3#6 then some (.vfma (fld w 31 1) t (fld w 7 5) (fld w 15 5) (fld w 20 5))
  else if fld w 25 6 = 4#6 then some (.vmax (fld w 31 1) t (fld w 7 5) (fld w 15 5) (fld w 20 5))
  else if fld w 25 6 = 5#6 then some (.vmin (fld w 31 1) t (fld w 7 5) (fld w 15 5) (fld w 20 5))
  else if fld w 25 7 = 6#7 ∧ fld w 20 5 = 0#5 then some (.vabs t (fld w 7 5) (fld w 15 5))
  else if fld w 25 7 = 7#7 ∧ fld w 20 5 = 0#5 then some (.vneg t (fld w 7 5) (fld w 15 5))
  else if fld w 25 7 = 8#7 ∧ fld w 20 5 = 0#5 then some (.vexp2 t (fld w 7 5) (fld w 15 5))
  else if fld w 25 7 = 9#7 ∧ fld w 20 5 = 0#5 then some (.vrcp t (fld w 7 5) (fld w 15 5))
  else if fld w 25 7 = 10#7 ∧ fld w 20 5 = 0#5 then some (.vrsq t (fld w 7 5) (fld w 15 5))
  else if fld w 25 7 = 11#7 ∧ fld w 20 5 = 0#5 then some (.vlog2 t (fld w 7 5) (fld w 15 5))
  else if fld w 25 6 = 12#6 then some (.vand (fld w 31 1) t (fld w 7 5) (fld w 15 5) (fld w 20 5))
  else if fld w 25 6 = 13#6 then some (.vor (fld w 31 1) t (fld w 7 5) (fld w 15 5) (fld w 20 5))
  else if fld w 25 6 = 14#6 then some (.vxor (fld w 31 1) t (fld w 7 5) (fld w 15 5) (fld w 20 5))
  else if fld w 25 6 = 15#6 then some (.vshl (fld w 31 1) t (fld w 7 5) (fld w 15 5) (fld w 20 5))
  else if fld w 25 6 = 16#6 then some (.vshra (fld w 31 1) t (fld w 7 5) (fld w 15 5) (fld w 20 5))
  else if fld w 25 6 = 17#6 then some (.vshrl (fld w 31 1) t (fld w 7 5) (fld w 15 5) (fld w 20 5))
  else if fld w 25 6 = 18#6 then some (.vcmplt (fld w 31 1) t (fld w 7 5) (fld w 15 5) (fld w 20 5))
  else if fld w 25 6 = 19#6 then some (.vcmpeq (fld w 31 1) t (fld w 7 5) (fld w 15 5) (fld w 20 5))
  else if fld w 25 6 = 20#6 then some (.vsel (fld w 31 1) t (fld w 7 5) (fld w 15 5) (fld w 20 5))
  else if fld w 25 7 = 21#7 ∧ fld w 20 5 = 0#5 then some (.vredsum t (fld w 7 5) (fld w 15 5))
  else if fld w 25 7 = 22#7 ∧ fld w 20 5 = 0#5 then some (.vredmax t (fld w 7 5) (fld w 15 5))
  else if fld w 25 6 = 23#6 ∧ fld w 24 1 = 0#1 then some (.vcvt (fld w 31 1) t (fld w 7 5) (fld w 15 5) (fld w 20 4))
  else if fld w 25 6 = 24#6 then some (.vbcast (fld w 31 1) t (fld w 7 5) (fld w 15 5) (fld w 20 5))
  else if fld w 25 7 = 25#7 then some (.vperm t (fld w 7 5) (fld w 15 5) (fld w 20 5))
  else if fld w 25 7 = 26#7 ∧ fld w 20 5 = 0#5 ∧ fld w 7 5 = 0#5 then some (.vamax t (fld w 15 5))
  else if fld w 25 7 = 27#7 then some (.vmovm t (fld w 7 5) (fld w 15 5) (fld w 20 5))
  else if fld w 25 7 = 92#7 then some (.vslide t (fld w 7 5) (fld w 15 5) (fld w 20 5))
  else if fld w 25 7 = 29#7 then some (.vtrn t (fld w 7 5) (fld w 15 5) (fld w 20 5))
  else none

/-- The memory and stream group of the vector instructions (R40). -/
def decVecMem (w : BitVec 32) : Option Instr :=
  if fld w 25 7 = 0#7 ∧ fld w 20 5 = 0#5 then some (.vld (fld w 7 5) (fld w 15 5))
  else if fld w 25 7 = 1#7 ∧ fld w 20 5 = 0#5 then some (.vst (fld w 7 5) (fld w 15 5))
  else if fld w 25 7 = 2#7 then some (.vlds (fld w 7 5) (fld w 15 5) (fld w 20 5))
  else if fld w 25 7 = 3#7 then some (.vsts (fld w 7 5) (fld w 15 5) (fld w 20 5))
  else if fld w 25 7 = 4#7 then some (.vldx (fld w 7 5) (fld w 15 5) (fld w 20 5))
  else if fld w 25 7 = 5#7 then some (.vstx (fld w 7 5) (fld w 15 5) (fld w 20 5))
  else if fld w 25 7 = 6#7 ∧ fld w 20 5 = 0#5 then some (.vxld (fld w 7 5) (fld w 15 5))
  else if fld w 25 7 = 7#7 ∧ fld w 20 5 = 0#5 then some (.vjoin (fld w 7 5) (fld w 15 5))
  else if fld w 25 7 = 8#7 then some (.sbind (fld w 7 5) (fld w 15 5) (fld w 20 5))
  else if fld w 25 7 = 9#7 ∧ fld w 20 5 = 0#5 ∧ fld w 15 5 = 0#5 then some (.sunbind (fld w 7 5))
  else if fld w 25 7 = 10#7 ∧ fld w 20 5 = 0#5 then some (.vldf (fld w 7 5) (fld w 15 5))
  else if fld w 25 7 = 11#7 ∧ fld w 20 5 = 0#5 then some (.vstf (fld w 7 5) (fld w 15 5))
  else if fld w 25 7 = 12#7 then some (.vfold (fld w 7 5) (fld w 15 5) (fld w 20 5))
  else none

/-- Custom-1: funct3 selects the element type or the memory group (R39). -/
def decCustom1 (w : BitVec 32) : Option Instr :=
  match ElemT.ofCode (fld w 12 3) with
  | some t => decVecArith t w
  | none => if fld w 12 3 = 7#3 then decVecMem w else none

/-- The instructions of major opcode 1011011 (R36 to R43). -/
def decCustom2 (w : BitVec 32) : Option Instr :=
  if fld w 14 1 = 0#1 then some (.mma (fld w 7 2) (fld w 11 1) (fld w 10 1) (fld w 9 1) (decPair w) (fld w 15 5) (fld w 20 5) (fld w 27 5))
  else if fld w 12 3 = 4#3 ∧ fld w 9 1 = 0#1 then some (.mmas (fld w 7 2) (fld w 11 1) (fld w 10 1) (fld w 25 2) (fld w 15 5) (fld w 20 5) (fld w 27 5))
  else if fld w 25 7 = 0#7 ∧ fld w 20 5 = 0#5 ∧ fld w 15 5 = 0#5 ∧ fld w 12 3 = 5#3 then some (.mzero (fld w 7 5))
  else if fld w 25 7 = 1#7 ∧ fld w 12 3 = 5#3 then some (.mcvtst (fld w 7 5) (fld w 15 5) (fld w 20 5))
  else if fld w 25 7 = 2#7 ∧ fld w 12 3 = 5#3 ∧ fld w 7 5 = 0#5 then some (.cnld (fld w 15 5) (fld w 20 5))
  else if fld w 25 7 = 3#7 ∧ fld w 12 3 = 5#3 ∧ fld w 7 5 = 0#5 then some (.msend (fld w 15 5) (fld w 20 5))
  else if fld w 25 7 = 4#7 ∧ fld w 20 5 = 0#5 ∧ fld w 15 5 = 0#5 ∧ fld w 12 3 = 5#3 then some (.mpop (fld w 7 5))
  else if fld w 25 7 = 5#7 ∧ fld w 20 5 = 0#5 ∧ fld w 12 3 = 5#3 then some (.amxrd (fld w 7 5) (fld w 15 5))
  else if fld w 25 7 = 6#7 ∧ fld w 20 5 = 0#5 ∧ fld w 12 3 = 5#3 ∧ fld w 7 5 = 0#5 then some (.amxclr (fld w 15 5))
  else if fld w 25 7 = 7#7 ∧ fld w 12 3 = 5#3 ∧ fld w 7 5 = 0#5 then some (.amxjoin (fld w 15 5) (fld w 20 5))
  else if fld w 25 7 = 8#7 ∧ fld w 12 3 = 5#3 then some (.mrd (fld w 7 5) (fld w 15 5) (fld w 20 5))
  else if fld w 25 7 = 9#7 ∧ fld w 12 3 = 5#3 then some (.mwr (fld w 7 5) (fld w 15 5) (fld w 20 5))
  else if fld w 25 7 = 0#7 ∧ fld w 12 3 = 6#3 then some (.ckAxpy (fld w 7 5) (fld w 15 5) (fld w 20 5))
  else if fld w 25 7 = 1#7 ∧ fld w 12 3 = 6#3 then some (.ckScal (fld w 7 5) (fld w 15 5) (fld w 20 5))
  else if fld w 25 7 = 2#7 ∧ fld w 12 3 = 6#3 ∧ fld w 7 5 = 0#5 then some (.ckDot (fld w 15 5) (fld w 20 5))
  else if fld w 25 7 = 3#7 ∧ fld w 12 3 = 6#3 ∧ fld w 7 5 = 0#5 then some (.ckMax (fld w 15 5) (fld w 20 5))
  else if fld w 25 7 = 4#7 ∧ fld w 12 3 = 6#3 then some (.ckSmx (fld w 7 5) (fld w 15 5) (fld w 20 5))
  else if fld w 25 7 = 5#7 ∧ fld w 12 3 = 6#3 ∧ fld w 7 5 = 0#5 then some (.ckAmax (fld w 15 5) (fld w 20 5))
  else if fld w 25 7 = 6#7 ∧ fld w 12 3 = 6#3 then some (.ckCvt (fld w 7 5) (fld w 15 5) (fld w 20 5))
  else if fld w 25 7 = 7#7 ∧ fld w 12 3 = 6#3 then some (.ckFill (fld w 7 5) (fld w 15 5) (fld w 20 5))
  else if fld w 25 7 = 8#7 ∧ fld w 12 3 = 6#3 ∧ fld w 7 5 = 0#5 then some (.ckEmpty (fld w 15 5) (fld w 20 5))
  else if fld w 25 7 = 9#7 ∧ fld w 12 3 = 6#3 ∧ fld w 7 5 = 0#5 then some (.ckSum (fld w 15 5) (fld w 20 5))
  else if fld w 25 2 = 0#2 ∧ fld w 12 3 = 7#3 then some (.cp (fld w 7 5) (fld w 15 5) (fld w 20 5) (fld w 27 5))
  else if fld w 25 2 = 1#2 ∧ fld w 12 3 = 7#3 then some (.cpx (fld w 7 5) (fld w 15 5) (fld w 20 5) (fld w 27 5))
  else if fld w 25 2 = 2#2 ∧ fld w 12 3 = 7#3 then some (.cpj (fld w 7 5) (fld w 15 5) (fld w 20 5) (fld w 27 5))
  else if fld w 25 2 = 3#2 ∧ fld w 12 3 = 7#3 then some (.cpfill (fld w 7 5) (fld w 15 5) (fld w 20 5) (fld w 27 5))
  else none

/-- The instruction of a word with the low bits 11, by major opcode (R36). -/
def decMajor (w : BitVec 32) : Except DecodeError (Option Instr) :=
  if fld w 0 7 = 0x37#7 then .ok (decLui w)
  else if fld w 0 7 = 0x17#7 then .ok (decAuipc w)
  else if fld w 0 7 = 0x13#7 then .ok (decOpImm w)
  else if fld w 0 7 = 0x1b#7 then .ok (decOpImm32 w)
  else if fld w 0 7 = 0x33#7 then .ok (decOp w)
  else if fld w 0 7 = 0x3b#7 then .ok (decOp32 w)
  else if fld w 0 7 = 0x6f#7 then .ok (decJal w)
  else if fld w 0 7 = 0x67#7 then .ok (decJalr w)
  else if fld w 0 7 = 0x63#7 then .ok (decBranch w)
  else if fld w 0 7 = 0x03#7 then .ok (decLoad w)
  else if fld w 0 7 = 0x23#7 then .ok (decStore w)
  else if fld w 0 7 = 0x07#7 then .ok (decLoadFp w)
  else if fld w 0 7 = 0x27#7 then .ok (decStoreFp w)
  else if fld w 0 7 = 0x0f#7 then .ok (decMiscMem w)
  else if fld w 0 7 = 0x73#7 then .ok (decSystem w)
  else if fld w 0 7 = 0x7b#7 then .ok (decCustom3 w)
  else if fld w 0 7 = 0x43#7 then .ok (decMadd w)
  else if fld w 0 7 = 0x47#7 then .ok (decMsub w)
  else if fld w 0 7 = 0x4b#7 then .ok (decNmsub w)
  else if fld w 0 7 = 0x4f#7 then .ok (decNmadd w)
  else if fld w 0 7 = 0x53#7 then .ok (decOpFp w)
  else if fld w 0 7 = 0x0b#7 then .ok (decCustom0 w)
  else if fld w 0 7 = 0x2b#7 then .ok (decCustom1 w)
  else if fld w 0 7 = 0x5b#7 then .ok (decCustom2 w)
  else .error .majorOpcode

/-- Decoding (R32, R36, R44): total on every word. -/
def decode (w : BitVec 32) : Except DecodeError Instr :=
  if fld w 0 2 = 3#2 then
    match decMajor w with
    | .error e => .error e
    | .ok none => .error .unassignedCode
    | .ok (some i) => .ok i
  else .error .lowBits

/-- The instruction that a word read from memory names, if it is one. -/
def decodeWord (w : BitVec 32) : Option Instr :=
  match decode w with
  | .ok i => some i
  | .error _ => none

/-- A 32-bit word from four bytes, lowest address first (R32: little-endian). -/
def wordOfBytes (b0 b1 b2 b3 : BitVec 8) : BitVec 32 := b3 ++ b2 ++ b1 ++ b0

/-- The instruction whose bits are `w` as the opcode table numbers them; every instruction is one 32-bit word (R32).
The word is laid out as four little-endian bytes and read back as the fetch reads it. -/
def decodeTableWord (nbits w : Nat) : Option Instr :=
  if nbits ≤ 32 then
    let x := BitVec.ofNat 32 (w % 2 ^ nbits)
    decodeWord (wordOfBytes (fld x 0 8) (fld x 8 8) (fld x 16 8) (fld x 24 8))
  else none

/-- A word from its six fields, from bit 31 down (R33). -/
def pack (f7 : BitVec 7) (rs2 rs1 : BitVec 5) (f3 : BitVec 3) (rd : BitVec 5) (op : BitVec 7) : BitVec 32 :=
  f7 ++ rs2 ++ rs1 ++ f3 ++ rd ++ op

/-- The word of an instruction, from the encoding tables of the spec; an event has no word. -/
def encode : Instr → Option (BitVec 32)
  | .lui rd imm => some (pack (fld imm 13 7) (fld imm 8 5) (fld imm 3 5) (fld imm 0 3) rd 0x37#7)
  | .auipc rd imm => some (pack (fld imm 13 7) (fld imm 8 5) (fld imm 3 5) (fld imm 0 3) rd 0x17#7)
  | .addi rd rs1 imm => some (pack (fld imm 5 7) (fld imm 0 5) rs1 0#3 rd 0x13#7)
  | .slti rd rs1 imm => some (pack (fld imm 5 7) (fld imm 0 5) rs1 2#3 rd 0x13#7)
  | .sltiu rd rs1 imm => some (pack (fld imm 5 7) (fld imm 0 5) rs1 3#3 rd 0x13#7)
  | .xori rd rs1 imm => some (pack (fld imm 5 7) (fld imm 0 5) rs1 4#3 rd 0x13#7)
  | .ori rd rs1 imm => some (pack (fld imm 5 7) (fld imm 0 5) rs1 6#3 rd 0x13#7)
  | .andi rd rs1 imm => some (pack (fld imm 5 7) (fld imm 0 5) rs1 7#3 rd 0x13#7)
  | .slli rd rs1 sh => some (pack (0#6 ++ (fld sh 5 1)) (fld sh 0 5) rs1 1#3 rd 0x13#7)
  | .srli rd rs1 sh => some (pack (0#6 ++ (fld sh 5 1)) (fld sh 0 5) rs1 5#3 rd 0x13#7)
  | .srai rd rs1 sh => some (pack (16#6 ++ (fld sh 5 1)) (fld sh 0 5) rs1 5#3 rd 0x13#7)
  | .addiw rd rs1 imm => some (pack (fld imm 5 7) (fld imm 0 5) rs1 0#3 rd 0x1b#7)
  | .slliw rd rs1 sh => some (pack 0#7 sh rs1 1#3 rd 0x1b#7)
  | .srliw rd rs1 sh => some (pack 0#7 sh rs1 5#3 rd 0x1b#7)
  | .sraiw rd rs1 sh => some (pack 32#7 sh rs1 5#3 rd 0x1b#7)
  | .add rd rs1 rs2 => some (pack 0#7 rs2 rs1 0#3 rd 0x33#7)
  | .sub rd rs1 rs2 => some (pack 32#7 rs2 rs1 0#3 rd 0x33#7)
  | .sll rd rs1 rs2 => some (pack 0#7 rs2 rs1 1#3 rd 0x33#7)
  | .slt rd rs1 rs2 => some (pack 0#7 rs2 rs1 2#3 rd 0x33#7)
  | .sltu rd rs1 rs2 => some (pack 0#7 rs2 rs1 3#3 rd 0x33#7)
  | .xorR rd rs1 rs2 => some (pack 0#7 rs2 rs1 4#3 rd 0x33#7)
  | .srl rd rs1 rs2 => some (pack 0#7 rs2 rs1 5#3 rd 0x33#7)
  | .sra rd rs1 rs2 => some (pack 32#7 rs2 rs1 5#3 rd 0x33#7)
  | .orR rd rs1 rs2 => some (pack 0#7 rs2 rs1 6#3 rd 0x33#7)
  | .andR rd rs1 rs2 => some (pack 0#7 rs2 rs1 7#3 rd 0x33#7)
  | .addw rd rs1 rs2 => some (pack 0#7 rs2 rs1 0#3 rd 0x3b#7)
  | .subw rd rs1 rs2 => some (pack 32#7 rs2 rs1 0#3 rd 0x3b#7)
  | .sllw rd rs1 rs2 => some (pack 0#7 rs2 rs1 1#3 rd 0x3b#7)
  | .srlw rd rs1 rs2 => some (pack 0#7 rs2 rs1 5#3 rd 0x3b#7)
  | .sraw rd rs1 rs2 => some (pack 32#7 rs2 rs1 5#3 rd 0x3b#7)
  | .mul rd rs1 rs2 => some (pack 1#7 rs2 rs1 0#3 rd 0x33#7)
  | .mulh rd rs1 rs2 => some (pack 1#7 rs2 rs1 1#3 rd 0x33#7)
  | .mulhsu rd rs1 rs2 => some (pack 1#7 rs2 rs1 2#3 rd 0x33#7)
  | .mulhu rd rs1 rs2 => some (pack 1#7 rs2 rs1 3#3 rd 0x33#7)
  | .div rd rs1 rs2 => some (pack 1#7 rs2 rs1 4#3 rd 0x33#7)
  | .divu rd rs1 rs2 => some (pack 1#7 rs2 rs1 5#3 rd 0x33#7)
  | .rem rd rs1 rs2 => some (pack 1#7 rs2 rs1 6#3 rd 0x33#7)
  | .remu rd rs1 rs2 => some (pack 1#7 rs2 rs1 7#3 rd 0x33#7)
  | .mulw rd rs1 rs2 => some (pack 1#7 rs2 rs1 0#3 rd 0x3b#7)
  | .divw rd rs1 rs2 => some (pack 1#7 rs2 rs1 4#3 rd 0x3b#7)
  | .divuw rd rs1 rs2 => some (pack 1#7 rs2 rs1 5#3 rd 0x3b#7)
  | .remw rd rs1 rs2 => some (pack 1#7 rs2 rs1 6#3 rd 0x3b#7)
  | .remuw rd rs1 rs2 => some (pack 1#7 rs2 rs1 7#3 rd 0x3b#7)
  | .jal rd off => some (pack (((fld off 19 1)) ++ (fld (fld off 0 10) 4 6)) ((fld (fld off 0 10) 0 4) ++ ((fld off 10 1))) (fld (fld off 11 8) 3 5) (fld (fld off 11 8) 0 3) rd 0x6f#7)
  | .jalr rd rs1 imm => some (pack (fld imm 5 7) (fld imm 0 5) rs1 0#3 rd 0x67#7)
  | .beq rs1 rs2 off => some (pack (((fld off 11 1)) ++ ((fld off 4 6))) rs2 rs1 0#3 (((fld off 0 4)) ++ ((fld off 10 1))) 0x63#7)
  | .bne rs1 rs2 off => some (pack (((fld off 11 1)) ++ ((fld off 4 6))) rs2 rs1 1#3 (((fld off 0 4)) ++ ((fld off 10 1))) 0x63#7)
  | .blt rs1 rs2 off => some (pack (((fld off 11 1)) ++ ((fld off 4 6))) rs2 rs1 4#3 (((fld off 0 4)) ++ ((fld off 10 1))) 0x63#7)
  | .bge rs1 rs2 off => some (pack (((fld off 11 1)) ++ ((fld off 4 6))) rs2 rs1 5#3 (((fld off 0 4)) ++ ((fld off 10 1))) 0x63#7)
  | .bltu rs1 rs2 off => some (pack (((fld off 11 1)) ++ ((fld off 4 6))) rs2 rs1 6#3 (((fld off 0 4)) ++ ((fld off 10 1))) 0x63#7)
  | .bgeu rs1 rs2 off => some (pack (((fld off 11 1)) ++ ((fld off 4 6))) rs2 rs1 7#3 (((fld off 0 4)) ++ ((fld off 10 1))) 0x63#7)
  | .lb rd rs1 imm => some (pack (fld imm 5 7) (fld imm 0 5) rs1 0#3 rd 0x03#7)
  | .lh rd rs1 imm => some (pack (fld imm 5 7) (fld imm 0 5) rs1 1#3 rd 0x03#7)
  | .lw rd rs1 imm => some (pack (fld imm 5 7) (fld imm 0 5) rs1 2#3 rd 0x03#7)
  | .ld rd rs1 imm => some (pack (fld imm 5 7) (fld imm 0 5) rs1 3#3 rd 0x03#7)
  | .lbu rd rs1 imm => some (pack (fld imm 5 7) (fld imm 0 5) rs1 4#3 rd 0x03#7)
  | .lhu rd rs1 imm => some (pack (fld imm 5 7) (fld imm 0 5) rs1 5#3 rd 0x03#7)
  | .lwu rd rs1 imm => some (pack (fld imm 5 7) (fld imm 0 5) rs1 6#3 rd 0x03#7)
  | .sb rs1 rs2 imm => some (pack ((fld imm 5 7)) rs2 rs1 0#3 ((fld imm 0 5)) 0x23#7)
  | .sh rs1 rs2 imm => some (pack ((fld imm 5 7)) rs2 rs1 1#3 ((fld imm 0 5)) 0x23#7)
  | .sw rs1 rs2 imm => some (pack ((fld imm 5 7)) rs2 rs1 2#3 ((fld imm 0 5)) 0x23#7)
  | .sd rs1 rs2 imm => some (pack ((fld imm 5 7)) rs2 rs1 3#3 ((fld imm 0 5)) 0x23#7)
  | .flw rd rs1 imm => some (pack (fld imm 5 7) (fld imm 0 5) rs1 2#3 rd 0x07#7)
  | .fsw rs1 rs2 imm => some (pack ((fld imm 5 7)) rs2 rs1 2#3 ((fld imm 0 5)) 0x27#7)
  | .fence pred succ => some (pack (0#4 ++ (fld pred 1 3)) ((fld pred 0 1) ++ succ) 0#5 0#3 0#5 0x0f#7)
  | .fenceTso => some (pack 65#7 19#5 0#5 0#3 0#5 0x0f#7)
  | .fenceI => some (pack 0#7 0#5 0#5 1#3 0#5 0x0f#7)
  | .ecall => some (pack 0#7 0#5 0#5 0#3 0#5 0x73#7)
  | .ebreak => some (pack 0#7 1#5 0#5 0#3 0#5 0x73#7)
  | .kret => some (pack 6#7 0#5 0#5 0#3 0#5 0x7b#7)
  | .csrrw rd rs1 csr => some (pack (fld csr 5 7) (fld csr 0 5) rs1 1#3 rd 0x73#7)
  | .csrrs rd rs1 csr => some (pack (fld csr 5 7) (fld csr 0 5) rs1 2#3 rd 0x73#7)
  | .csrrc rd rs1 csr => some (pack (fld csr 5 7) (fld csr 0 5) rs1 3#3 rd 0x73#7)
  | .csrrwi rd uimm csr => some (pack (fld csr 5 7) (fld csr 0 5) uimm 5#3 rd 0x73#7)
  | .csrrsi rd uimm csr => some (pack (fld csr 5 7) (fld csr 0 5) uimm 6#3 rd 0x73#7)
  | .csrrci rd uimm csr => some (pack (fld csr 5 7) (fld csr 0 5) uimm 7#3 rd 0x73#7)
  | .csrWrite _ _ => none
  | .kvstatRead _ => none
  | .fmaddS rd rs1 rs2 rs3 rm => some (pack (rs3 ++ 0#2) rs2 rs1 rm rd 0x43#7)
  | .fmsubS rd rs1 rs2 rs3 rm => some (pack (rs3 ++ 0#2) rs2 rs1 rm rd 0x47#7)
  | .fnmsubS rd rs1 rs2 rs3 rm => some (pack (rs3 ++ 0#2) rs2 rs1 rm rd 0x4b#7)
  | .fnmaddS rd rs1 rs2 rs3 rm => some (pack (rs3 ++ 0#2) rs2 rs1 rm rd 0x4f#7)
  | .faddS rd rs1 rs2 rm => some (pack 0#7 rs2 rs1 rm rd 0x53#7)
  | .fsubS rd rs1 rs2 rm => some (pack 4#7 rs2 rs1 rm rd 0x53#7)
  | .fmulS rd rs1 rs2 rm => some (pack 8#7 rs2 rs1 rm rd 0x53#7)
  | .fdivS rd rs1 rs2 rm => some (pack 12#7 rs2 rs1 rm rd 0x53#7)
  | .fsqrtS rd rs1 rm => some (pack 44#7 0#5 rs1 rm rd 0x53#7)
  | .fsgnjS rd rs1 rs2 => some (pack 16#7 rs2 rs1 0#3 rd 0x53#7)
  | .fsgnjnS rd rs1 rs2 => some (pack 16#7 rs2 rs1 1#3 rd 0x53#7)
  | .fsgnjxS rd rs1 rs2 => some (pack 16#7 rs2 rs1 2#3 rd 0x53#7)
  | .fminS rd rs1 rs2 => some (pack 20#7 rs2 rs1 0#3 rd 0x53#7)
  | .fmaxS rd rs1 rs2 => some (pack 20#7 rs2 rs1 1#3 rd 0x53#7)
  | .fcvtWS rd rs1 rm => some (pack 96#7 0#5 rs1 rm rd 0x53#7)
  | .fcvtWuS rd rs1 rm => some (pack 96#7 1#5 rs1 rm rd 0x53#7)
  | .fcvtLS rd rs1 rm => some (pack 96#7 2#5 rs1 rm rd 0x53#7)
  | .fcvtLuS rd rs1 rm => some (pack 96#7 3#5 rs1 rm rd 0x53#7)
  | .fcvtSW rd rs1 rm => some (pack 104#7 0#5 rs1 rm rd 0x53#7)
  | .fcvtSWu rd rs1 rm => some (pack 104#7 1#5 rs1 rm rd 0x53#7)
  | .fcvtSL rd rs1 rm => some (pack 104#7 2#5 rs1 rm rd 0x53#7)
  | .fcvtSLu rd rs1 rm => some (pack 104#7 3#5 rs1 rm rd 0x53#7)
  | .fmvXW rd rs1 => some (pack 112#7 0#5 rs1 0#3 rd 0x53#7)
  | .fclassS rd rs1 => some (pack 112#7 0#5 rs1 1#3 rd 0x53#7)
  | .feqS rd rs1 rs2 => some (pack 80#7 rs2 rs1 2#3 rd 0x53#7)
  | .fltS rd rs1 rs2 => some (pack 80#7 rs2 rs1 1#3 rd 0x53#7)
  | .fleS rd rs1 rs2 => some (pack 80#7 rs2 rs1 0#3 rd 0x53#7)
  | .fmvWX rd rs1 => some (pack 120#7 0#5 rs1 0#3 rd 0x53#7)
  | .hstart rd rs1 rs2 => some (pack 0#7 rs2 rs1 0#3 rd 0x7b#7)
  | .hexit rs1 => some (pack 1#7 0#5 rs1 0#3 0#5 0x7b#7)
  | .hexitComplete _ _ => none
  | .hwait rd rs1 => some (pack 2#7 0#5 rs1 0#3 rd 0x7b#7)
  | .carve rd rs1 rs2 => some (pack 3#7 rs2 rs1 0#3 rd 0x7b#7)
  | .carveReconfigure _ => none
  | .gang rd => some (pack 4#7 0#5 0#5 0#3 rd 0x7b#7)
  | .split rd => some (pack 5#7 0#5 0#5 0#3 rd 0x7b#7)
  | .gangRendezvous _ => none
  | .lpad label => some (pack (fld label 5 7) (fld label 0 5) 0#5 1#3 0#5 0x7b#7)
  | .jt rd rs1 tb => some (pack 0#7 tb rs1 2#3 rd 0x7b#7)
  | .fenceS sc rel acq scope => some (pack (0#6 ++ sc) (rel ++ acq ++ scope) 0#5 6#3 0#5 0x7b#7)
  | .bar lvl => some (pack 0#7 lvl 0#5 3#3 0#5 0x7b#7)
  | .send rs1 rs2 => some (pack 1#7 rs2 rs1 3#3 0#5 0x7b#7)
  | .tsend rs1 rs2 => some (pack 2#7 rs2 rs1 3#3 0#5 0x7b#7)
  | .tsendSlotSend _ _ => none
  | .qarm rs1 rs2 => some (pack 3#7 rs2 rs1 3#3 0#5 0x7b#7)
  | .qretire rs1 => some (pack 4#7 0#5 rs1 3#3 0#5 0x7b#7)
  | .taskq rs1 => some (pack 0#7 0#5 rs1 4#3 0#5 0x7b#7)
  | .taskput rs1 rs2 => some (pack 1#7 rs2 rs1 4#3 0#5 0x7b#7)
  | .taskend => some (pack 2#7 0#5 0#5 4#3 0#5 0x7b#7)
  | .lease rd rs1 rs2 => some (pack 3#7 rs2 rs1 4#3 rd 0x7b#7)
  | .renew rd rs1 rs2 => some (pack 4#7 rs2 rs1 4#3 rd 0x7b#7)
  | .unlease rs1 => some (pack 5#7 0#5 rs1 4#3 0#5 0x7b#7)
  | .mcall rd rs1 rs2 => some (pack 6#7 rs2 rs1 4#3 rd 0x7b#7)
  | .tlbw rd rs1 => some (pack 0#7 0#5 rs1 5#3 rd 0x7b#7)
  | .tlbinv rd rs1 rs2 => some (pack 1#7 rs2 rs1 5#3 rd 0x7b#7)
  | .replayall => some (pack 2#7 0#5 0#5 5#3 0#5 0x7b#7)
  | .tkpost rs1 rs2 => some (pack 3#7 rs2 rs1 5#3 0#5 0x7b#7)
  | .flushctx rd rs1 => some (pack 4#7 0#5 rs1 5#3 rd 0x7b#7)
  | .rhold rd rs1 rs2 => some (pack 5#7 rs2 rs1 5#3 rd 0x7b#7)
  | .rprio rs1 rs2 => some (pack 6#7 rs2 rs1 5#3 0#5 0x7b#7)
  | .rdrop rs1 => some (pack 7#7 0#5 rs1 5#3 0#5 0x7b#7)
  | .join rs1 rs2 => some (pack 0#7 rs2 rs1 0#3 0#5 0x0b#7)
  | .xld rd rs1 => some (pack 1#7 0#5 rs1 0#3 rd 0x0b#7)
  | .joinm rs1 rs2 => some (pack 2#7 rs2 rs1 0#3 0#5 0x0b#7)
  | .cork rs1 rs2 => some (pack 3#7 rs2 rs1 0#3 0#5 0x0b#7)
  | .corkw rs1 rs2 => some (pack 4#7 rs2 rs1 0#3 0#5 0x0b#7)
  | .bottle rs1 rs2 => some (pack 5#7 rs2 rs1 0#3 0#5 0x0b#7)
  | .rel rs1 rs2 => some (pack 6#7 rs2 rs1 0#3 0#5 0x0b#7)
  | .relSend _ _ => none
  | .rack rs1 rs2 => some (pack 7#7 rs2 rs1 0#3 0#5 0x0b#7)
  | .acq rd rs1 rs2 rs3 => some (pack (rs3 ++ 0#2) rs2 rs1 1#3 rd 0x0b#7)
  | .foldS rs1 rs2 rs3 lvl => some (pack (rs3 ++ 1#2) rs2 rs1 1#3 (0#3 ++ lvl) 0x0b#7)
  | .recycle rs1 rs2 rs3 => some (pack (rs3 ++ 2#2) rs2 rs1 1#3 0#5 0x0b#7)
  | .foldH rs1 rs2 rs3 lvl => some (pack (rs3 ++ 3#2) rs2 rs1 1#3 (0#3 ++ lvl) 0x0b#7)
  | .waitGe rd rs1 rs2 => some (pack 0#7 rs2 rs1 2#3 rd 0x0b#7)
  | .waitHas rd rs1 rs2 => some (pack 1#7 rs2 rs1 2#3 rd 0x0b#7)
  | .waitAny rd rs1 rs2 => some (pack 2#7 rs2 rs1 2#3 rd 0x0b#7)
  | .waitFull rd rs1 => some (pack 3#7 0#5 rs1 2#3 rd 0x0b#7)
  | .waitCork rd rs1 => some (pack 4#7 0#5 rs1 2#3 rd 0x0b#7)
  | .waitAnswer _ => none
  | .acqAnswer _ => none
  | .corkAck _ _ => none
  | .rackComplete _ _ => none
  | .vadd bc t rd rs1 rs2 => some (pack (bc ++ 0#6) rs2 rs1 t.code rd 0x2b#7)
  | .vsub bc t rd rs1 rs2 => some (pack (bc ++ 1#6) rs2 rs1 t.code rd 0x2b#7)
  | .vmul bc t rd rs1 rs2 => some (pack (bc ++ 2#6) rs2 rs1 t.code rd 0x2b#7)
  | .vfma bc t rd rs1 rs2 => some (pack (bc ++ 3#6) rs2 rs1 t.code rd 0x2b#7)
  | .vmax bc t rd rs1 rs2 => some (pack (bc ++ 4#6) rs2 rs1 t.code rd 0x2b#7)
  | .vmin bc t rd rs1 rs2 => some (pack (bc ++ 5#6) rs2 rs1 t.code rd 0x2b#7)
  | .vabs t rd rs1 => some (pack 6#7 0#5 rs1 t.code rd 0x2b#7)
  | .vneg t rd rs1 => some (pack 7#7 0#5 rs1 t.code rd 0x2b#7)
  | .vexp2 t rd rs1 => some (pack 8#7 0#5 rs1 t.code rd 0x2b#7)
  | .vrcp t rd rs1 => some (pack 9#7 0#5 rs1 t.code rd 0x2b#7)
  | .vrsq t rd rs1 => some (pack 10#7 0#5 rs1 t.code rd 0x2b#7)
  | .vlog2 t rd rs1 => some (pack 11#7 0#5 rs1 t.code rd 0x2b#7)
  | .vand bc t rd rs1 rs2 => some (pack (bc ++ 12#6) rs2 rs1 t.code rd 0x2b#7)
  | .vor bc t rd rs1 rs2 => some (pack (bc ++ 13#6) rs2 rs1 t.code rd 0x2b#7)
  | .vxor bc t rd rs1 rs2 => some (pack (bc ++ 14#6) rs2 rs1 t.code rd 0x2b#7)
  | .vshl bc t rd rs1 rs2 => some (pack (bc ++ 15#6) rs2 rs1 t.code rd 0x2b#7)
  | .vshra bc t rd rs1 rs2 => some (pack (bc ++ 16#6) rs2 rs1 t.code rd 0x2b#7)
  | .vshrl bc t rd rs1 rs2 => some (pack (bc ++ 17#6) rs2 rs1 t.code rd 0x2b#7)
  | .vcmplt bc t rd rs1 rs2 => some (pack (bc ++ 18#6) rs2 rs1 t.code rd 0x2b#7)
  | .vcmpeq bc t rd rs1 rs2 => some (pack (bc ++ 19#6) rs2 rs1 t.code rd 0x2b#7)
  | .vsel bc t rd rs1 rs2 => some (pack (bc ++ 20#6) rs2 rs1 t.code rd 0x2b#7)
  | .vredsum t rd rs1 => some (pack 21#7 0#5 rs1 t.code rd 0x2b#7)
  | .vredmax t rd rs1 => some (pack 22#7 0#5 rs1 t.code rd 0x2b#7)
  | .vcvt bc t rd rs1 fmt => some (pack (bc ++ 23#6) (0#1 ++ fmt) rs1 t.code rd 0x2b#7)
  | .vbcast bc t rd rs1 rs2 => some (pack (bc ++ 24#6) rs2 rs1 t.code rd 0x2b#7)
  | .vperm t rd rs1 rs2 => some (pack 25#7 rs2 rs1 t.code rd 0x2b#7)
  | .vamax t rs1 => some (pack 26#7 0#5 rs1 t.code 0#5 0x2b#7)
  | .vmovm t rd rs1 subop => some (pack 27#7 subop rs1 t.code rd 0x2b#7)
  | .vslide t rd rs1 rs2 => some (pack 92#7 rs2 rs1 t.code rd 0x2b#7)
  | .vtrn t rd rs1 rs2 => some (pack 29#7 rs2 rs1 t.code rd 0x2b#7)
  | .vld rd rs1 => some (pack 0#7 0#5 rs1 7#3 rd 0x2b#7)
  | .vst rd rs1 => some (pack 1#7 0#5 rs1 7#3 rd 0x2b#7)
  | .vlds rd rs1 rs2 => some (pack 2#7 rs2 rs1 7#3 rd 0x2b#7)
  | .vsts rd rs1 rs2 => some (pack 3#7 rs2 rs1 7#3 rd 0x2b#7)
  | .vldx rd rs1 rs2 => some (pack 4#7 rs2 rs1 7#3 rd 0x2b#7)
  | .vstx rd rs1 rs2 => some (pack 5#7 rs2 rs1 7#3 rd 0x2b#7)
  | .vxld rd rs1 => some (pack 6#7 0#5 rs1 7#3 rd 0x2b#7)
  | .vjoin rd rs1 => some (pack 7#7 0#5 rs1 7#3 rd 0x2b#7)
  | .sbind rd rs1 rs2 => some (pack 8#7 rs2 rs1 7#3 rd 0x2b#7)
  | .sunbind rd => some (pack 9#7 0#5 0#5 7#3 rd 0x2b#7)
  | .vldf rd rs1 => some (pack 10#7 0#5 rs1 7#3 rd 0x2b#7)
  | .vstf rd rs1 => some (pack 11#7 0#5 rs1 7#3 rd 0x2b#7)
  | .vfold rd rs1 rs2 => some (pack 12#7 rs2 rs1 7#3 rd 0x2b#7)
  | .mma zd acc tb ta pair rs1 rs2 rs3 => some (pack (rs3 ++ ((fld pair 0 2))) rs2 rs1 (0#1 ++ ((fld pair 2 2))) (acc ++ tb ++ ta ++ zd) 0x5b#7)
  | .mmas zd acc tb pair rs1 rs2 rs3 => some (pack (rs3 ++ pair) rs2 rs1 4#3 (acc ++ tb ++ 0#1 ++ zd) 0x5b#7)
  | .mzero rd => some (pack 0#7 0#5 0#5 5#3 rd 0x5b#7)
  | .mcvtst rd rs1 rs2 => some (pack 1#7 rs2 rs1 5#3 rd 0x5b#7)
  | .cnld rs1 rs2 => some (pack 2#7 rs2 rs1 5#3 0#5 0x5b#7)
  | .msend rs1 rs2 => some (pack 3#7 rs2 rs1 5#3 0#5 0x5b#7)
  | .mpop rd => some (pack 4#7 0#5 0#5 5#3 rd 0x5b#7)
  | .amxrd rd rs1 => some (pack 5#7 0#5 rs1 5#3 rd 0x5b#7)
  | .amxclr rs1 => some (pack 6#7 0#5 rs1 5#3 0#5 0x5b#7)
  | .amxjoin rs1 rs2 => some (pack 7#7 rs2 rs1 5#3 0#5 0x5b#7)
  | .mrd rd rs1 rs2 => some (pack 8#7 rs2 rs1 5#3 rd 0x5b#7)
  | .mwr rd rs1 rs2 => some (pack 9#7 rs2 rs1 5#3 rd 0x5b#7)
  | .engineCommandStart _ => none
  | .engineCommandComplete _ => none
  | .msendArrival _ => none
  | .ckAxpy rd rs1 rs2 => some (pack 0#7 rs2 rs1 6#3 rd 0x5b#7)
  | .ckScal rd rs1 rs2 => some (pack 1#7 rs2 rs1 6#3 rd 0x5b#7)
  | .ckDot rs1 rs2 => some (pack 2#7 rs2 rs1 6#3 0#5 0x5b#7)
  | .ckMax rs1 rs2 => some (pack 3#7 rs2 rs1 6#3 0#5 0x5b#7)
  | .ckSmx rd rs1 rs2 => some (pack 4#7 rs2 rs1 6#3 rd 0x5b#7)
  | .ckAmax rs1 rs2 => some (pack 5#7 rs2 rs1 6#3 0#5 0x5b#7)
  | .ckCvt rd rs1 rs2 => some (pack 6#7 rs2 rs1 6#3 rd 0x5b#7)
  | .ckFill rd rs1 rs2 => some (pack 7#7 rs2 rs1 6#3 rd 0x5b#7)
  | .ckEmpty rs1 rs2 => some (pack 8#7 rs2 rs1 6#3 0#5 0x5b#7)
  | .ckSum rs1 rs2 => some (pack 9#7 rs2 rs1 6#3 0#5 0x5b#7)
  | .caskPartExecute _ _ => none
  | .remoteCaskArrival _ => none
  | .cp rd rs1 rs2 rs3 => some (pack (rs3 ++ 0#2) rs2 rs1 7#3 rd 0x5b#7)
  | .cpx rd rs1 rs2 rs3 => some (pack (rs3 ++ 1#2) rs2 rs1 7#3 rd 0x5b#7)
  | .cpj rd rs1 rs2 rs3 => some (pack (rs3 ++ 2#2) rs2 rs1 7#3 rd 0x5b#7)
  | .cpfill rd rs1 rs2 rs3 => some (pack (rs3 ++ 3#2) rs2 rs1 7#3 rd 0x5b#7)
  | .copyPortion _ => none
  | .copyComplete _ => none
  | .emptyWordReadWake _ _ => none
  | .combiningBufferLeave _ _ => none
  | .deferredTrap _ _ => none
  | .reportPost _ => none
  | .reportDelivery _ _ => none
  | .rtailWrite _ _ _ => none
  | .faultBufferRequest _ => none
  | .kfbmsgRead _ => none
  | .replayNotice _ => none
  | .flushAck _ => none
  | .clusterBarrierRelease _ => none
  | .barrierRelease _ => none
  | .channelRoomFreed _ _ => none
  | .timedArrival _ => none
  | .routerCombineLeave _ => none
  | .notificationWindow => none
  | .detectorSample => none
  | .quiescenceProbe _ => none
  | .probeRestart _ => none
  | .taskRecordDecode _ _ => none
  | .headLatenessCheck _ _ => none
  | .distributorSelect _ => none
  | .dispatch _ => none
  | .teamCompletion _ => none
  | .taskqAnswer _ _ => none
  | .balancerTick => none
  | .migrationCommand _ => none
  | .preempt _ => none
  | .resume _ _ => none
  | .pressJoin _ => none
  | .pressExactRead _ => none
  | .pressWaitRegister _ => none
  | .pressWaitRetry _ => none
  | .pressRel _ => none
  | .pressCork _ => none
  | .pressFoldAppend _ => none
  | .leaseCountTick => none
  | .leaseLapse _ => none
  | .mcDrainComplete _ => none
  | .mcCallStart _ => none
  | .mcallToken _ => none
  | .mcBundle _ => none
  | .mcAdd _ _ => none
  | .mcSub _ _ => none
  | .mcAnd _ _ => none
  | .mcOr _ _ => none
  | .mcXor _ _ => none
  | .mcShl _ _ => none
  | .mcShr _ _ => none
  | .mcSra _ _ => none
  | .mcMul _ _ => none
  | .mcLtu _ _ => none
  | .mcLt _ _ => none
  | .mcEq _ _ => none
  | .mcMinu _ _ => none
  | .mcMaxu _ _ => none
  | .mcInc _ _ => none
  | .mcDec _ _ => none
  | .mcNot _ _ => none
  | .mcNeg _ _ => none
  | .mcLd _ _ => none
  | .mcLwz _ _ => none
  | .mcSt _ _ => none
  | .mcSw4 _ _ => none
  | .mcLld _ _ => none
  | .mcLst _ _ => none
  | .mcLjoin _ _ => none
  | .mcPw _ _ => none
  | .mcPc _ _ => none
  | .mcBput _ _ => none
  | .mcBget _ => none
  | .mcJmp _ _ => none
  | .mcDone _ _ => none
  | .mcFence _ => none
  | .mcPushArrival _ => none
  | .unitMark _ _ => none
  | .unitDisable _ => none
  | .errorEpochEnd => none
  | .thermalStep _ _ => none
  | .thermalTrip => none
  | .deviceReset => none
  | .selfTest _ _ _ => none
  | .memoryTraining _ _ => none
  | .lineStateZero => none
  | .choingLoad _ _ => none
  | .htailWrite _ => none
  | .hsqTaskEntry => none
  | .hsqPreempt => none
  | .hsqUnfreeze => none
  | .hsqWake => none
  | .hsqReleaseHeld => none
  | .hsqQueueReset => none
  | .hsqMalformed => none
  | .ringLogWrite _ _ => none
  | .dconsWrite _ => none
  | .deqPost => none
  | .hostRead _ _ => none
  | .hostWrite _ _ _ _ => none
  | .backInvalidateResponse _ => none
  | .portDown _ => none
  | .gatewayMergeSend _ => none
  | .devWrite _ => none
  | .regionTableWrite _ _ => none
  | .pktRd _ => none
  | .pktJn _ => none
  | .pktFd _ => none
  | .pktWt _ => none
  | .pktRl _ => none
  | .pktCk _ => none
  | .pktFl _ => none
  | .pktWd _ => none
  | .pktRdr _ => none
  | .pktAns _ => none
  | .pktTkt _ => none
  | .pktNtc _ => none
  | .pktRej _ => none
  | .pktNack _ => none
  | .pktRpt _ => none
  | .pktAck _ => none
  | .pktArv _ => none
  | .pktRls _ => none
  | .pktRck _ => none
  | .pktPrb _ => none
  | .pktIdl _ => none
  | .pktDcl _ => none
  | .illegalInstruction _ => none
  | .instructionFetchFault => none
  | .loadValueReturn _ _ => none
  | .remoteCaskCompletion _ => none
  | .powerOff => none
  | .portTrained _ => none
  | .gatewayAcknowledgement _ => none
  | .hostControlWrite _ _ => none

end Sys2Proof
end

