-- ==== Sys2Proof/Config.lean ====
section
/-! DEFINITION.
What the implementation fixes, and the free values: constants without a body, of which nothing can be proved. -/

namespace Sys2Proof.Config

/-- Bytes of an element after a fill conflict (R98: a conflicted element keeps no defined value), and of a line or a scratchpad word
with an error that cannot be corrected (R290, R523), by free-value number. -/
opaque freeElem : Nat → BitVec 1024

/-- The syndrome of a cause 36 record (R148), by free-value number. -/
opaque freeSyndrome : Nat → BitVec 64

/-- The bits of an instruction-memory bundle after an uncorrectable error (R497), by free-value number. -/
opaque freeBundle : Nat → BitVec 64

/-- Type, width and vintage that a source gateway has for a line of another device (R533, R548; the spec does not say how it learns
them), by free-value number, device and line. -/
opaque remotePage : Nat → BitVec 10 → Nat → BitVec 4 × BitVec 2 × BitVec 8

/-- The reason word of the access event of a host access whose replay failed, or that no rule admits to a window (R513 and R514 name no
value), by free-value number. -/
opaque freeReason : Nat → BitVec 64

/-- Compute cores of the package (R527). -/
def nCores : Nat := 576

/-- Slices, presses and memory cores of the package (R459). -/
def nSlices : Nat := 384

/-- Clusters of the package (R329). -/
def nClusters : Nat := 72

/-- Entries of a core's ticket table (R177). -/
def nTickets : Nat := 16

/-- Remote read requests of a core (R177). -/
def nRemote : Nat := 256

/-- Entries of a combining buffer (R174). -/
def nCombine : Nat := 16

/-- Ranges of the range scoreboard (R295). -/
def nRanges : Nat := 32

/-- Records of a distributor queue (R419). -/
def nQueue : Nat := 256

/-- Places of the package buffer of reports (R519). -/
def nReports : Nat := 4096

/-- Bytes of one image slot (R510). -/
def imageSlot : Nat := 6 * 1048576

end Sys2Proof.Config
end

