-- ==== Sys2Proof/Machine/State.lean ====
section
/-! DEFINITION.
The state of one device, as plain data. Sparse tables list only what differs from reset. -/

namespace Sys2Proof.Machine

open Sys2Proof

/-! ## Translation entries and accesses -/

/-- The class of a translated page (R94). -/
inductive Cls where
  | own | host | lat
  deriving DecidableEq, Repr

/-- A TLB entry: the fields of TAG, MAP and OWNW (R349, R350, R351). -/
structure Tlb where
  vpn : Nat
  lg : Bool
  ppn : Nat
  cls : Cls
  typ : BitVec 4
  width : BitVec 2
  vint : BitVec 8
  cork : Bool
  ret : Bool
  owner : BitVec 16
  second : BitVec 16
  mask : BitVec 16
  deriving DecidableEq, Repr

/-- What an access writes when it returns (R370 DKIND). -/
inductive Dst where
  | none
  /-- an x register, from `w` bytes, sign-extended or not (R70, R109) -/
  | x (r : Reg) (w : Nat) (signed : Bool)
  | f (r : Reg)
  | v (r : Reg)
  | m (r : Reg)
  /-- a copy token register -/
  | tok (r : Reg)
  deriving DecidableEq, Repr

/-- The form of a WAIT-family instruction or of ACQ (R111, R124). -/
inductive WaitForm where
  | ge | has | any | full | cork | acq
  deriving DecidableEq, Repr

/-- The operation of an outstanding access: the OP codes of R370, with what each needs at a replay. -/
inductive AccOp where
  | load
  | store
  | xld
  | join
  /-- WAIT or ACQ: form, triggers (or t), prior value -/
  | wait (form : WaitForm) (trig : List Word) (prior : Word)
  | rel (v : Word)
  | fold (half : Bool) (key : BitVec 32) (value : BitVec 32) (lvl : BitVec 3) (dom : BitVec 16) (phase : Bool)
  | joinm
  /-- exact read: VXLD; otherwise a plain vector load; `idx`: a gather (R227, R230) -/
  | vload (exact idx : Bool)
  /-- join: VJOIN; otherwise a plain store; `idx`: a scatter (R227, R230) -/
  | vstore (joins idx : Bool)
  | vfold (key : BitVec 32) (lvl : BitVec 3) (dom : BitVec 16) (phase : Bool)
  /-- a page of a range instruction: 0 CORK, 1 CORKW, 2 RACK, 3 BOTTLE, 4 RECYCLE, with the target word of RECYCLE and the base and
  the lines of the whole range;
  8 more: the page missed translation, and the instruction issues again after the replay; 16 more: the page of another device,
  whose conversion there a ticket answers (R375) -/
  | range (what : Nat) (target base : Word) (total : Nat)
  | fetch
  /-- an ordinary load made inside JT, TLBW, TASKPUT or MCALL: the instruction reissues when it ends -/
  | inner
  | amxjoin
  /-- a block for synchronised words (R233) -/
  | vstf
  /-- a portion of the copy engine, with its destination failing (true) or its source (false) -/
  | copy (dstSide : Bool)
  deriving DecidableEq, Repr

/-- The access joins or stores, so that its performance is acknowledged (R547). -/
def AccOp.writes : AccOp → Bool
  | .load => false | .xld => false | .vload .. => false | .fetch => false | .inner => false | .wait .. => false
  | .copy d => d
  | _ => true

/-- A portion of a load, an exact read or an instruction's inner load, which the remote-request counter counts (R177). -/
def AccOp.remoteRead : AccOp → Bool
  | .load => true | .xld => true | .vload .. => true | .fetch => true | .inner => true
  | _ => false

/-- Where an outstanding access stands. -/
inductive Stage where
  /-- translated: the value comes from this physical address, in this class (R76) -/
  | ready (pa : Nat) (cls : Cls) (vint : BitVec 8)
  /-- an endpoint-window read of this device (R164) -/
  | window
  /-- an exact read queued at a press, whose readability the context awaits (R74) -/
  | press
  /-- missed translation: the request is on its way to the fault buffer (R357) -/
  | missed (kind : BitVec 2)
  /-- holds a ticket (R370) -/
  | ticket (tdev : BitVec 10) (code : BitVec 16)
  /-- answered by status 2, or denied: kept, with the ticket that it held, until the host unfreezes the core (R372, R545) -/
  | frozen (tdev : BitVec 10) (code : BitVec 16)
  /-- sent to another device, whose reply is outstanding (R546) -/
  | remote
  /-- a write sent to another device by a context that has retired since: only its acknowledgement is awaited (R434) -/
  | orphan
  /-- the bytes have returned, at their places in the register, and wait for the other portions (R226) -/
  | back (data : BitVec 4096)
  /-- the portion has failed, at issue or later (R226) -/
  | failed (cause : BitVec 6) (early : Bool)
  deriving DecidableEq, Repr

/-- One outstanding access portion of a core, in age order (R370). -/
structure Acc where
  /-- issue order -/
  age : Nat
  /-- the portions of one instruction share this number -/
  grp : Nat
  ctx : Fin 11
  op : AccOp
  pc : Word
  va : Word
  len : Nat
  dst : Dst
  /-- first byte of the register that the portion fills or supplies -/
  doff : Nat
  /-- the pieces of the portion: address, place in the register and bytes -/
  chunks : List (Word × Nat × Nat)
  /-- active bytes of the register -/
  mask : BitVec 512
  data : BitVec 4096
  /-- the wait number of a WAIT or ACQ (R110) -/
  wid : Nat := 0
  /-- the ticket entry, by the age of its first portion: the portions of one page of an instruction share it (R370) -/
  ent : Nat := 0
  /-- the source address of a copy-path portion (R370 SRC) -/
  src : Word := 0
  /-- the instruction was issued at system level (R559), and the cycle of its issue, which tells the instructions of a gang apart (R343) -/
  sys : Bool := false
  at_ : Nat := 0
  stage : Stage
  deriving DecidableEq, Repr

/-! ## Contexts -/

/-- Why a context is parked (R22). A scoreboard stall on a register that a ticket holds is read off the table. -/
inductive Park where
  /-- WAIT or ACQ from its issue to the answer; the wait number names it (R110, R124) -/
  | wait (acq : Bool) (rd : Reg) (id : Nat)
  /-- CORKW: the acknowledgements of its corks (R114) -/
  | corkw
  /-- RACK (R131) -/
  | rack
  /-- an empty synchronised word at this scratchpad offset (R274) -/
  | word (off : Nat)
  | hwait (n : Fin 11)
  /-- HEXIT of context 0 with helpers live (R27) -/
  | hexit
  deriving DecidableEq, Repr

/-- A wait at a barrier or rendezvous (R392). -/
inductive Rendez where
  /-- BAR at a kdom index (R391) -/
  | bar (lvl : BitVec 2)
  /-- CARVE at the team barrier: descriptor and sync mask, and rd (R161) -/
  | carve (rd : Reg) (desc mask : Word)
  | gang (rd : Reg)
  | split (rd : Reg)
  deriving DecidableEq, Repr

/-- The states of R21; pre-emption moves the whole team into an image. -/
inductive Life where
  | retired
  | live
  | parked (why : Park)
  | waiting (at_ : Rendez)
  deriving DecidableEq, Repr

/-- A stall during one instruction of a live context (R22: stalls are not parking). -/
inductive Hold where
  | free
  /-- portions of the instruction with this group number must settle first (R74, R226) -/
  | exact (grp : Nat)
  /-- a load into a write generator: the block is written when the portions have returned (R235) -/
  | gen (grp : Nat)
  /-- a ticketed fetch, or an inner load of an instruction that reissues (R371, R52) -/
  | replay (age : Nat)
  /-- HEXIT's drain, with the exit value (R27) -/
  | exit (value : Word)
  /-- REL waiting for earlier accesses: variable and value (R121) -/
  | rel (addr value : Word)
  /-- TSEND waiting for its slot, whose occurrence starts at a cycle (R400) -/
  | tsend (slot : Nat) (dst : Nat) (ch : Fin 8) (data : BitVec 4096) (due : Nat)
  /-- an SC-class operation announced (R403) -/
  | sc
  /-- BOTTLE or RECYCLE with a page in conversion: the age of its ticket entry (R375) -/
  | convert (age : Nat)
  /-- TASKPUT, whose entry the distributor has not accepted or refused yet (R443) -/
  | put
  /-- the instruction has been decided while its core was frozen; its register and value are written when the host unfreezes (R24) -/
  | told (rd : Reg) (value : Word)
  deriving DecidableEq, Repr

/-- kdom0 to kdom3 (R388). -/
structure KDom where
  v : Bool := false
  t : Bool := false
  lvl : BitVec 3 := 0
  phase : Bool := false
  dom : BitVec 16 := 0
  deriving DecidableEq, Repr

/-- The context CSRs of R16 to R19 and the other per-context CSRs. -/
structure Csrs where
  /-- kstatus.PRV, PPRV, TIP (R17) -/
  prv : Bool := false
  pprv : Bool := false
  tip : Bool := false
  /-- kcause.ASYNC, CODE (R18) -/
  async : Bool := false
  code : BitVec 6 := 0
  epc : BitVec 62 := 0
  tval : Word := 0
  tvec : BitVec 62 := 0
  scratch : Word := 0
  gset : BitVec 4 := 0
  seed : Word := 0
  sigidx : BitVec 4 := 0
  /-- fcsr: FRM and NV, DZ, OF, UF, NX (R86) -/
  fcsr : BitVec 8 := 0
  /-- kvstat: NV, DZ, OF, UF, NX (R198) -/
  vstat : BitVec 5 := 0
  /-- kvmask, kamaxsel, kvcvt (R205) -/
  men : Bool := false
  midx : BitVec 3 := 0
  amaxEn : Bool := false
  amaxIdx : BitVec 4 := 0
  rnd : BitVec 2 := 0
  /-- kdom0 to kdom3 (R388), kslot.LATE (R399) -/
  dom : Vector KDom 4 := Vector.replicate 4 {}
  late : Bool := false
  /-- kqinfo, kqpc, kqarm (R410, R411) -/
  qActive : Bool := false
  qLvl : BitVec 3 := 0
  qDom : BitVec 16 := 0
  qNwait : BitVec 16 := 0
  qpc : Word := 0
  armEntry : BitVec 62 := 0
  armIdx : BitVec 2 := 0
  deriving DecidableEq, Repr

/-- A residency handle: the pages of its range (virtual and physical 64 KiB numbers, and whether the page is LAT), its
priority and its creation number (R474). -/
structure Handle where
  pages : List (Nat × Nat × Bool)
  prio : BitVec 3
  made : Nat
  deriving DecidableEq, Repr

/-- A stream binding of v24 to v31 (R234, R235). -/
structure Stream where
  /-- 1 read generator, 2 write generator, 3 arrival channel -/
  kind : BitVec 2
  fe : Bool
  count : Nat
  base : Nat
  inner : Nat
  ostr : Int
  istr : Int
  k : Nat
  deriving DecidableEq, Repr

/-- A report area (R146, R147): the header words and the 16 slots of six words. -/
structure Reports where
  head : BitVec 32 := 0
  tail : BitVec 32 := 0
  lost : BitVec 32 := 0
  lcause : BitVec 7 := 0
  resume : Word := 0
  dv : Bool := false
  dkind : BitVec 3 := 0
  dreg : BitVec 5 := 0
  slots : SMap (List Word) := []
  deriving DecidableEq, Repr

/-- A deferred trap that has reached the context (R139). -/
structure Deferred where
  age : Nat
  code : BitVec 6
  epc : Word
  tval : Word
  dv : Bool
  dkind : BitVec 3
  dreg : BitVec 5
  /-- the context was still at the failing instruction, which had issued: the next one to issue follows it (R139, R140) -/
  at_ : Bool
  deriving DecidableEq, Repr

/-- A completion of the matrix engine, not yet popped (R250): token word, flags, and the core that executed the command. -/
structure Completion where
  token : Word
  flags : BitVec 5
  ep : Nat
  deriving DecidableEq, Repr

/-- One context (R12). -/
structure Ctx where
  life : Life := .retired
  hold : Hold := .free
  pc : Word := 0
  x : Vector Word 32 := Vector.replicate 32 0
  f : Vector (BitVec 32) 32 := Vector.replicate 32 0
  v : Vector (BitVec 4096) 32 := Vector.replicate 32 0
  m : Vector (BitVec 512) 8 := Vector.replicate 8 0
  sig : BitVec 1024 := 0
  csr : Csrs := {}
  /-- label that the next instruction's LPAD has to carry (R49) -/
  pad : Option (BitVec 12) := none
  streams : SMap Stream := []
  /-- the bound register that the held instruction takes an entry or a block of when it completes (R235) -/
  took : Option Reg := none
  /-- the registers with MCALL tokens that the held instruction has read when it completes (R493) -/
  toks : List Nat := []
  handles : SMap Handle := []
  /-- lease slot to memory-core endpoint, for klease.V and EP (R495) -/
  leases : SMap Nat := []
  /-- counts of pushes, copy pushes and MCALLs since the context's start (R250, R294, R493) -/
  nPush : BitVec 16 := 0
  nCopy : BitVec 16 := 0
  nCall : BitVec 8 := 0
  done : List Completion := []
  /-- completion-producing pushes whose completion has not been formed, and those of them that MSEND made (R171, R261) -/
  pushed : Nat := 0
  sentOut : Nat := 0
  exitVal : Word := 0
  rep : Reports := {}
  deferred : List Deferred := []
  /-- x registers that hold an MCALL token not yet read, with the call's signature (R493) -/
  tokens : SMap (BitVec 1024) := []
  /-- x registers busy for a copy token or an MCALL token (R294, R493) -/
  busyX : List Reg := []
  /-- TASKQ requests outstanding (R440) -/
  taskqs : Nat := 0
  /-- a cursor of the destinations or pages that the current instruction has performed (R102, R108) -/
  cursor : Nat := 0
  /-- issue recency (R170) -/
  last : Nat := 0
  /-- its barrier has released while its core was frozen: it goes on when the host unfreezes (R24) -/
  granted : Bool := false
  deriving DecidableEq, Repr

/-! ## Cores -/

/-- A combining-buffer entry (R174). -/
structure CbEntry where
  line : Nat
  /-- global address of the line -/
  va : Word
  lat : Bool
  typ : BitVec 4
  width : BitVec 2
  vint : BitVec 8
  valid : BitVec 128
  data : BitVec 1024
  parties : List (Fin 11)
  count : Nat
  since : Nat
  deriving DecidableEq, Repr

/-- An L1 line: dirty OWN bytes, or a copy of a LAT line with its readable bytes (R126, R301). -/
structure L1Line where
  lat : Bool
  va : Word
  owner : BitVec 16
  /-- dirty bytes of an OWN line; readable bytes of a LAT line -/
  mask : BitVec 128
  data : BitVec 1024
  deriving DecidableEq, Repr

/-- A team placed on a core (R431, R432, R436). -/
structure Team where
  num : BitVec 16
  owner : BitVec 16
  rank : BitVec 8
  nteam : BitVec 8
  dist : BitVec 2
  deadline : Word
  tag : Word
  crec : Word
  late : Word
  rt : Bool
  mode1 : Bool
  launch : Nat
  /-- reports that R149 directed to the completion record -/
  nrep : Nat
  /-- the team holds image slots, one for each core (R447) -/
  img : Bool
  /-- the team's issue is stopped for a pre-emption (R449) -/
  stop : Bool
  /-- the team's end, once every context is retired: status, value, cause, epc, tval (R434) -/
  ended : Option (Nat × Word × Word × Word × Word)
  deriving DecidableEq, Repr

/-- kgangset and kgang of a core (R334, R335): the set's shape, this rank, the set's endpoints in rank order. -/
structure Gang where
  shape : BitVec 2 := 0
  rank : BitVec 2 := 0
  set : List Nat := []
  g : Bool := false
  tmask : BitVec 4 := 0
  /-- this member has still to complete the instruction that others of the gang have completed (R339) -/
  behind : Bool := false
  deriving DecidableEq, Repr

/-- A command of the matrix engine (R248, R253 to R259, R263). -/
structure MCmd where
  /-- the command word's instruction -/
  instr : Instr
  /-- values of rs1, rs2 and the f scale (R260) -/
  a : Word
  b : Word
  sigma : BitVec 32
  /-- conversion state at the push: rounding mode, amax enable and index, seed (R254, R255) -/
  rnd : BitVec 2
  amaxEn : Bool
  amaxIdx : BitVec 4
  seed : Word
  pc : Word
  /-- pusher: endpoint and context -/
  ep : Nat
  ctx : Fin 11
  seq : BitVec 16
  /-- the age of the pusher's next access at the push (R172) -/
  age : Nat
  /-- V[rs2] of MWR (R253) -/
  row : BitVec 4096
  /-- the gang's leader, and the number that the CNLD of a gang shares (R339) -/
  lead : Nat
  tag : Nat
  /-- the command word of MSEND sets transA on MMAS (R247) -/
  bad : Bool
  /-- a command that MSEND carried, whose completion has REMOTE = 1 (R263) -/
  sent : Bool
  /-- its context has retired: it is performed, and its completion goes nowhere (R152, R434) -/
  orphan : Bool := false
  deriving DecidableEq, Repr

/-- A copy-engine command, or the copy path of a matrix command (R291, R293). -/
structure Copy where
  /-- 0 CP, 1 CPX, 2 CPJ, 3 CPFILL, 4 the rows of MCVTST, 5 the stripes of CNLD -/
  kind : Nat
  dst : Word
  src : Word
  len : Nat
  /-- bytes performed -/
  at_ : Nat
  ctx : Fin 11
  pc : Word
  rd : Reg
  seq : BitVec 16
  /-- lines staged by MCVTST, by their number from the destination -/
  staged : SMap (BitVec 1024)
  /-- a portion has failed: nothing more is performed (log 19) -/
  failed : Bool
  age : Nat
  /-- its context has retired: it is performed, and its token goes nowhere (R152, R434) -/
  orphan : Bool := false
  deriving DecidableEq, Repr

/-- A matrix command that has executed and whose completion is to be queued (R250). -/
structure MDone where
  cmd : MCmd
  flags : BitVec 5
  status : BitVec 4
  reason : BitVec 4
  /-- the lowest full word of STATUS 2 -/
  detail : BitVec 24
  /-- a copy-path part (MCVTST with DST = 1, CNLD with SRC = 1) still to be performed (R258) -/
  copying : Option Copy
  deriving DecidableEq, Repr

/-- A cask command in flight (R278 to R289). -/
structure Cask where
  /-- 0 AXPY, 1 SCAL, 2 DOT, 3 MAX, 4 SMX, 5 AMAX, 6 CVT, 7 FILL, 8 EMPTY, 9 SUM -/
  kind : Nat
  acc : Bool
  p : Nat
  q : Nat
  fmt : BitVec 4
  len : Nat
  a : BitVec 32
  rnd : BitVec 2
  amaxEn : Bool
  amaxIdx : BitVec 4
  seed : Word
  /-- issuer -/
  ep : Nat
  ctx : Fin 11
  pc : Word
  age : Nat
  /-- its context has retired: it is performed, and its flags and AMAX offers go on without it (R152, R434) -/
  orphan : Bool := false
  /-- it has passed steps 1 and 2 of R282, and its parts are being performed (R286) -/
  started : Bool := false
  /-- what the parts still to be performed write: offset, length and value of each run -/
  out : List (Nat × Nat × Nat) := []
  /-- the words that they fill, or empty (CK.EMPTY) -/
  fill : List Nat := []
  /-- its flags, to be accrued at its retirement (R199) -/
  flags : BitVec 5 := 0
  deriving DecidableEq, Repr

/-- A range of the range scoreboard, in global form, with the age of its command (R295). -/
structure Held where
  base : Word
  len : Nat
  age : Nat
  deriving DecidableEq, Repr

/-- An arrival entry with its sender and order (R395, R401). -/
structure Arrival where
  ch : Fin 8
  lvl : BitVec 3
  dom : BitVec 16
  /-- sender endpoint, context and the order of its sends -/
  ep : Nat
  ctx : Nat
  seq : Nat
  /-- the cycle of a timed arrival; zero for an untimed one -/
  due : Nat
  data : BitVec 4096
  deriving DecidableEq, Repr

/-- One compute core, or a translation service core (R154 to R177). -/
structure Core where
  ctxs : Vector Ctx 11 := Vector.replicate 11 {}
  disabled : Bool := false
  marked : Bool := false
  /-- freezes that the host has not lifted (R24) -/
  frozen : Bool := false
  team : Option Team := none
  gang : Gang := {}
  /-- carve: FTRAP, AQB, HMAX, MX, L1B (R157), sync mask, HNEXT (R19) -/
  ftrap : Bool := false
  aqb : Nat := 0
  hmax : Nat := 0
  mx : Bool := true
  l1b : Nat := 16
  sync : Word := 0
  hnext : Nat := 0
  /-- scratchpad bytes and the full words of synchronised banks, by word number (R273) -/
  pad : List Host.Cell := []
  full : List Nat := []
  /-- fills of words, as the die detector counts them (R406) -/
  fills : Nat := 0
  /-- scratchpad words with an error that cannot be corrected, by offset (R290, R523) -/
  padErr : List Nat := []
  /-- accumulator words, key z*32768 + i*512 + j (R239) -/
  z : SMap (BitVec 32) := []
  canopy : List Host.Cell := []
  /-- canopy words with an error that cannot be corrected, by offset (R523) -/
  canErr : List Nat := []
  amax : SMap (BitVec 33) := []
  kmcap : Word := 0
  /-- arrival channels, discard counts (R167, R169) -/
  chans : Vector (List (BitVec 4096)) 8 := Vector.replicate 8 []
  disc : Vector (BitVec 32) 8 := Vector.replicate 8 0
  staged : List Arrival := []
  wantRoom : List Arrival := []
  timed : List Arrival := []
  timedHeld : List Arrival := []
  /-- engines (R171) -/
  mq : List MCmd := []
  mrun : Option MDone := none
  cq : List Copy := []
  casks : List Cask := []
  held : List Held := []
  cb : List CbEntry := []
  /-- contention predictor: line, counter, most recent first (R176) -/
  pred : List (Nat × BitVec 2) := []
  l1 : SMap L1Line := []
  tlb : List Tlb := []
  accs : List Acc := []
  /-- next age, and next group and send numbers -/
  nextAge : Nat := 0
  /-- teams that have run here since their last FLUSHCTX (R369) -/
  ran : List (BitVec 16) := []
  deriving DecidableEq, Repr

/-! ## Memory and presses -/

/-- Line state (R461). -/
structure LineState where
  fillst : BitVec 64 := 0
  lostv : Word := 0
  fdom : BitVec 16 := 0
  flvl : BitVec 3 := 0
  fdv : Bool := false
  ringst : BitVec 2 := 0
  wovf : Bool := false
  rack : Bool := false
  cork : Bool := false
  vint : BitVec 8 := 0
  deriving DecidableEq, Repr

/-- A signature ring: line, element offset, hw, entries oldest first (R122). -/
structure Ring where
  line : Nat
  elem : Nat
  hw : Word
  ents : List (Word × BitVec 1024)
  deriving DecidableEq, Repr

/-- A registered WAIT or ACQ (R465). -/
structure Registration where
  line : Nat
  off : Nat
  typ : BitVec 4
  width : BitVec 2
  form : WaitForm
  trig : List Word
  prior : Word
  /-- requester: device, endpoint, context and wait number, and the domain that its packet counts for (R533) -/
  who : Party
  id : Nat
  fdom : BitVec 16
  /-- the registration lies in the waiter table (R465) -/
  table : Bool
  deriving DecidableEq, Repr

/-- A lees record with its appender and global address (R472). -/
structure LeesRec where
  line : Nat
  off : Nat
  key : BitVec 32
  value : BitVec 32
  lvl : BitVec 3
  dom : BitVec 16
  phase : Bool
  who : Party
  deriving DecidableEq, Repr

/-- What an operation queued at a press does (R463). -/
inductive PressKind where
  | join (width : BitVec 2) (valid : BitVec 128) (data : BitVec 1024) (parties : List Party) (host : Bool)
  /-- exact read at the page's width, of the access of this age at the requester; `all`: under an entry with CORK = 1, where
  every element is readable (R350) -/
  | read (width : BitVec 2) (age : Nat) (all : Bool)
  | wait (off : Nat) (width : BitVec 2) (form : WaitForm) (trig : List Word) (prior : Word) (id : Nat)
  | rel (off : Nat) (width : BitVec 2) (v : Word) (sig : BitVec 1024)
  | cork
  | rack
  | fold (off : Nat) (r : FoldRec)
  deriving DecidableEq, Repr

/-- An operation in the input of a press, in arrival order (R463). -/
structure PressOp where
  line : Nat
  va : Word
  typ : BitVec 4
  vint : BitVec 8
  who : Party
  fdom : BitVec 16
  kind : PressKind
  /-- the tag of another device's request, which its acknowledgement names (R547) -/
  tag : Nat
  deriving DecidableEq, Repr

/-- A router combining entry (R385). -/
structure RouteEntry where
  /-- the input port, 5 · router + side -/
  port : Nat
  since : Nat
  op : PressOp
  deriving DecidableEq, Repr

/-- Press status of a slice (R468). -/
structure PressStat where
  fillcnt : BitVec 32 := 0
  latecnt : BitVec 32 := 0
  lastlate : Word := 0
  deriving DecidableEq, Repr

/-! ## Clusters -/

/-- A requester of a fault-buffer slot: device and endpoint (R356). -/
abbrev Requester := BitVec 10 × Nat

/-- A fault-buffer slot (R356). -/
structure Slot where
  /-- 0 free, 1 listed, 2 in service -/
  st : BitVec 2 := 0
  vpn : Nat := 0
  kind : BitVec 2 := 0
  gen : BitVec 5 := 0
  team : BitVec 16 := 0
  sub : BitVec 4 := 0
  acc : BitVec 2 := 0
  reqs : List Requester := []
  map : Word := 0
  ownw : Word := 0
  /-- kind 2: the lines of the page: 512, or 262,144 of a large one -/
  lines : Nat := 512
  /-- kind 2: the context whose conversion waits, and what it is (R375) -/
  who : Option (Party × Nat × Word) := none
  deriving DecidableEq, Repr

/-- A message of kfbmsg (R363). -/
inductive FbMsg where
  | slot (k : Fin 8)
  | dropped
  | released (vpn : Nat)
  deriving DecidableEq, Repr

/-- A barrier slot of a cluster (R344). -/
structure BarSlot where
  valid : Bool := false
  dom : BitVec 16 := 0
  phase : Bool := false
  members : List Nat := []
  deriving DecidableEq, Repr

/-- A cluster's shared units (R344, R352, R356). -/
structure Cluster where
  l2 : List Tlb := []
  slots : Vector Slot 8 := Vector.replicate 8 {}
  drop : Bool := false
  seen : List (BitVec 10) := []
  msgs : List FbMsg := []
  /-- the service core serves a message that it has read (R346, R363) -/
  serving : Bool := false
  /-- pages of handle-released messages for which the queue has no room (R363), and pages whose TLBINV a handle has deferred (R374) -/
  relWait : List Nat := []
  deferred : List Nat := []
  sel : Fin 8 := 0
  bars : Vector BarSlot 4 := Vector.replicate 4 {}
  deriving DecidableEq, Repr

/-! ## Domains and the SC order -/

/-- A slot record of a slot plan (R396). -/
structure SlotRec where
  off : Nat
  src : Nat
  dst : Nat
  ch : Fin 8
  /-- next occurrence of the slot that no TSEND has used in this phase (R400) -/
  used : Nat
  deriving DecidableEq, Repr

/-- A synchronisation domain (R389). -/
structure Domain where
  /-- the descriptor's words, none for a level-0 domain -/
  words : List Word
  lvl : BitVec 3
  dom : BitVec 16
  timed : Bool
  hwake : Bool
  quota : Nat
  ncore : Nat
  /-- member cores that were launched, and those whose team has completed -/
  members : List Nat
  ended : List Nat
  phase : Bool
  plan : List SlotRec
  plen : Nat
  nslot : Nat
  /-- start of the slot period of the phase (R398) -/
  start : Nat
  coord : BitVec 10
  ndev : Nat
  /-- declared in this phase (R407) -/
  declared : Bool
  /-- records appended per phase parity, and their appenders (R129) -/
  count0 : Nat
  count1 : Nat
  appended0 : List Party
  appended1 : List Party
  /-- level 4: arrivals reported by devices, answers, step of the barrier, packets sent and received (R552) -/
  arrived : List (BitVec 10 × Nat)
  /-- the release has come while a member had withdrawn its arrival: the members go on when all have arrived again (log 68); the number
  of requests of the coordinator that a withdrawal has ended -/
  held4 : Bool := false
  tries : Nat := 0
  counts : List (BitVec 10 × Nat)
  finished : List (BitVec 10)
  /-- the devices whose member teams have all completed (R389, R552; log 105) -/
  overs : List (BitVec 10) := []
  /-- the period boundary at which the communication of a timed domain stops, because a member's team is pre-empted (R414) -/
  stopAt : Option Nat := none
  step : Nat
  sent : Nat
  recvd : Nat
  /-- quiescence confirmation: wave, answers with idle, sent, received (R413), and the waiting contexts and whether one is armed
  (R408; log 129), cycle of a failed wave -/
  wave : Nat
  answers : List (BitVec 10 × Bool × Nat × Nat × Nat)
  first : List (BitVec 10 × Bool × Nat × Nat × Nat)
  failedAt : Option Nat
  deriving DecidableEq, Repr

/-- An SC-class operation announced and not delivered (R402, R403). -/
inductive ScKind where
  | bar (lvl : BitVec 2)
  | fence
  | lease (rd : Reg) (mc : Nat) (count : BitVec 16) (slot : Nat)
  | renew (rd : Reg) (slot : Nat) (count : BitVec 16)
  | unlease (slot : Nat)
  deriving DecidableEq, Repr

structure ScOp where
  window : Nat
  ep : Nat
  ctx : Fin 11
  kind : ScKind
  deriving DecidableEq, Repr

/-- The die detector's last sample (R406, R407). -/
structure Detector where
  /-- samples taken -/
  samples : Nat := 0
  /-- domains (level and number) whose scope was idle at the last sample -/
  idle : List (BitVec 3 × BitVec 16) := []
  /-- joins applied, channel appends and barrier releases by die, and all wake events at the last sample -/
  wakes : Vector Nat 4 := Vector.replicate 4 0
  seen : Vector Nat 4 := Vector.replicate 4 0
  deriving DecidableEq, Repr

/-! ## Memory cores -/

/-- R487. -/
inductive McState where
  | free | leased | running | releasing | draining | held
  deriving DecidableEq, Repr

/-- A call running or queued (R492). -/
structure Call where
  entry : Nat
  words : Vector Word 8
  ep : Nat
  ctx : Fin 11
  rd : Reg
  seq : BitVec 8
  sig : BitVec 1024
  deriving DecidableEq, Repr

/-- A push on its way (R483). -/
structure Push where
  mc : Nat
  ep : Nat
  canopy : Bool
  addr : Nat
  va : Word
  data : BitVec 1024
  team : BitVec 16
  pc : Nat
  /-- the call that pushed: its context and SEQ -/
  call : Option (Fin 11 × BitVec 8)
  deriving DecidableEq, Repr

/-- A translation miss that stalls a memory core until its notice: the address, the kind of the ticket, whether it is a write,
the code and the notice's status (R482). -/
structure McMiss where
  va : Word
  kind : BitVec 2
  write : Bool
  code : Option (BitVec 16)
  status : Option (BitVec 2)
  deriving DecidableEq, Repr

/-- A memory core (R478 to R497). -/
structure MemCore where
  st : McState := .free
  disabled : Bool := false
  marked : Bool := false
  imem : SMap Word := []
  /-- words that failed uncorrectably (R497): bundle k, 4096 + k for port g k, 4112 + 16·b + k for word k of line buffer b -/
  bad : List Nat := []
  /-- the core is HELD by an uncorrectable error, not by a freeze (R497) -/
  broke : Bool := false
  g : Vector Word 16 := Vector.replicate 16 0
  a : Word := 0
  r : Word := 0
  lr : Word := 0
  sa : Word := 0
  lb : Fin 4 := 0
  bufs : Vector (BitVec 1024) 4 := Vector.replicate 4 0
  bi : Fin 16 := 0
  p : Vector Bool 8 := Vector.replicate 8 false
  pc : Nat := 0
  /-- the target of a taken jmp whose delay bundle comes next (R480) -/
  jump : Option Nat := none
  tlb : List Tlb := []
  lessee : Option (Nat × Fin 11 × Nat) := none
  team : BitVec 16 := 0
  owner : BitVec 16 := 0
  count : BitVec 16 := 0
  faddr : Word := 0
  ecorr : BitVec 32 := 0
  call : Option Call := none
  queued : Option Call := none
  /-- calls sent and not yet arrived (R492) -/
  sent : List Call := []
  /-- ended calls whose token is to be delivered: call, token (R493) -/
  ended : List (Call × Word) := []
  miss : Option McMiss := none
  /-- the bundle at pc has performed its moves but for a fence, or a done with its value, that waits for them (R481) -/
  await : Option (Option Word) := none
  pushes : List Push := []
  /-- window in which COUNT reached 0 (R489), and the one in which the core last became FREE (R487) -/
  lapsed : Option Nat := none
  freed : Nat := 0
  deriving DecidableEq, Repr

/-! ## Distributors -/

/-- A decoded task record (R424) with its source. -/
structure Task where
  f : Vector Word 16
  /-- put by TASKPUT at app level (R426 reason 5) -/
  app : Bool
  arrival : Nat
  /-- the head check has been made, with the lateness (R427) -/
  checked : Bool
  late : Word
  /-- a pre-empted team's image, for entries of the resume and transfer lists (R446) -/
  image : Option Nat
  /-- the time at which it became the head of its queue (R427) -/
  headAt : Option Nat := none
  /-- it is late, its lateness record is posted, and it is to be dropped (R427) -/
  noted : Bool := false
  deriving DecidableEq, Repr

/-- A queue entry on its way to a distributor: header and words (R422), and its source (R423, R443). -/
structure Entry where
  q : Fin 16
  host : Bool
  app : Bool
  words : List Word
  /-- the TASKPUT that stalls on it -/
  who : Option (Nat × Fin 11)
  deriving DecidableEq, Repr

/-- A TASKQ, or a TASKEND, on its way to its distributor (R440, R442). -/
structure TaskqReq where
  launch : Nat
  /-- TASKEND -/
  fin : Bool
  ep : Nat
  ctx : Fin 11
  off : Nat
  pc : Word
  age : Nat
  /-- the cycle of the request -/
  asked : Nat := 0
  deriving DecidableEq, Repr

/-- A page that a distributor has missed: its number, the ticket's code, and a replay that failed (R429, R434). -/
structure DistMiss where
  vpn : Nat
  code : Option (BitVec 16)
  failed : Bool
  deriving DecidableEq, Repr

/-- A work distributor (R419 to R431). -/
structure Dist where
  queues : Vector (List Task) 16 := Vector.replicate 16 []
  drops : Vector (BitVec 32) 16 := Vector.replicate 16 0
  lates : Vector (BitVec 32) 16 := Vector.replicate 16 0
  /-- host base records (R423) -/
  bases : Vector (Vector Word 16) 16 := Vector.replicate 16 (Vector.replicate 16 0)
  entries : List Entry := []
  resume : List Task := []
  transfer : List Task := []
  lastTeam : Nat := 0
  arrivals : Nat := 0
  /-- the candidate selected and not yet placed: source (0 resume, 1 + q, 17 transfer) (R428) -/
  selected : Option (Nat × Task) := none
  taskqs : List TaskqReq := []
  misses : List DistMiss := []
  deriving DecidableEq, Repr

/-- The index pool of a range task (R439). -/
structure Pool where
  p : Nat
  hi : Nat
  chunk : Nat
  /-- holders: endpoint, context, c, e -/
  holders : List (Nat × Nat × Nat × Nat)
  returned : List (Nat × Nat)
  deriving DecidableEq, Repr

/-- A launch: its teams that have not completed, its range task, its domains (R430, R435). -/
structure Launch where
  id : Nat
  dist : Nat
  task : Task
  live : List (BitVec 16)
  pool : Option Pool
  doms : List (BitVec 3 × BitVec 16)
  deriving DecidableEq, Repr

/-- A pre-emption image: the team's cores with their endpoints (R449). -/
structure Image where
  id : Nat
  dist : Nat
  team : BitVec 16
  deadline : Word
  /-- old endpoint of each core of the team, and the place that holds its state (log 23) -/
  cores : List (Nat × Nat)
  task : Task
  /-- TASKQ answers held for the team: the request, the index and the end of the interval (R450) -/
  answers : List (TaskqReq × Nat × Nat)
  deriving DecidableEq, Repr

/-! ## Package, host and fabric -/

/-- The package control block and what stands behind it (R510 to R524). -/
structure Pkg where
  boot : BitVec 4 := 0
  rreq : Bool := false
  ttrip : Bool := false
  throt : BitVec 2 := 0
  pavg : BitVec 16 := 0
  pcap : BitVec 12 := 2800
  ethr : BitVec 16 := 256
  temps : Vector (BitVec 16) 4 := Vector.replicate 4 0
  t2len : Vector (BitVec 41) 12 := Vector.replicate 12 0
  /-- pseudo-channels (by slice) that are disabled -/
  badPch : List Nat := []
  tested : Bool := false
  t1size : Word := 0
  /-- the disable log: unit numbers as in a unit event, 2048 + slice for a pseudo-channel (R524) -/
  log : List Nat := []
  /-- corrected-error counts of the epoch by unit, and epochs done (R524) -/
  corrected : SMap Nat := []
  epochs : Nat := 0
  hsqBase : Word := 0
  hsqLog : Nat := 0
  deqBase : Word := 0
  deqLog : Nat := 0
  htail : BitVec 32 := 0
  hseq : BitVec 32 := 0
  dcons : BitVec 32 := 0
  dseq : BitVec 32 := 0
  imgBase : Word := 0
  imgN : Nat := 0
  hvBase : Word := 0
  bootImg : Word := 0
  /-- intake stopped on a wrong SEQ until HTAIL is written (R518) -/
  stopped : Bool := false
  /-- HTAIL has been written 0 in stage 5 (R511) -/
  hostReady : Bool := false
  off : Bool := false
  /-- milliseconds of the power loop done (R521) -/
  ms : Nat := 0
  balanced : Nat := 0
  leaseTicks : Nat := 0
  deriving DecidableEq, Repr

/-- A host access that waits: for a ticket and its replay (R513), or in the input of a press (R514). -/
structure HostAcc where
  id : Nat
  w : Nat
  write : Bool
  len : Nat
  data : Nat
  be : Nat
  press : Bool
  code : Option (BitVec 16)
  deriving DecidableEq, Repr

/-- A completed host access: what the host sees (R513, R514); `io`: a CXL.io read of the control block (R510). -/
structure HostAns where
  w : Nat
  poisoned : Bool
  len : Nat
  data : Nat
  io : Bool
  deriving DecidableEq, Repr

/-- A device access that waits for a back-invalidation (R515). -/
structure Snoop where
  sector : Nat
  ep : Nat
  ctx : Fin 11
  deriving DecidableEq, Repr

/-- The fabric configuration and the gateways (R531 to R548). -/
structure Fabric where
  fkey : BitVec 128 := 0
  aen : Bool := false
  dev : BitVec 10 := 0
  rtbase : BitVec 42 := 0
  rtn : Nat := 0
  viol : BitVec 32 := 0
  drops : BitVec 32 := 0
  /-- port map entries that are valid (R536), and the bits of every entry as written: PV and PORT -/
  ports : SMap (Fin 36) := []
  portBits : SMap (BitVec 8) := []
  tokens : SMap (Word × Word) := []
  /-- access-table entries 0 and 1 hold their reset values; the rest are invalid (R541) -/
  access : SMap (Word × Word) :=
    [(0, (0xC000003F003F0000, 0xFFFFFFFF00000000)),
     (1, (0xD000003F003F0000, 0xFFFFFFFF00000000))]
  up : List (Fin 36) := []
  /-- packets sent and kept until the receiving gateway acknowledges (R532) -/
  out : List Packet := []
  /-- next sequence number to send, and to accept, by device*4 + class -/
  tx : SMap Nat := []
  rx : SMap Nat := []
  /-- gateway join entries, with the cycle of their first join (R548) -/
  merge : List (Nat × Packet) := []
  /-- join entries of the target gateways: the cycle of the first join, the port, and the join (R548) -/
  gate : List (Nat × Nat × PressOp) := []
  /-- withdrawals that were sent, by endpoint, context and tag: nothing but a violation answers them (R543, R550) -/
  wds : List (Nat × Nat × Nat) := []
  deriving DecidableEq, Repr

/-- A message in flight inside the device. -/
inductive Msg where
  /-- answer of a wait: endpoint, context, wait number, result -/
  | waitAns (ep : Nat) (ctx : Fin 11) (id : Nat) (result : Word) (fdom : BitVec 16)
  | acqAns (ep : Nat) (ctx : Fin 11) (id : Nat) (result : Word) (sig : BitVec 1024)
  /-- a wait to be made again 1,024 cycles after a retry answer (R465) -/
  | retry (at_ : Nat) (op : PressOp)
  /-- a report record for a context (R148, R149) -/
  | report (ep : Nat) (ctx : Nat) (words : List Word)
  /-- a ticketed request on its way to a fault buffer: who, page, kind, team, sub-page, access, age -/
  | request (cluster : Nat) (who : Requester) (vpn : Nat) (kind : BitVec 2) (team : BitVec 16) (sub : BitVec 4)
      (acc : BitVec 2) (age : Nat)
  /-- a replay notice for an endpoint: device, code or cluster, status, and the reason of a freeze (R359, R367) -/
  | notice (ep : Nat) (tdev : BitVec 10) (all : Bool) (code : BitVec 16) (status : BitVec 2) (reason : Nat)
  /-- a migration's flush of an owner from an old core to a new one, not yet acknowledged (R452) -/
  | flushed (from_ to_ : Nat) (owner : BitVec 16)
  /-- a matrix command sent by MSEND to a core (R263) -/
  | msend (to_ : Nat) (cmd : MCmd) (key : BitVec 32)
  /-- a cask command on its way to another core (R289), and its completion -/
  | cask (to_ : Nat) (c : Cask)
  | caskDone (c : Cask) (flags : BitVec 5) (fail : Option (BitVec 6 × Word))
  /-- a TSEND entry on its way, with the TSEND's destination word (R400) -/
  | send (to_ : Nat) (a : Arrival) (pc : Word) (word : Word)
  /-- balancer command: source, destination, count, and the arrivals of the records that it has counted (R444, R445, R453) -/
  | migrate (src dst n : Nat) (counted : List Nat)
  deriving DecidableEq, Repr

/-- What the machine does next, when something outside the default order decides it (log 2). -/
inductive Turn where
  /-- the context issues its next instruction -/
  | issue (ep : Nat) (ctx : Fin 11)
  /-- an event of the opcode table -/
  | event (i : Instr)
  /-- time passes -/
  | tick (n : Nat)
  /-- an L1 line of a core leaves by replacement (R126) -/
  | evictLine (ep : Nat) (line : Nat)
  /-- an uncorrectable error strikes a memory line (R523) -/
  | poison (line : Nat)
  /-- an uncorrectable error strikes a scratchpad word of a core, by offset (R290, R523) -/
  | poisonPad (ep : Nat) (word : Nat)
  /-- an uncorrectable error strikes a canopy word of a core, by offset (R523) -/
  | poisonCanopy (ep : Nat) (word : Nat)
  /-- an uncorrectable error strikes a word of a memory core: a bundle, a g port or a word of a line buffer (R497) -/
  | poisonMc (mc : Nat) (word : Nat)
  /-- an uncorrectable error strikes an L1 line of a core (R523) -/
  | poisonL1 (ep : Nat) (line : Nat)
  /-- a corrected error of a unit (R524) -/
  | corrected (unit : Nat)
  /-- the host stores bytes in its own memory (R512) -/
  | hostStore (addr : Nat) (bytes : List (BitVec 8))
  /-- the host takes a sector: shared, or exclusive (R515) -/
  | hostTake (sector : Nat) (excl : Bool)
  /-- the host reads a doubleword of the package control block through CXL.io (R510) -/
  | hostControlRead (off : Nat)
  /-- the boot stage under way fails (R511) -/
  | bootFail
  /-- Choing resolves the collision of a slot of a cluster's fault buffer (R355) -/
  | resolve (cluster : Nat) (slot : Fin 8)
  deriving DecidableEq, Repr

/-- How the instruction at hand ended, for the lock-step of a gang (R339, R341). -/
inductive Issue where
  | done
  | stalled
  | trapped (code : BitVec 6) (tval : Word)
  deriving DecidableEq, Repr

/-! ## The device -/

/-- The whole device. -/
structure State where
  /-- compute cores 0 to 575 and translation service cores 960 to 1031 (R527) -/
  cores : SMap Core
  /-- memory cores 576 to 959 -/
  mcs : SMap MemCore
  clusters : SMap Cluster
  dists : SMap Dist
  /-- physical memory (R507) and host memory (R512) -/
  mem : List Host.Cell
  hostMem : List Host.Cell
  /-- line state by physical line (R461) -/
  lines : SMap LineState
  poisoned : List Nat
  rings : List Ring
  regs : List Registration
  lees : List LeesRec
  pressQ : List PressOp
  stats : SMap PressStat
  routers : List RouteEntry
  net : List Msg
  domains : List Domain
  sc : List ScOp
  windows : Nat
  det : Detector
  launches : List Launch
  images : List Image
  pkg : Pkg
  fab : Fabric
  hostAccs : List HostAcc
  hostAns : List HostAns
  /-- sectors that the host holds: sector and exclusive (R515) -/
  snoop : List (Nat × Bool)
  snoops : List Snoop
  /-- reports waiting for the device ring: payload words of each (R519) -/
  reports : List (List Word)
  /-- markers of a migration at the homes of dirty lines: physical line, old core (R452) -/
  markers : List (Nat × Nat)
  /-- numbering of waits, launches, images, handles, sends -/
  next : Nat
  /-- cycles since device reset (R20) -/
  cycle : Nat
  /-- the model's own fields (log 2, log 3) -/
  agenda : List Turn
  cur : Nat × Fin 11
  out : Issue
  free : Nat
  deriving DecidableEq, Repr

/-- Why a step has no next state. -/
inductive Fault where
  /-- Raised by `step` when the device has no power (R524) and the turn is not a reset: nothing can be performed.
  Safe: the hardware performs nothing either. -/
  | powerOff
  deriving DecidableEq, Repr

/-- Why the model gives no meaning. -/
inductive Refusal where
  /-- An instruction whose arm in Dispatch is not modelled yet. Safe: no claim about it can be proved. -/
  | notModelled (mnemonic : String)
  deriving DecidableEq, Repr

/-- The device right after reset (R31, R510, R541): every table lists nothing, every unit is at its reset value. -/
def State.reset : State where
  cores := []
  mcs := []
  clusters := []
  dists := []
  mem := []
  hostMem := []
  lines := []
  poisoned := []
  rings := []
  regs := []
  lees := []
  pressQ := []
  stats := []
  routers := []
  net := []
  domains := []
  sc := []
  windows := 0
  det := {}
  launches := []
  images := []
  pkg := {}
  fab := {}
  hostAccs := []
  hostAns := []
  snoop := []
  snoops := []
  reports := []
  markers := []
  next := 0
  cycle := 0
  agenda := []
  cur := (0, 0)
  out := .done
  free := 0

end Sys2Proof.Machine
end

