-- ==== Sys2Proof/Machine/Sparse.lean ====
section
/-! DEFINITION.
Sparse tables and byte memories as sorted lists in one canonical form, and byte masks. -/

namespace Sys2Proof.Machine

open Sys2Proof

/-! ## Tables -/

/-- The value of a key, if it is listed. -/
def mget {α : Type} : SMap α → Nat → Option α
  | [], _ => none
  | (k, v) :: rest, key => if key = k then some v else if key < k then none else mget rest key

/-- The value of a key, or the default. -/
def mgetD {α : Type} (m : SMap α) (key : Nat) (d : α) : α := (mget m key).getD d

/-- The table with a key set. -/
def mput {α : Type} : SMap α → Nat → α → SMap α
  | [], key, v => [(key, v)]
  | (k, w) :: rest, key, v =>
    if key = k then (key, v) :: rest
    else if key < k then (key, v) :: (k, w) :: rest
    else (k, w) :: mput rest key v

/-- The table without a key. -/
def mdel {α : Type} : SMap α → Nat → SMap α
  | [], _ => []
  | (k, w) :: rest, key => if key = k then rest else (k, w) :: mdel rest key

/-- Two tables as one; the first one wins where both list a key. `fuel` is at least the sum of their lengths. -/
def mmerge {α : Type} : Nat → SMap α → SMap α → SMap α
  | 0, _, _ => []
  | _ + 1, [], b => b
  | _ + 1, a, [] => a
  | fuel + 1, (k, v) :: a, (j, w) :: b =>
    if k < j then (k, v) :: mmerge fuel a ((j, w) :: b)
    else if j < k then (j, w) :: mmerge fuel ((k, v) :: a) b
    else (k, v) :: mmerge fuel a b

/-- The entries of a table with keys in [lo, lo + n). -/
def mrange {α : Type} (m : SMap α) (lo n : Nat) : SMap α := m.filter fun e => lo ≤ e.1 && e.1 < lo + n

/-- Keys rise strictly. -/
def keysRise {α : Type} : SMap α → Bool
  | [] => true
  | [_] => true
  | (k, _) :: (k', v') :: rest => decide (k < k') && keysRise ((k', v') :: rest)

/-! ## Byte memories -/

/-- The byte at an address; an address that is not listed reads as zero (log 4). -/
def byteAt (m : List Host.Cell) (a : Nat) : BitVec 8 := mgetD m a 0

/-- The memory with one byte written; writing zero removes the entry, so that equal memories are equal lists. -/
def putByte (m : List Host.Cell) (a : Nat) (b : BitVec 8) : List Host.Cell :=
  if b = 0 then mdel m a else mput m a b

/-- The canonical form of a byte memory: addresses rise strictly and no entry is zero. -/
def Memory.wf (m : List Host.Cell) : Bool := keysRise m && m.all fun c => c.2 != 0

/-- `n` bytes from an address as a little-endian number. -/
def readNat (m : List Host.Cell) (a : Nat) : Nat → Nat
  | 0 => 0
  | n + 1 => (byteAt m a).toNat + 256 * readNat m (a + 1) n

/-- The same for a long run of a long memory. -/
def readRange (m : List Host.Cell) (a n : Nat) : Nat := readNat (mrange m a n) a n

/-- The memory with the low `n` bytes of a number written, little-endian. -/
def writeNat (m : List Host.Cell) (a : Nat) : Nat → Nat → List Host.Cell
  | 0, _ => m
  | n + 1, v => writeNat (putByte m a (BitVec.ofNat 8 v)) (a + 1) n (v / 256)

/-- The memory with those of the low `n` bytes written whose bit of the mask is set. -/
def writeMasked (m : List Host.Cell) (a : Nat) : Nat → Nat → Nat → List Host.Cell
  | 0, _, _ => m
  | n + 1, v, k =>
    writeMasked (if k % 2 = 1 then putByte m a (BitVec.ofNat 8 v) else m) (a + 1) n (v / 256) (k / 2)

/-- Every byte of [a, a + n) set to zero. -/
def zeroBytes (m : List Host.Cell) (a n : Nat) : List Host.Cell :=
  m.filter fun c => c.1 < a || a + n ≤ c.1

/-- The bytes of [a, a + n) of one memory in place of those of another. -/
def keepBytes (old : List Host.Cell) (n : Nat) : List Host.Cell := old.filter fun c => c.1 < n

/-- A run of bytes replaced by the low `n` bytes of a number. -/
def writeRange (m : List Host.Cell) (a n v : Nat) : List Host.Cell :=
  mmerge (m.length + n + 1) (writeNat [] a n v) (zeroBytes m a n)

/-! ## Byte masks -/

/-- A number whose byte i is 0xFF when bit i of the mask is set. -/
def spreadNat : Nat → Nat → Nat
  | 0, _ => 0
  | n + 1, k => (if k % 2 = 1 then 255 else 0) + 256 * spreadNat n (k / 2)

/-- The bits of a line that a byte mask covers. -/
def lineBits (mask : BitVec 128) : BitVec 1024 := BitVec.ofNat 1024 (spreadNat 128 mask.toNat)

/-- The bits of a vector register that a byte mask covers. -/
def vregBits (mask : BitVec 512) : BitVec 4096 := BitVec.ofNat 4096 (spreadNat 512 mask.toNat)

/-- A line with the bytes of a mask replaced. -/
def overlay (base new : BitVec 1024) (mask : BitVec 128) : BitVec 1024 :=
  let k := lineBits mask
  (base &&& ~~~k) ||| (new &&& k)

/-- A byte mask with `n` bits set from bit `lo`. -/
def maskRun (w lo n : Nat) : BitVec w := BitVec.ofNat w ((2 ^ n - 1) * 2 ^ lo)

/-- A physical line of memory (R461). -/
def lineOf (m : List Host.Cell) (line : Nat) : BitVec 1024 := BitVec.ofNat 1024 (readNat m (line * 128) 128)

/-- Memory with the bytes of a line written under a mask. -/
def putLine (m : List Host.Cell) (line : Nat) (data : BitVec 1024) (mask : BitVec 128) : List Host.Cell :=
  writeMasked m (line * 128) 128 data.toNat mask.toNat

/-! ## Lists -/

/-- The element of a list with one place replaced. -/
def setAt {α : Type} : List α → Nat → α → List α
  | [], _, _ => []
  | _ :: xs, 0, y => y :: xs
  | x :: xs, n + 1, y => x :: setAt xs n y

/-- The list without one place. -/
def dropAt {α : Type} : List α → Nat → List α
  | [], _ => []
  | _ :: xs, 0 => xs
  | x :: xs, n + 1 => x :: dropAt xs n

/-- A sorted list of numbers with one inserted. -/
def insertNat : List Nat → Nat → List Nat
  | [], n => [n]
  | x :: xs, n => if n = x then x :: xs else if n < x then n :: x :: xs else x :: insertNat xs n

/-- A list stably sorted by a number. -/
def insertBy {α : Type} (key : α → Nat) (y : α) : List α → List α
  | [] => [y]
  | x :: xs => if key y ≤ key x then y :: x :: xs else x :: insertBy key y xs

def sortBy {α : Type} (key : α → Nat) : List α → List α
  | [] => []
  | x :: xs => insertBy key x (sortBy key xs)

/-- A saturating 32-bit increment. -/
def inc32 (x : BitVec 32) : BitVec 32 := if x = BitVec.allOnes 32 then x else x + 1

/-- A Bool as one bit. -/
def bit (b : Bool) : BitVec 1 := if b then 1 else 0

end Sys2Proof.Machine
end

