-- ==== Sys2Proof/Machine/Basic.lean ====
section
/-! DEFINITION.
Access to the parts of the state: cores, contexts, units, addresses, messages, packets and reports. -/

namespace Sys2Proof.Machine

open Sys2Proof

/-- The outcome of a step or of an instruction. -/
abbrev Res := Host.Outcome State Fault Refusal

/-! ## Addresses (R526) -/

def aDev (a : Word) : BitVec 10 := fld a 54 10
def aWin (a : Word) : Bool := fld a 53 1 = 1
def aEp (a : Word) : Nat := (fld a 42 11).toNat
def aOff (a : Word) : Nat := (fld a 0 42).toNat
def aVa (a : Word) : Nat := (fld a 0 53).toNat
/-- The 64 KiB page number, VA[52:16] (R347). -/
def aVpn (a : Word) : Nat := (fld a 16 37).toNat
/-- Bits [63:7] of an address: the line that the hashes take (R469). -/
def aLine (a : Word) : Nat := a.toNat / 128

/-- The window address of an endpoint of a device plus an offset (R526). -/
def winAddr (dev : BitVec 10) (ep off : Nat) : Word :=
  BitVec.ofNat 64 (dev.toNat * 2 ^ 54 + 2 ^ 53 + ep * 2 ^ 42 + off)

/-- A word of a Nat. -/
def w64 (n : Nat) : Word := BitVec.ofNat 64 n

/-- A word of an Int. -/
def wInt (n : Int) : Word := BitVec.ofInt 64 n

/-- 1 or 0. -/
def wBool (b : Bool) : Word := if b then 1 else 0

/-! ## Cores and contexts -/

def State.core (s : State) (ep : Nat) : Core := mgetD s.cores ep {}
def State.setCore (s : State) (ep : Nat) (c : Core) : State := { s with cores := mput s.cores ep c }
def Core.ctx (c : Core) (n : Fin 11) : Ctx := c.ctxs[n]
def Core.setCtx (c : Core) (n : Fin 11) (x : Ctx) : Core := { c with ctxs := c.ctxs.set n x }
def State.ctxAt (s : State) (ep : Nat) (n : Fin 11) : Ctx := (s.core ep).ctx n
def State.setCtxAt (s : State) (ep : Nat) (n : Fin 11) (x : Ctx) : State := s.setCore ep ((s.core ep).setCtx n x)
def State.modCore (s : State) (ep : Nat) (f : Core → Core) : State := s.setCore ep (f (s.core ep))
def State.modCtx (s : State) (ep : Nat) (n : Fin 11) (f : Ctx → Ctx) : State := s.setCtxAt ep n (f (s.ctxAt ep n))

/-- The core and the context whose instruction is being performed. -/
def State.me (s : State) : Core := s.core s.cur.1
def State.ctx (s : State) : Ctx := s.me.ctx s.cur.2
def State.setMe (s : State) (c : Core) : State := s.setCore s.cur.1 c
def State.setCtx (s : State) (x : Ctx) : State := s.setCtxAt s.cur.1 s.cur.2 x

def State.mc (s : State) (e : Nat) : MemCore := mgetD s.mcs e {}
def State.setMc (s : State) (e : Nat) (m : MemCore) : State := { s with mcs := mput s.mcs e m }
def State.cluster (s : State) (c : Nat) : Cluster := mgetD s.clusters c {}
def State.setCluster (s : State) (c : Nat) (x : Cluster) : State := { s with clusters := mput s.clusters c x }
def State.dist (s : State) (d : Nat) : Dist := mgetD s.dists d {}
def State.setDist (s : State) (d : Nat) (x : Dist) : State := { s with dists := mput s.dists d x }
def State.line (s : State) (l : Nat) : LineState := mgetD s.lines l {}
def State.setLine (s : State) (l : Nat) (x : LineState) : State :=
  { s with lines := if x = {} then mdel s.lines l else mput s.lines l x }
def State.stat (s : State) (n : Nat) : PressStat := mgetD s.stats n {}
def State.setStat (s : State) (n : Nat) (x : PressStat) : State := { s with stats := mput s.stats n x }

/-- Endpoint kinds (R527). -/
def isCompute (ep : Nat) : Bool := decide (ep < 576)
def isMemCore (ep : Nat) : Bool := decide (576 ≤ ep ∧ ep < 960)
def isService (ep : Nat) : Bool := decide (960 ≤ ep ∧ ep < 1032)

/-- The cluster of a core (R329), or of a service core. -/
def clusterOf (ep : Nat) : Nat :=
  if isService ep then ep - 960 else ep / 144 * 18 + ep % 144 / 12 / 2 * 3 + ep % 12 / 4
/-- CROW and CCOL (R329), and the bit 4·CROW + CCOL. -/
def crow (ep : Nat) : Nat := ep % 144 / 12 % 2
def ccol (ep : Nat) : Nat := ep % 12 % 4
def cpos (ep : Nat) : Nat := 4 * crow ep + ccol ep
/-- The eight compute cores of a cluster, by position. -/
def coreAt (cl row col : Nat) : Nat := cl / 18 * 144 + (cl % 18 / 3 * 2 + row) * 12 + cl % 3 * 4 + col
def coresOf (cl : Nat) : List Nat := (List.range 8).map fun p => coreAt cl (p / 4) (p % 4)
/-- The stack of a core (R527). -/
def stackOf (ep : Nat) : Nat := ep / 144

/-- SBANKS: S = 64 − L − M − V − Q (R154). -/
def Core.vbanks (c : Core) : Nat := (1 + c.hmax + 3) / 4
def Core.sbanks (c : Core) : Nat := 64 - c.l1b - (if c.mx then 8 else 0) - c.vbanks - c.aqb
/-- Scratchpad bytes of the carve in force. -/
def Core.padSize (c : Core) : Nat := c.sbanks * 65536
/-- Scratchpad bank i is synchronised (R155). -/
def Core.isSync (c : Core) (off : Nat) : Bool := c.sync.getLsbD (off / 65536)
/-- The word of a synchronised bank is full (R273). -/
def Core.isFull (c : Core) (off : Nat) : Bool := c.full.contains (off / 4)
/-- The owner number that the core's requests carry (R353); a service core has none. -/
def Core.owner (c : Core) : BitVec 16 := match c.team with | some t => t.owner | none => 0
/-- The cores of the team of a core: its gang, or itself (R331). -/
def Core.teamCores (c : Core) (ep : Nat) : List Nat := if c.gang.g then c.gang.set else [ep]

/-- This device's number (R536). -/
def State.dev (s : State) : BitVec 10 := s.fab.dev
/-- Device nanoseconds (R20). -/
def State.time (s : State) : Nat := s.cycle * 10 / 27
/-- The token epoch (R530). -/
def State.epoch (s : State) : Nat := s.time / 1048576 % 1048576
/-- The window base of a core (R158). -/
def State.win (s : State) (ep : Nat) : Word := winAddr s.dev ep 0
/-- A local scratchpad offset in global form (R271). -/
def State.padAddr (s : State) (off : Nat) : Word := winAddr s.dev s.cur.1 off

/-- A unit of the package is present and enabled (R510, R524). -/
def State.coreOn (s : State) (ep : Nat) : Bool := !(s.core ep).disabled
def State.mcOn (s : State) (e : Nat) : Bool := !(s.mc e).disabled

/-- The number of enabled pseudo-channels, and the slices that are enabled (R509). -/
def State.slices (s : State) : List Nat := (List.range Config.nSlices).filter fun n => !s.pkg.badPch.contains n

/-- A unit of the disable log is out of service: an endpoint, or 2,048 plus a slice for a pseudo-channel (R524). -/
def State.unitOff (s : State) (u : Nat) : Bool :=
  if isCompute u then !s.coreOn u else if isMemCore u then !s.mcOn u else s.pkg.badPch.contains (u - 2048)

/-! ## Lists of contexts -/

/-- The eleven context numbers. -/
def allCtx : List (Fin 11) := [0, 1, 2, 3, 4, 5, 6, 7, 8, 9, 10]

/-- A context that is not retired. -/
def Ctx.alive (x : Ctx) : Bool := decide (x.life ≠ .retired)
/-- The contexts of a core that are not retired. -/
def Core.alive (c : Core) : List (Fin 11) := allCtx.filter fun n => (c.ctx n).alive

/-! ## Messages, reports and packets -/

/-- A message on its way (R384). -/
def State.post (s : State) (m : Msg) : State := { s with net := s.net ++ [m] }
/-- The message at a place is taken. -/
def State.take (s : State) (k : Nat) : State := { s with net := dropAt s.net k }

/-- A report to the host, waiting for the device ring: kind, then payload words (R517, R519). -/
def State.tell (s : State) (kind : Nat) (words : List Word) : State :=
  { s with reports := s.reports ++ [w64 kind :: words] }

/-- The old core of a migrated team has not acknowledged its flush: the new core holds the team's acquires (R452). -/
def State.flushPending (s : State) (ep : Nat) : Bool :=
  s.net.any fun m => match m with | .flushed _ to_ _ => to_ == ep | _ => false

/-- The next free value (log 3). -/
def State.fresh (s : State) : State := { s with free := s.free + 1 }

/-- The class of a packet kind for sequence numbers (R533): 0 request, 1 response, 2 control. -/
inductive PClass where
  | request | response | control
  deriving DecidableEq, Repr

def PClass.num : PClass → Nat
  | .request => 0 | .response => 1 | .control => 2

/-- A wake event for the detector of a die (R406): joins applied, channel appends, barrier releases. -/
def State.wake (s : State) (die : Nat) : State :=
  { s with det := { s.det with wakes := s.det.wakes.set (die % 4) (s.det.wakes[die % 4] + 1) } }

/-- The domain of a level and number. -/
def State.domain (s : State) (lvl : BitVec 3) (dom : BitVec 16) : Option Domain :=
  s.domains.find? fun d => d.lvl = lvl && d.dom = dom
def State.setDomain (s : State) (d : Domain) : State :=
  { s with domains := s.domains.map fun e => if e.lvl = d.lvl ∧ e.dom = d.dom then d else e }
def State.modDomain (s : State) (lvl : BitVec 3) (dom : BitVec 16) (f : Domain → Domain) : State :=
  { s with domains := s.domains.map fun e => if e.lvl = lvl ∧ e.dom = dom then f e else e }

/-- Counts a packet sent or received for a level-4 domain (R552). FDOM 0 counts for domain 0, where there is one (log 134). -/
def State.countSent (s : State) (fdom : BitVec 16) : State :=
  s.modDomain 4 fdom fun d => { d with sent := d.sent + 1 }
def State.countRecvd (s : State) (fdom : BitVec 16) : State :=
  s.modDomain 4 fdom fun d => { d with recvd := d.recvd + 1 }

/-- An empty packet from this device. -/
def blankPacket : Packet where
  src := 0
  dst := 0
  what := 0
  seq := 0
  fdom := 0
  token := 0
  ep := 0
  ctx := 0
  tag := 0
  addr := 0
  len := 0
  typ := 0
  width := 0
  vint := 0
  kind := 0
  data := 0
  mask := 0
  sig := 0
  sat := false
  code := 0
  value := 0
  aux := 0
  parties := []
  recs := []
  words := []

/-- The class of a packet by its code (R533). -/
def classOf (what : Nat) : PClass := if what < 0x10 then .request else if what < 0x20 then .response else .control

/-- A packet counts for its domain, by its code (R533): requests and responses but notices. -/
def counted (what : Nat) : Bool := decide (what < 0x20 ∧ what ≠ 0x14)

/-- Sends a packet to a device: numbered in its stream, counted, and kept until acknowledged (R532, R533). -/
def State.send (s : State) (p : Packet) : State :=
  let key := p.dst.toNat * 4 + (classOf p.what).num
  let n := mgetD s.fab.tx key 0
  let q := { p with src := s.dev, seq := n }
  let s := if counted p.what then s.countSent p.fdom else s
  { s with fab := { s.fab with tx := mput s.fab.tx key (n + 1), out := s.fab.out ++ [q] } }

/-- The open merge entries of a line of a device are sent (R548). -/
def State.mergeFlush (s : State) (dev : BitVec 10) (line : Nat) : State :=
  let hit (e : Nat × Packet) : Bool := e.2.dst == dev && aLine e.2.addr == line
  let go := s.fab.merge.filter hit
  let s := { s with fab := { s.fab with merge := s.fab.merge.filter fun e => !hit e } }
  go.foldl (fun (s : State) e => s.send e.2) s

/-- Two parties are one context. -/
def sameCtx (p q : Party) : Bool := p.dev == q.dev && p.ep == q.ep && p.ctx == q.ctx
/-- The contexts among some parties. -/
def partyCtxs (ps : List Party) : List Party := (ps.map fun p => { p with tag := 0 }).eraseDups

/-- Registrations are removed; a line none of whose registrations is left in the waiter table loses WOVF (R461, R465). -/
def State.dropRegs (s : State) (gone : Registration → Bool) : State :=
  let lines := ((s.regs.filter fun r => gone r && r.table).map (·.line)).eraseDups
  let s : State := { s with regs := s.regs.filter fun r => !gone r }
  lines.foldl (fun (s : State) l => s.setLine l { s.line l with wovf := s.regs.any fun r => r.line == l && r.table }) s

/-- The fabric domain that a context's requests count for: its kdom3 when that is at level 4 (R533). -/
def Ctx.fdom (x : Ctx) : BitVec 16 :=
  let d := x.csr.dom[3]
  if d.v ∧ d.lvl = 4 then d.dom else 0

/-- The token of a remote request: the lowest valid entry for the device and grant set (R539). -/
def State.tokenFor (s : State) (dev : BitVec 10) (gset : BitVec 4) : Option Word :=
  (s.fab.tokens.find? fun e =>
    fld e.2.2 63 1 = 1 && fld e.2.2 16 10 == dev && fld e.2.2 0 4 == gset).map fun e => e.2.1

/-! ## Hashes and signatures (R469) -/

def hash1 (l : Nat) : Nat :=
  let b := BitVec.ofNat 57 l
  (fld b 0 10 ^^^ fld b 10 10 ^^^ fld b 20 10 ^^^ fld b 30 10 ^^^ fld b 40 10 ^^^ (fld b 50 7).zeroExtend 10).toNat

def hash2 (l : Nat) : Nat := l % 2 ^ 32 * 0x9E3779B9 % 2 ^ 32 / 2 ^ 22

/-- The signature with the bits of a line set. -/
def sigAdd (sig : BitVec 1024) (l : Nat) : BitVec 1024 :=
  sig ||| BitVec.ofNat 1024 (2 ^ hash1 l ||| 2 ^ hash2 l)

/-- Both bits of a line are set in a signature. -/
def sigHas (sig : BitVec 1024) (l : Nat) : Bool := sig.getLsbD (hash1 l) && sig.getLsbD (hash2 l)

/-- The signature with the lines of [a, a + n) set. -/
def sigAddLines (sig : BitVec 1024) (l : Nat) : Nat → BitVec 1024
  | 0 => sig
  | n + 1 => sigAddLines (sigAdd sig l) (l + 1) n

end Sys2Proof.Machine
end

