-- ==== Sys2Proof/Machine/Ops.lean ====
section
/-! DEFINITION.
The named operations that every instruction uses: registers, the end of an instruction, stalls and parks,
the retirement of a context, the freeze of a master, and taking an exception and returning from one. -/

namespace Sys2Proof.Machine

open Sys2Proof

/-! ## Registers (R12) -/

/-- x0 reads as zero (R12). -/
def Ctx.rx (c : Ctx) (r : Reg) : Word := if r = 0 then 0 else c.x[r.toNat]'(by have := r.isLt; omega)
/-- x0 ignores writes (R12). A register that is written stops holding an MCALL token (R493). -/
def Ctx.wx (c : Ctx) (r : Reg) (v : Word) : Ctx :=
  if r = 0 then c else { c with x := c.x.set r.toNat v (by have := r.isLt; omega), tokens := mdel c.tokens r.toNat }
def Ctx.rf (c : Ctx) (r : Reg) : BitVec 32 := c.f[r.toNat]'(by have := r.isLt; omega)
def Ctx.wf (c : Ctx) (r : Reg) (v : BitVec 32) : Ctx := { c with f := c.f.set r.toNat v (by have := r.isLt; omega) }
/-- A vector register's own contents; a bound stream register is read through its binding (R235). -/
def Ctx.rv (c : Ctx) (r : Reg) : BitVec 4096 := c.v[r.toNat]'(by have := r.isLt; omega)
def Ctx.wv (c : Ctx) (r : Reg) (v : BitVec 4096) : Ctx := { c with v := c.v.set r.toNat v (by have := r.isLt; omega) }
def Ctx.rm (c : Ctx) (k : BitVec 3) : BitVec 512 := c.m[k.toNat]'(by have := k.isLt; omega)
def Ctx.wm (c : Ctx) (k : BitVec 3) (v : BitVec 512) : Ctx :=
  { c with m := c.m.set k.toNat v (by have := k.isLt; omega) }

/-- X[r] and F[r] of the issuing context. -/
def State.x (s : State) (r : Reg) : Word := s.ctx.rx r
def State.f (s : State) (r : Reg) : BitVec 32 := s.ctx.rf r
/-- X[r] := v and F[r] := v in the issuing context. -/
def State.setX (s : State) (r : Reg) (v : Word) : State := s.setCtx (s.ctx.wx r v)
def State.setF (s : State) (r : Reg) (v : BitVec 32) : State := s.setCtx (s.ctx.wf r v)
def State.setV (s : State) (r : Reg) (v : BitVec 4096) : State := s.setCtx (s.ctx.wv r v)
def State.setM (s : State) (k : BitVec 3) (v : BitVec 512) : State := s.setCtx (s.ctx.wm k v)
def State.pc (s : State) : Word := s.ctx.pc

/-! ## The end of an instruction -/

/-- The first read of a register that holds an MCALL token ORs the call's signature into the context's (R493). -/
def Ctx.readToks (c : Ctx) (rs : List Nat) : Ctx :=
  { c with
    sig := (c.tokens.filter fun t => rs.contains t.1).foldl (fun (g : BitVec 1024) t => g ||| t.2) c.sig
    tokens := c.tokens.filter fun t => !rs.contains t.1
    toks := [] }

/-- A context goes on behind the instruction at which it was held; the tokens that the instruction read are taken. -/
def Ctx.passHeld (c : Ctx) : Ctx :=
  { c.readToks c.toks with hold := .free, pc := c.pc + 4, cursor := 0, took := none }

/-- The instruction completes and the context goes on at a target. -/
def State.goto (s : State) (t : Word) : State :=
  let s := s.setCtx { s.ctx with pc := t, cursor := 0 }
  { s with out := .done }

/-- The instruction completes: pc := pc + 4. -/
def State.advance (s : State) : State := s.goto (s.pc + 4)

/-- The instruction has completed. -/
def retire (s : State) : Res := .next s.advance

/-- The instruction stalls at issue: nothing changes, and the context issues it again (R22). -/
def stall (s : State) : Res := .next { s with out := .stalled }

/-- The context waits inside the instruction: parked, at a barrier, or held; pc stays. -/
def State.park (s : State) (l : Life) : State :=
  let s := s.setCtx { s.ctx with life := l }
  { s with out := .done }
def State.holdOn (s : State) (h : Hold) : State :=
  let s := s.setCtx { s.ctx with hold := h }
  { s with out := .done }

/-- The context goes on after an instruction that held it, with a value for its register. -/
def Ctx.endHold (x : Ctx) (rd : Reg) (v : Word) : Ctx := { x.wx rd v with hold := .free, pc := x.pc + 4, cursor := 0 }

/-- The same; a context of a frozen core keeps its state, and goes on when the host unfreezes (R24). -/
def State.endHold (s : State) (ep : Nat) (n : Fin 11) (rd : Reg) (v : Word) : State :=
  s.modCtx ep n fun x => if (s.core ep).frozen then { x with hold := .told rd v } else x.endHold rd v

/-! ## Freezing a master (R543) -/

/-- The token of an ended call (R493). -/
def callToken (value : BitVec 32) (pc : Nat) (seq : BitVec 8) (status : BitVec 4) : Word :=
  value ++ 0#4 ++ BitVec.ofNat 12 pc ++ seq ++ 0#4 ++ status

/-- A memory core ends its running call and its queued call with a status (R496, R543). -/
def MemCore.endAll (m : MemCore) (status : BitVec 4) : MemCore :=
  let run := match m.call with | some c => [(c, callToken 0 m.pc c.seq status)] | none => []
  let que := (match m.queued with | some c => [c] | none => []).map fun c => (c, callToken 0 0 c.seq status)
  { m with call := none, queued := none, ended := m.ended ++ run ++ que, jump := none, miss := none, await := none }

/-- The freeze record of a violation (R517, R544). -/
def State.tellFreeze (s : State) (ep : Nat) (ctx : Nat) (addr : Word) (reason : Nat) (denied : List Word) : State :=
  s.tell 3 ([w64 (s.dev.toNat * 2 ^ 54 + ep * 2 ^ 42 + ctx), addr, w64 reason, w64 denied.length] ++ denied)

/-- A master of this device is stopped, and the record posted (R543). -/
def State.freeze (s : State) (ep : Nat) (ctx : Nat) (addr : Word) (reason : Nat) (denied : List Word) : State :=
  let s := s.tellFreeze ep ctx addr reason denied
  if isMemCore ep then
    let m := s.mc ep
    s.setMc ep { m.endAll 6 with st := .held }
  else s.modCore ep fun c => { c with frozen := true }

/-! ## Withdrawing what a context waits for -/

/-- This device's party of an endpoint and context. -/
def State.party (s : State) (ep : Nat) (n : Fin 11) : Party := ⟨s.dev, ep, n.val, 0⟩

/-- A WD packet for a wait at another device (R550), behind the joins of its line (R548). It carries a token as every request does;
without one it is a violation of reason 1 (R539). -/
def State.sendWd (s : State) (ep : Nat) (n : Fin 11) (a : Acc) : State :=
  let dev := aDev a.va
  let tok := if s.fab.aen ∧ (mget s.fab.ports dev.toNat).isSome then s.tokenFor dev (s.ctxAt ep n).csr.gset else none
  match tok with
  | some t =>
    let s := s.mergeFlush dev (aLine a.va)
    ({ s with fab := { s.fab with wds := s.fab.wds ++ [(ep, n.val, a.age)] } } : State).send { blankPacket with
      what := 0x08, dst := dev, fdom := (s.ctxAt ep n).fdom, ep := ep, ctx := n, tag := a.age, addr := a.va, token := t }
  | none => s.freeze ep n a.va 1 []

/-- An access of the copy engine, or of the copy path of a matrix command. -/
def AccOp.isCopy : AccOp → Bool
  | .copy _ => true
  | _ => false

/-- The access waits in the ticket table for its replay: a trap does not cancel it (R152, R370). -/
def Stage.kept : Stage → Bool
  | .missed _ => true
  | .ticket .. => true
  | .frozen .. => true
  | _ => false

/-- The wait of a context is withdrawn: its registrations, its queued wait, its wait access unless that is ticketed (R152); a
remote wait is withdrawn with a WD packet (R133, R412, R550). -/
def State.dropWait (s : State) (ep : Nat) (n : Fin 11) : State :=
  let who := s.party ep n
  let isWait (a : Acc) : Bool := a.ctx == n && !a.stage.kept && (match a.op with | .wait .. => true | _ => false)
  let remote := (s.core ep).accs.filter fun a => isWait a && a.stage = .remote
  let s := remote.foldl (fun (s : State) a => s.sendWd ep n a) s
  let s := s.modCore ep fun c => { c with accs := c.accs.filter fun a => !isWait a }
  let s := s.dropRegs fun r => r.who == who
  { s with
    pressQ := s.pressQ.filter fun p => !(p.who = who && (match p.kind with | .wait .. => true | _ => false))
    net := s.net.filter fun m => match m with
      | .waitAns e c _ _ _ => !(e = ep && c = n)
      | .acqAns e c _ _ _ => !(e = ep && c = n)
      | .retry _ p => p.who ≠ who
      | _ => true }

/-- The portions that a context is held for: their instruction is not complete (R74, R226). -/
def Ctx.heldGroup (x : Ctx) : Option Nat :=
  match x.hold with
  | .exact g => some g
  | .gen g => some g
  | _ => none

/-- The instruction at which a context waits is abandoned (R151): waits are dropped, announcements withdrawn;
corks, racks and tickets stay, and so do the portions of instructions that the context has passed, a replayed exact read at its press
among them (R152); barrier arrivals are withdrawn because the context no longer waits. -/
def State.abandon (s : State) (ep : Nat) (n : Fin 11) : State :=
  let s := s.dropWait ep n
  let s := { s with
    sc := s.sc.filter fun o => !(o.ep = ep && o.ctx = n)
    dists := s.dists.map fun (d : Nat × Dist) => (d.1, { d.2 with entries := d.2.entries.filter fun e => e.who ≠ some (ep, n) }) }
  let s := match (s.ctxAt ep n).heldGroup with
    | some g => s.modCore ep fun c => { c with accs := c.accs.filter fun a => !(a.grp == g) }
    | none => s
  s.modCtx ep n fun c => { c with
    life := if c.alive then .live else .retired, hold := .free, cursor := 0, took := none, toks := [], granted := false }

/-! ## Residency handles, leases and range tasks of a retiring context -/

/-- An entry covers a page. -/
def Tlb.covers (t : Tlb) (vpn : Nat) : Bool := if t.lg then t.vpn / 512 == vpn / 512 else t.vpn == vpn

/-- Handle-released messages that wait enter the queue, which holds 8 of them (R363). -/
def Cluster.admitReleased (c : Cluster) : Cluster :=
  let held := (c.msgs.filter fun m => match m with | .released _ => true | _ => false).length
  { c with msgs := c.msgs ++ (c.relWait.take (8 - held)).map FbMsg.released, relWait := c.relWait.drop (8 - held) }

/-- A cluster waits for a handle to release a page: a TLBINV of it has been deferred there, its L2 TLB holds the retiring entry, or a
slot a miss on it (R366, R374). -/
def Cluster.awaits (c : Cluster) (vpn : Nat) : Bool :=
  c.deferred.contains vpn || (c.l2.any fun t => t.covers vpn && t.ret) || c.slots.toList.any fun k => k.st != 0 && k.kind == 3 && k.vpn == vpn

/-- A handle-released message for each page of a pinning handle whose translations are retiring (R374, R475): it goes
to each cluster that waits for it (DESIGN CHOICE, log 149: R374 does not say which cluster's queue takes it). -/
def State.released (s : State) (h : Handle) : State :=
  if h.prio = 0 then s else
  h.pages.foldl (fun s (vpn, _) =>
    (List.range Config.nClusters).foldl (fun s cl =>
      let c := s.cluster cl
      if c.awaits vpn ∧ ¬ c.msgs.contains (.released vpn) ∧ ¬ c.relWait.contains vpn
      then s.setCluster cl ({ c with relWait := c.relWait ++ [vpn], deferred := c.deferred.filter fun v => v ≠ vpn } : Cluster).admitReleased
      else s) s) s

/-- The lessee of memory core `e` retires: its call stops, its tokens are discarded, no cause 35 (R491). -/
def State.dropLease (s : State) (e : Nat) : State :=
  let m := s.mc e
  if m.st = .leased ∨ m.st = .running ∨ m.st = .releasing then
    let old (c : Call) : Bool := m.lessee.all fun l => l.1 != c.ep || l.2.1 != c.ctx
    s.setMc e { m with
      st := .releasing, call := none, queued := none, jump := none, miss := none, await := none
      sent := m.sent.filter old, ended := m.ended.filter fun c => old c.1 }
  else s

/-- The holder entry of a context goes back to its pool (R442). -/
def Pool.giveBack (p : Pool) (ep ctx : Nat) : Pool :=
  let mine := p.holders.filter fun h => h.1 = ep && h.2.1 = ctx
  { p with
    holders := p.holders.filter fun h => !(h.1 = ep && h.2.1 = ctx)
    returned := p.returned ++ (mine.filter (fun h => h.2.2.1 < h.2.2.2)).map fun h => (h.2.2.1, h.2.2.2) }

/-- The holder entry of a context of a launch is removed, its interval returned (R442). -/
def State.giveBack (s : State) (launch ep : Nat) (n : Fin 11) : State :=
  { s with launches := s.launches.map fun l =>
      if l.id = launch then { l with pool := l.pool.map fun p => p.giveBack ep n } else l }

/-- An index goes back to the returned intervals of its pool (R440, R442). -/
def State.returnIndex (s : State) (launch i : Nat) : State :=
  if i = 0xFFFFFFFF then s
  else { s with launches := s.launches.map fun l =>
      if l.id = launch then { l with pool := l.pool.map fun p => { p with returned := p.returned ++ [(i, i + 1)] } } else l }

/-- TASKEND of a context that retires: its requests and held answers are discarded, and the answered indices return (R442). -/
def State.taskEnd (s : State) (ep : Nat) (n : Fin 11) : State :=
  let mine (r : TaskqReq) : Bool := r.ep == ep && r.ctx == n
  let held := (s.images.flatMap (·.answers)).filter fun a => mine a.1
  let s := held.foldl (fun (s : State) a => s.returnIndex a.1.launch a.2.1) { s with
    dists := s.dists.map fun (d : Nat × Dist) => (d.1, { d.2 with taskqs := d.2.taskqs.filter fun r => !mine r })
    images := s.images.map fun i => { i with answers := i.answers.filter fun a => !mine a.1 } }
  match (s.core ep).team with
  | none => s
  | some t => s.giveBack t.launch ep n

/-- A cask command, and a matrix command, of a context that has not retired since. -/
def Cask.by_ (k : Cask) (ep : Nat) (n : Fin 11) : Bool := k.ep == ep && k.ctx == n && !k.orphan
def MCmd.by_ (q : MCmd) (ep : Nat) (n : Fin 11) : Bool := q.ep == ep && q.ctx == n && !q.orphan
def Copy.by_ (q : Copy) (n : Fin 11) : Bool := q.ctx == n && !q.orphan

/-- A core whose commands of a context are performed without it. -/
def Core.orphanOf (c : Core) (ep : Nat) (n : Fin 11) : Core :=
  let mark (q : MCmd) : MCmd := if q.by_ ep n then { q with orphan := true } else q
  let part (d : MDone) (q : Copy) : Copy := if d.cmd.by_ ep n then { q with orphan := true } else q
  { c with
    mq := c.mq.map mark
    mrun := c.mrun.map fun d => { d with cmd := mark d.cmd, copying := d.copying.map (part d) }
    casks := c.casks.map fun k => if k.by_ ep n then { k with orphan := true } else k }

/-- Bytes of the next portion of a copy: cut at the lines of the destination and of the source (R293). -/
def Copy.portion (q : Copy) : Nat :=
  let d := (q.dst.toNat + q.at_) % 128
  let o := (q.src.toNat + q.at_) % 128
  if q.kind = 4 then 128
  else if q.kind = 5 then min (q.len - q.at_) (128 - o)
  else min (q.len - q.at_) (min (128 - d) (128 - o))

/-- The next line that MCVTST staged, from byte `at_`. -/
def Copy.stagedFrom (q : Copy) : Option (Nat × BitVec 1024) := q.staged.find? fun l => q.at_ ≤ 128 * l.1

/-- The copy has performed every portion, or has failed. -/
def Copy.over (q : Copy) : Bool :=
  q.failed || (if q.kind = 4 then q.stagedFrom.isNone else decide (q.len ≤ q.at_))

/-- The copy after one more portion. -/
def Copy.next (q : Copy) : Copy :=
  match q.kind, q.stagedFrom with
  | 4, some l => { q with at_ := 128 * l.1 + 128 }
  | _, _ => { q with at_ := q.at_ + q.portion }

/-- The copy whose portion an entry held that a retirement discards: the portion is never performed (R373). -/
def Copy.skip (q : Copy) (gone : List Acc) : Copy := if gone.any fun a => a.grp = q.age then q.next else q

/-- The engine, cask and copy commands of a context that ends before them continue, on its core or another one, without a
completion or a token of theirs (R152, R434; log 20). -/
def State.orphanWork (s : State) (ep : Nat) (n : Fin 11) : State :=
  let s := { s with
    cores := s.cores.map fun (c : Nat × Core) => (c.1, c.2.orphanOf ep n)
    net := s.net.map fun (m : Msg) => match m with
      | .msend e q k => .msend e (if MCmd.by_ q ep n then { q with orphan := true } else q) k
      | .cask e k => .cask e (if Cask.by_ k ep n then { k with orphan := true } else k)
      | .caskDone k f b => .caskDone (if Cask.by_ k ep n then { k with orphan := true } else k) f b
      | m => m }
  s.modCore ep fun c => { c with cq := c.cq.map fun (q : Copy) => if q.by_ n then { q with orphan := true } else q }

/-- A context retires (R21, R23): everything it waits for and holds is given up; its registers hold no value and
read as zero (R31). Its report area stays. -/
def State.retireCtx (s : State) (ep : Nat) (n : Fin 11) (exitVal : Word) : State :=
  let s := s.abandon ep n
  let x := s.ctxAt ep n
  let s := x.handles.foldl (fun s h => s.released h.2) s
  -- every memory core that the context leases, one that it has released among them (R491)
  let mine := (s.mcs.filter fun m => m.2.lessee.any fun l => l.1 == ep && l.2.1 == n).map (·.1)
  let s := mine.foldl (fun s e => s.dropLease e) s
  let s := s.taskEnd ep n
  let s := s.orphanWork ep n
  let c := s.core ep
  let s : State := { s with pressQ := s.pressQ.filter fun p =>
    !(p.who = s.party ep n && (match p.kind with | .read .. => true | _ => false)) }
  -- an HWAIT on this helper issues again (R28), at the latest when the core is unfrozen (R24)
  let c := if n ≠ 0 ∧ (c.ctx 0).life = .parked (.hwait n) ∧ !c.frozen then c.setCtx 0 { c.ctx 0 with life := .live } else c
  let gone := c.accs.filter fun a => a.ctx = n ∧ a.op.isCopy ∧ a.stage.kept
  let c : Core := { c with
    cq := c.cq.map fun (q : Copy) => q.skip gone
    mrun := c.mrun.map fun d => { d with copying := d.copying.map fun (q : Copy) => q.skip gone } }
  s.setCore ep { c.setCtx n { life := .retired, exitVal := exitVal, rep := x.rep, last := x.last } with
    accs := (c.accs.map fun (a : Acc) => if a.ctx = n ∧ a.stage = .remote ∧ a.op.writes then { a with stage := .orphan } else a).filter
      fun a => a.ctx ≠ n ∨ a.stage = .orphan ∨ (a.op.isCopy ∧ !a.stage.kept) }

/-- Every context of the team of a core retires and the team is to complete with a status (R143, R412, R434). -/
def State.endTeam (s : State) (ep : Nat) (status : Nat) (value cause epc tval : Word) : State :=
  ((s.core ep).teamCores ep).foldl (fun s e =>
    let s := (s.core e).alive.foldl (fun s n => s.retireCtx e n 0) s
    s.modCore e fun c => { c with team := c.team.map fun t =>
      { t with ended := some (status, value, cause, epc, tval) } }) s

/-! ## Reports at the context (R146 to R149) -/

/-- A record of R148 without its SEQ word. -/
def mkRecord (cause ctx reason : Nat) (addr : Word) (dev : BitVec 10) (okind ounit : Nat) (val aux : Word)
    (nodet : Bool) : List Word :=
  [w64 (cause + reason * 256 + ctx * 65536 + (if nodet then 1048576 else 0)), addr,
   w64 (dev.toNat * 2 ^ 32 + okind * 65536 + ounit), val, aux]

/-- The cause field of a record's word 0. -/
def recordCause (words : List Word) : BitVec 6 := fld (words.headD 0) 0 6

/-- A record is posted, or lost when the area is full (R147). -/
def Reports.post (r : Reports) (words : List Word) : Reports :=
  if r.head - r.tail < 16 then
    { r with head := r.head + 1
             slots := mput r.slots (r.head.toNat % 16) (words ++ [r.head.zeroExtend 64]) }
  else
    { r with lost := inc32 r.lost
             lcause := r.lcause ||| BitVec.ofNat 7 (2 ^ ((recordCause words).toNat - 32)) }

/-- A record reaches its context, or context 0 of its team, or the team's completion record (R149). -/
def State.deliver (s : State) (ep : Nat) (n : Fin 11) (words : List Word) : State :=
  if (s.ctxAt ep n).alive then s.modCtx ep n fun c => { c with rep := c.rep.post words }
  else if (s.ctxAt ep 0).alive then s.modCtx ep 0 fun c => { c with rep := c.rep.post words }
  else s.modCore ep fun c => { c with team := c.team.map fun t => { t with nrep := t.nrep + 1 } }

/-! ## Taking an exception (R142) -/

/-- kcause of a trap (R18). -/
def causeWord (async : Bool) (code : BitVec 6) : Word := bit async ++ 0#57 ++ code

/-- Trap entry in one context whose ktvec.BASE is not 0 (R142). An immediate trap writes RESUME := epc and
DEFER := 0; a deferred trap has set them (R139); a reported fault leaves them (R150). -/
def Ctx.enterTrap (c : Ctx) (code : BitVec 6) (async immediate : Bool) (epc tval : Word) : Ctx :=
  { c with
    life := .live
    hold := .free
    cursor := 0
    took := none
    toks := []
    granted := false
    pad := none
    pc := c.csr.tvec ++ 0#2
    csr := { c.csr with
      async := async, code := code, epc := fld epc 2 62, tval := tval
      pprv := c.csr.prv, prv := true, tip := true }
    rep := if immediate then { c.rep with resume := epc, dv := false, dkind := 0, dreg := 0 } else c.rep }

/-- TakeTrap of R142 in one context of a core whose gang, if it has one, is taken care of by the caller. -/
def State.enterAt (s : State) (ep : Nat) (n : Fin 11) (code : BitVec 6) (async immediate : Bool)
    (epc tval : Word) : State :=
  s.modCtx ep n fun c => c.enterTrap code async immediate epc tval

/-- A trap of some members of a gang is taken by every member: each raiser records its own cause, epc and tval, the others
the cause and the epc of the lowest rank that raised one, with ktval 0; TMASK names the raisers (R341). -/
def State.gangTrap (s : State) (set : List Nat) (n : Fin 11) (async immediate : Bool)
    (ts : List (Nat × BitVec 6 × Word × Word)) : State :=
  let mask : BitVec 4 := (set.zipIdx).foldl (fun (m : BitVec 4) (e, r) =>
    if ts.any fun t => t.1 = e then m ||| BitVec.ofNat 4 (2 ^ r) else m) 0
  let first := ts.headD (0, 0, 0, 0)
  let leader := set.headD 0
  if (s.ctxAt leader n).csr.tvec = 0 then
    s.endTeam leader 1 0 (causeWord async first.2.1) first.2.2.1 first.2.2.2
  else
    set.foldl (fun (s : State) e =>
      let s := s.modCore e fun c => { c with gang := { c.gang with tmask := mask, behind := false } }
      match ts.find? fun t => t.1 = e with
      | some t => s.enterAt e n t.2.1 async immediate t.2.2.1 t.2.2.2
      | none => s.enterAt e n first.2.1 async immediate first.2.2.1 0) s

/-- TakeTrap of R142 in a context of a core: entry, or the end of the team when ktvec.BASE is 0 (R143); in a gang every
member enters (R341). -/
def State.takeTrap (s : State) (ep : Nat) (n : Fin 11) (code : BitVec 6) (async immediate : Bool)
    (epc tval : Word) : State :=
  if (s.core ep).gang.g then s.gangTrap (s.core ep).gang.set n async immediate [(ep, code, epc, tval)]
  else if (s.ctxAt ep n).csr.tvec = 0 then s.endTeam ep 1 0 (causeWord async code) epc tval
  else s.enterAt ep n code async immediate epc tval

/-- TakeTrap of R142 for the traps that the members of a gang, or the one context, raise at one boundary (R341). -/
def State.takeTraps (s : State) (ep : Nat) (n : Fin 11) (async immediate : Bool) (ts : List (Nat × BitVec 6 × Word × Word)) : State :=
  match ts with
  | [] => s
  | t :: _ =>
    if (s.core ep).gang.g then s.gangTrap (s.core ep).gang.set n async immediate ts
    else s.takeTrap ep n t.2.1 async immediate t.2.2.1 t.2.2.2

/-- An immediate precise trap of the instruction at hand (R138): no effect but trap entry. -/
def trap (code : BitVec 6) (tval : Word) (s : State) : Res :=
  let s := s.takeTrap s.cur.1 s.cur.2 code false true s.pc tval
  .next { s with out := .trapped code tval }

/-- Cause 2 with ktval 0 (R44, R136). -/
def illegal (s : State) : Res := trap 2 0 s

/-- X[r] of the leader of the gang of the issuing core, or of the core itself (R339: CNLD, CARVE, HEXIT). -/
def State.leaderX (s : State) (r : Reg) : Word :=
  if s.me.gang.g then (s.ctxAt (s.me.gang.set.headD s.cur.1) s.cur.2).rx r else s.x r

/-- The return of R82 and R145: pc := kepc, PRV := PPRV, TIP := 0. -/
def Ctx.leaveTrap (c : Ctx) : Ctx :=
  { c with pc := c.csr.epc ++ 0#2, cursor := 0, csr := { c.csr with prv := c.csr.pprv, tip := false } }

/-- The address of the oldest instruction of a context that has not yet issued (R139). An instruction at which the context waits
is abandoned by a trap and issues again (R151), so it counts as not issued. -/
def Ctx.nextPc (c : Ctx) : Word := c.pc

/-- RESUME of a deferred trap (R139): the instruction after the failing one when the context was still at that one, which has
issued; otherwise the next to issue. -/
def Ctx.resumeOf (c : Ctx) (d : Deferred) : Word := if d.at_ ∧ c.pc = d.epc then d.epc + 4 else c.nextPc

/-- The register that a failing access releases (R139): DV, DKIND, DREG. -/
def Dst.defer : Dst → Bool × BitVec 3 × BitVec 5
  | .none => (false, 0, 0)
  | .x r _ _ => (true, 0, r)
  | .f r => (true, 1, r)
  | .v r => (true, 2, r)
  | .m r => (true, 3, r)
  | .tok r => (true, 0, r)

/-- A failure that reaches a context after issue becomes a deferred trap, taken at a boundary (R139, R141); `at_`: the context
is still at the failing instruction. -/
def State.deferAt (s : State) (ep : Nat) (n : Fin 11) (age : Nat) (code : BitVec 6) (epc tval : Word) (dst : Dst) (at_ : Bool) :
    State :=
  s.modCtx ep n fun c =>
    let d : Deferred := ⟨age, code, epc, tval, dst.defer.1, dst.defer.2.1, dst.defer.2.2, at_⟩
    if c.alive then { c with deferred := insertBy (fun d => d.age) d c.deferred } else c

/-- The same for an instruction that the context has passed. -/
def State.defer (s : State) (ep : Nat) (n : Fin 11) (age : Nat) (code : BitVec 6) (epc tval : Word) (dst : Dst) : State :=
  s.deferAt ep n age code epc tval dst false

end Sys2Proof.Machine
end

