-- ==== Sys2Proof/Machine/Lattice.lean ====
section
/-! DEFINITION.
Lattice types (R95 to R99): joins, maximal values, fill states, readability, and the triggers of waits (R96, R111). -/

namespace Sys2Proof.Machine

open Sys2Proof

/-- Bytes of a width code (R95). -/
def wBytes (w : BitVec 2) : Nat := 2 ^ w.toNat

/-- The pair of a type and a width is admitted (R95). -/
def typeOk (typ : BitVec 4) (w : BitVec 2) : Bool :=
  match typ.toNat with
  | 1 | 2 | 4 | 5 | 7 | 8 => true
  | 3 | 6 | 12 | 13 => w = 2
  | 9 => w = 2 || w = 3
  | 10 | 11 => w = 3
  | _ => false

/-- FP32 bits that are a NaN. -/
def isNan32 (b : Nat) : Bool := b / 2 ^ 23 % 256 = 255 && b % 2 ^ 23 ≠ 0

/-- FP32 bits in numeric order with −0 below +0 (R97); not for NaN. -/
def ord32 (b : Nat) : Nat := if b ≥ 2 ^ 31 then 2 ^ 32 - 1 - b else b + 2 ^ 31

/-- The canonical NaN (R97). -/
def qnan32 : Nat := 0x7FC00000

/-- An n-bit number read as signed. -/
def signedOf (bits v : Nat) : Int := if v < 2 ^ (bits - 1) then v else (v : Int) - 2 ^ bits

/-- Bottom of a type at an element of `n` bits (R95); fill and fold elements hold zero bytes (R119). -/
def latBottom (typ : BitVec 4) (n : Nat) : Nat :=
  match typ.toNat with
  | 2 => 2 ^ (n - 1)
  | 3 => 0xFF800000
  | 4 => 2 ^ n - 1
  | 5 => 2 ^ (n - 1) - 1
  | 6 => 0x7F800000
  | _ => 0

/-- Join(type, old, new) on n-bit values for the types of R96 that are not FILL, FILLT or folds (R95, R97). -/
def latJoin (typ : BitVec 4) (n old new : Nat) : Nat :=
  match typ.toNat with
  | 1 | 11 => max old new
  | 2 => if signedOf n old < signedOf n new then new else old
  | 3 => if isNan32 old || isNan32 new then qnan32 else if ord32 old < ord32 new then new else old
  | 4 => min old new
  | 5 => if signedOf n new < signedOf n old then new else old
  | 6 => if isNan32 old || isNan32 new then qnan32 else if ord32 new < ord32 old then new else old
  | 7 => old ||| new
  | 8 => min (old + new) (2 ^ n - 1)
  | _ => new

/-- t ⊑ v: t has been passed by v (R96). -/
def passed (typ : BitVec 4) (n t v : Nat) : Bool :=
  if typ = 8 then decide (t ≤ v) else latJoin typ n v t == v

/-- A value is the type's maximal one (R95); fill types are decided by their state. -/
def latMax (typ : BitVec 4) (n v : Nat) : Bool :=
  match typ.toNat with
  | 1 | 7 | 8 | 11 => v == 2 ^ n - 1
  | 2 => v == 2 ^ (n - 1) - 1
  | 3 | 6 => v == qnan32
  | 4 => v == 0
  | 5 => v == 2 ^ (n - 1)
  | _ => false

/-- The fill state of element e of a line, or of the whole line for FILLT (R461): 0 unfilled, 1 filled, 2 conflicted. -/
def LineState.fill (l : LineState) (typ : BitVec 4) (e : Nat) : Nat :=
  if typ = 9 then (fld l.fillst (2 * e) 2).toNat else if typ = 10 then (fld l.fillst 0 2).toNat else 0

def LineState.setFill (l : LineState) (e v : Nat) : LineState :=
  let clear : BitVec 64 := ~~~ (BitVec.ofNat 64 (3 * 2 ^ (2 * e)))
  { l with fillst := (l.fillst &&& clear) ||| BitVec.ofNat 64 (v * 2 ^ (2 * e)) }

/-- An element is readable (R99): `v` is its value, `e` its number in the line. -/
def LineState.readable (l : LineState) (typ : BitVec 4) (n e v : Nat) : Bool :=
  if typ = 9 ∨ typ = 10 then
    l.fill typ e ≠ 2 && (l.fill typ e == 1 || l.cork)
  else if typ = 12 ∨ typ = 13 then l.rack
  else latMax typ n v || l.cork

/-- The readability mask of a line, one bit per byte (R464): elements `e` to the end, `k` of them, W bytes each. -/
def readMaskFrom (l : LineState) (typ : BitVec 4) (w data e : Nat) : Nat → Nat
  | 0 => 0
  | k + 1 =>
    let v := data / 2 ^ (8 * w * e) % 2 ^ (8 * w)
    (if l.readable typ (8 * w) e v then (2 ^ w - 1) * 2 ^ (w * e) else 0) ||| readMaskFrom l typ w data (e + 1) k

/-- The readability of each byte of a line at a type and width (R99). -/
def readMask (l : LineState) (typ : BitVec 4) (w : BitVec 2) (data : BitVec 1024) : BitVec 128 :=
  BitVec.ofNat 128 (readMaskFrom l typ (wBytes w) data.toNat 0 (128 / wBytes w))

/-- The bytes that a reader of a corked line gets: zeros for an unfilled FILL element and for an unfilled FILLT line (R99). -/
def LineState.shown (l : LineState) (typ : BitVec 4) (w : BitVec 2) (data : BitVec 1024) : BitVec 1024 :=
  if !l.cork then data
  else if typ = 10 then (if l.fill 10 0 = 0 then 0 else data)
  else if typ = 9 then
    (List.range (128 / wBytes w)).foldl (fun (d : BitVec 1024) e =>
      if l.fill 9 e = 0 then overlay d 0 (maskRun 128 (e * wBytes w) (wBytes w)) else d) data
  else data

/-- The n-byte value at an offset of a line. -/
def lineVal (data : BitVec 1024) (off n : Nat) : Nat := data.toNat / 2 ^ (8 * off) % 2 ^ (8 * n)

/-- The answer of a wait, if its condition holds (R110, R111, R124): an index, −1 or −2. -/
def waitResult (l : LineState) (typ : BitVec 4) (w : BitVec 2) (off : Nat) (data : BitVec 1024)
    (form : WaitForm) (trig : List Word) : Option Int :=
  let n := 8 * wBytes w
  let v := lineVal data off (wBytes w)
  let e := off / wBytes w
  let cut (t : Word) : Nat := t.toNat % 2 ^ n
  let closed : Bool := if typ = 12 ∨ typ = 13 then l.rack || l.cork else l.cork
  let hit (t : Word) : Bool :=
    match form with
    | .ge => passed typ n (cut t) v
    | .acq => passed typ n (cut t) v
    | .has => (v &&& cut t) == cut t
    | .any => if typ = 9 then l.fill typ e == 1 && v == cut t else passed typ n (cut t) v
    | .full => l.fill typ e == 1
    | .cork => closed
  if l.fill typ e = 2 then some (-2)
  else
    let ts := match form with
      | .full => [0]
      | .cork => [0]
      | _ => trig
    match ts.findIdx? hit with
    | some i => some i
    | none => if closed then some (-1) else none

/-- The first compatible pair of a WAIT.ANY list, as 256·i + j (R112): on a FILL page two triggers are compatible when
they are equal at width W; on any other page every pair is. -/
def compatPair (typ : BitVec 4) (w : BitVec 2) (trig : List Word) : Option Nat :=
  let n := 8 * wBytes w
  let pairs := (List.range trig.length).flatMap fun i =>
    ((List.range trig.length).filter fun j => decide (i < j)).map fun j => (i, j)
  (pairs.find? fun p =>
    typ ≠ 9 || (trig.getD p.1 0).toNat % 2 ^ n == (trig.getD p.2 0).toNat % 2 ^ n).map fun p => 256 * p.1 + p.2

/-- A WAIT form accepts a type (R111); ACQ needs MAXU of width 4 or 8 (R121, R124). -/
def waitAccepts (form : WaitForm) (typ : BitVec 4) (w : BitVec 2) : Bool :=
  let t := typ.toNat
  match form with
  | .ge => decide (1 ≤ t ∧ t ≤ 6) || t = 8 || t = 11
  | .has => t = 7
  | .any => decide (1 ≤ t ∧ t ≤ 13) && t ≠ 10 && t ≠ 12 && t ≠ 13
  | .full => t = 9 || t = 10
  | .cork => decide (1 ≤ t ∧ t ≤ 13)
  | .acq => t = 1 && (w = 2 || w = 3)

/-- The types that JOIN and a LAT store accept (R73, R106). -/
def joinAccepts (typ : BitVec 4) : Bool :=
  let t := typ.toNat
  decide (1 ≤ t ∧ t ≤ 9) || t = 11

end Sys2Proof.Machine
end

