-- ==== Sys2Proof/Machine/Flags.lean ====
section
/-! DEFINITION.
The exception flags of floating-point results (R86, R198), and how they accrue (R88, R199). The rounding and conversion functions
of Num say which flags a result raises. -/

namespace Sys2Proof.Machine

open Sys2Proof

/-- Flags NV, DZ, OF, UF, NX in bits 4 to 0 (R86, R198). -/
abbrev Flags := BitVec 5
def fNV : Flags := 16
def fDZ : Flags := 8
def fOF : Flags := 4
def fUF : Flags := 2
def fNX : Flags := 1

/-- Flags accrue into fcsr (R86); FRM stays. -/
def State.fflags (s : State) (fl : Flags) : State :=
  let c := s.ctx
  s.setCtx { c with csr := { c.csr with fcsr := c.csr.fcsr ||| fl.zeroExtend 8 } }

/-- Flags accrue into kvstat of a context (R199). -/
def State.vflagsAt (s : State) (ep : Nat) (n : Fin 11) (fl : Flags) : State :=
  s.modCtx ep n fun x => { x with csr := { x.csr with vstat := x.csr.vstat ||| fl } }

/-- Flags accrue into kvstat of the context at hand (R199). -/
def State.vflags (s : State) (fl : Flags) : State := s.vflagsAt s.cur.1 s.cur.2 fl

end Sys2Proof.Machine
end

