-- ==== Sys2Proof/Machine/Num.lean ====
section
/-! DEFINITION.
Number formats, rounding and conversions (R178 to R196, R200 to R203): exact values are (−1)^neg · m · 2^e. -/

namespace Sys2Proof.Machine

open Sys2Proof

/-- A decoded number: NaN with its signalling mark and sign, an infinity, or an exact dyadic value (m = 0: a signed zero). -/
inductive Val where
  | nan (sig : Bool) (neg : Bool)
  | inf (neg : Bool)
  | fin (neg : Bool) (m : Nat) (e : Int)
  deriving DecidableEq, Repr

/-- Rounding: the modes of R87, and SR with its 32 bits (R189). -/
inductive Rnd where
  | rne | rtz | rdn | rup | rmm
  | sr (bits : Nat)
  deriving DecidableEq, Repr

/-- m · 2^k for an integer k, rounding toward zero when k < 0. -/
def shiftInt (m : Nat) (k : Int) : Nat := if k ≥ 0 then m * 2 ^ k.toNat else m / 2 ^ (-k).toNat

/-- Comparison of m1·2^e1 with m2·2^e2. -/
def cmpMag (m1 : Nat) (e1 : Int) (m2 : Nat) (e2 : Int) : Ordering :=
  let e := min e1 e2
  compare (m1 * 2 ^ (e1 - e).toNat) (m2 * 2 ^ (e2 - e).toNat)

/-- The exponent of the leading bit of m·2^e, m > 0. -/
def topExp (m : Nat) (e : Int) : Int := (Nat.log2 m : Int) + e

/-- Picks the upper neighbour, when the value lies `num/den` of the way from lo to hi, 0 < num < den (R189);
`odd`: the last bit of lo is 1. -/
def pickUp (r : Rnd) (neg odd : Bool) (num den : Nat) : Bool :=
  match r with
  | .rne => if 2 * num = den then odd else decide (den < 2 * num)
  | .rtz => false
  | .rdn => neg
  | .rup => !neg
  | .rmm => decide (den ≤ 2 * num)
  | .sr bits => decide (2 ^ 32 ≤ num * 2 ^ 32 / den + bits)

/-- m·2^e rounded to a multiple of 2^lsb: the multiple, and whether it is inexact. -/
def roundAt (r : Rnd) (neg : Bool) (m : Nat) (e lsb : Int) : Nat × Bool :=
  if lsb ≤ e then (m * 2 ^ (e - lsb).toNat, false)
  else
    let d := (lsb - e).toNat
    let q := m / 2 ^ d
    let t := m % 2 ^ d
    if t = 0 then (q, false)
    else (if pickUp r neg (q % 2 == 1) t (2 ^ d) then q + 1 else q, true)

/-! ## Formats -/

/-- A binary float: width, fraction bits, bias; `top` the code of the largest finite magnitude; with infinities or not. -/
structure FltFmt where
  w : Nat
  frac : Nat
  bias : Int
  top : Nat
  hasInf : Bool
  deriving DecidableEq, Repr

/-- The element formats of R178 to R187. -/
inductive NumFmt where
  | flt (f : FltFmt)
  | tapered (n es : Nat)
  | int (n : Nat)
  deriving DecidableEq, Repr

def fp32 : FltFmt := ⟨32, 23, 127, 0x7F7FFFFF, true⟩
def bf16 : FltFmt := ⟨16, 7, 127, 0x7F7F, true⟩
def fp16 : FltFmt := ⟨16, 10, 15, 0x7BFF, true⟩
def e4m3 : FltFmt := ⟨8, 3, 7, 0x7E, false⟩
def e5m2 : FltFmt := ⟨8, 2, 15, 0x7B, true⟩
def e3m2 : FltFmt := ⟨6, 2, 3, 0x1F, false⟩
def e2m3 : FltFmt := ⟨6, 3, 1, 0x1F, false⟩
def e2m1 : FltFmt := ⟨4, 1, 1, 0x7, false⟩

/-- The element format of a format code (R178); 15 has none. -/
def fmtOf (code : BitVec 4) : Option NumFmt :=
  match code.toNat with
  | 0 => some (.flt fp32)
  | 1 => some (.flt bf16)
  | 2 => some (.flt fp16)
  | 3 | 7 => some (.flt e4m3)
  | 4 => some (.flt e5m2)
  | 5 => some (.tapered 8 1)
  | 6 => some (.tapered 6 0)
  | 8 => some (.flt e3m2)
  | 9 => some (.flt e2m3)
  | 10 | 11 => some (.flt e2m1)
  | 12 => some (.int 8)
  | 13 => some (.int 16)
  | 14 => some (.int 32)
  | _ => none

def NumFmt.w : NumFmt → Nat
  | .flt f => f.w
  | .tapered n _ => n
  | .int n => n

/-- Width of an element of a format code (R178). -/
def fmtWidth (code : BitVec 4) : Nat := match fmtOf code with | some f => f.w | none => 0

/-- Block size of a scaled format, or 0 (R178). -/
def fmtBlock (code : BitVec 4) : Nat :=
  match code.toNat with
  | 7 | 8 | 9 | 10 => 32
  | 11 => 16
  | _ => 0

/-! ## Decoding -/

/-- R180 and R181. Only the formats of R180, of 16 bits and more, have signalling NaNs (R193; log 126). -/
def decodeFlt (f : FltFmt) (bits : Nat) : Val :=
  let neg := decide (bits / 2 ^ (f.w - 1) % 2 = 1)
  let mag := bits % 2 ^ (f.w - 1)
  if mag > f.top then
    if f.hasInf then
      if mag % 2 ^ f.frac = 0 then .inf neg
      else .nan (decide (16 ≤ f.w) && decide (mag / 2 ^ (f.frac - 1) % 2 = 0)) neg
    else .nan false neg
  else
    let e := mag / 2 ^ f.frac
    let m := mag % 2 ^ f.frac
    if e = 0 then .fin neg m (1 - f.bias - f.frac)
    else .fin neg (2 ^ f.frac + m) ((e : Int) - f.bias - f.frac)

/-- The leading run of bits equal to `b` in the low k bits of q. -/
def leadRun (b : Bool) (q : Nat) : Nat → Nat
  | 0 => 0
  | k + 1 => if q.testBit k = b then 1 + leadRun b q k else 0

/-- R185 for a positive code: significand and exponent. -/
def taperedMag (n es q : Nat) : Nat × Int :=
  let b := q.testBit (n - 2)
  let run := leadRun b q (n - 1)
  let k : Int := if b then (run : Int) - 1 else -(run : Int)
  let left := n - 1 - run - 1
  let rest := q % 2 ^ left
  let ebits := min es left
  let e := (rest / 2 ^ (left - ebits)) * 2 ^ (es - ebits)
  let fbits := left - ebits
  let fr := rest % 2 ^ fbits
  (2 ^ fbits + fr, k * 2 ^ es + e - fbits)

/-- R185: the one zero, NaR, and the two's complement of a negative code. -/
def decodeTapered (n es bits : Nat) : Val :=
  if bits = 0 then .fin false 0 0
  else if bits = 2 ^ (n - 1) then .nan false false
  else
    let neg := bits.testBit (n - 1)
    let q := if neg then 2 ^ n - bits else bits
    let r := taperedMag n es q
    .fin neg r.1 r.2

/-- Decode(fmt, bits) (R180 to R187). -/
def decodeNum (f : NumFmt) (bits : Nat) : Val :=
  match f with
  | .flt f => decodeFlt f bits
  | .tapered n es => decodeTapered n es bits
  | .int n => if bits.testBit (n - 1) then .fin true (2 ^ n - bits) 0 else .fin false bits 0

/-- E8M0 (R182). -/
def decodeE8m0 (x : Nat) : Val := if x = 255 then .nan false false else .fin false 1 ((x : Int) - 127)

/-- SF8 (R182): no infinity or NaN. -/
def decodeSf8 (x : Nat) : Val :=
  let e := x / 8
  if e = 0 then .fin false (x % 8) (-17) else .fin false (8 + x % 8) ((e : Int) - 18)

/-! ## Exact arithmetic -/

def Val.isNan : Val → Bool
  | .nan .. => true
  | _ => false
def Val.isInf : Val → Bool
  | .inf _ => true
  | _ => false
def Val.isZero : Val → Bool
  | .fin _ m _ => m == 0
  | _ => false
def Val.neg : Val → Bool
  | .nan _ n => n
  | .inf n => n
  | .fin n _ _ => n
def Val.sigNan : Val → Flags
  | .nan true _ => fNV
  | _ => 0
def Val.negate : Val → Val
  | .nan s n => .nan s (!n)
  | .inf n => .inf (!n)
  | .fin n m e => .fin (!n) m e
def Val.abs : Val → Val
  | .nan s _ => .nan s false
  | .inf _ => .inf false
  | .fin _ m e => .fin false m e

/-- The quiet NaN that an operation returns. -/
def Val.qnan : Val := .nan false false

/-- A signed dyadic from an integer. -/
def Val.ofInt (i : Int) (e : Int) (zeroNeg : Bool) : Val :=
  if i = 0 then .fin zeroNeg 0 0 else .fin (decide (i < 0)) i.natAbs e

/-- The exact product; 0·∞ is NaN with NV; a signalling operand sets NV (R89). -/
def vMul (a b : Val) : Val × Flags :=
  let s := a.sigNan ||| b.sigNan
  if (a.isZero && b.isInf) || (a.isInf && b.isZero) then (.qnan, fNV)
  else if a.isNan || b.isNan then (.qnan, s)
  else
    let n := a.neg != b.neg
    match a, b with
    | .fin _ m1 e1, .fin _ m2 e2 => (.fin n (m1 * m2) (e1 + e2), 0)
    | _, _ => (.inf n, 0)

/-- The exact sum; ∞ − ∞ is NaN with NV; a zero sum of opposite signs is +0, or −0 when rounding down (R89). -/
def vAdd (rdn : Bool) (a b : Val) : Val × Flags :=
  let s := a.sigNan ||| b.sigNan
  if a.isNan || b.isNan then (.qnan, s)
  else
    match a, b with
    | .inf n, .inf k => if n = k then (.inf n, 0) else (.qnan, fNV)
    | .inf n, _ => (.inf n, 0)
    | _, .inf n => (.inf n, 0)
    | .fin n1 m1 e1, .fin n2 m2 e2 =>
      let e := min e1 e2
      let x : Int := (m1 * 2 ^ (e1 - e).toNat : Nat)
      let y : Int := (m2 * 2 ^ (e2 - e).toNat : Nat)
      let z := (if n1 then -x else x) + (if n2 then -y else y)
      if z = 0 then (.fin (if n1 = n2 then n1 else rdn) 0 0, 0) else (Val.ofInt z e false, 0)
    | _, _ => (.qnan, 0)

/-- Exact a·b + c (R88); an invalid product sets NV even beside a quiet NaN (R89). -/
def vFma (rdn : Bool) (a b c : Val) : Val × Flags :=
  let p := vMul a b
  if p.1.isNan then (.qnan, p.2 ||| c.sigNan)
  else
    let q := vAdd rdn p.1 c
    (q.1, p.2 ||| q.2)

/-- A quotient with `extra` bits and a sticky last bit: enough for every rounding of the exact quotient. -/
def quotient (m1 : Nat) (e1 : Int) (m2 : Nat) (e2 : Int) (extra : Nat) : Nat × Int :=
  let k := Nat.log2 m2 + extra
  let n := m1 * 2 ^ k
  let q := n / m2
  (2 * q + (if n % m2 = 0 then 0 else 1), e1 - e2 - k - 1)

/-- a / b; 0/0 and ∞/∞ are invalid; a finite nonzero number over zero sets DZ (R89). -/
def vDiv (a b : Val) : Val × Flags :=
  let s := a.sigNan ||| b.sigNan
  if a.isNan || b.isNan then (.qnan, s)
  else
    let n := a.neg != b.neg
    match a, b with
    | .inf _, .inf _ => (.qnan, fNV)
    | .inf _, _ => (.inf n, 0)
    | _, .inf _ => (.fin n 0 0, 0)
    | .fin _ m1 e1, .fin _ m2 e2 =>
      if m2 = 0 then (if m1 = 0 then (.qnan, fNV) else (.inf n, fDZ))
      else if m1 = 0 then (.fin n 0 0, 0)
      else
        let q := quotient m1 e1 m2 e2 100
        (.fin n q.1 q.2, 0)
    | _, _ => (.qnan, 0)

/-- The integer square root by bits: `r` so far, with `k` more bits. -/
def isqrtFrom (n r : Nat) : Nat → Nat
  | 0 => r
  | k + 1 => if (r + 2 ^ k) * (r + 2 ^ k) ≤ n then isqrtFrom n (r + 2 ^ k) k else isqrtFrom n r k

def isqrt (n : Nat) : Nat := isqrtFrom n 0 (Nat.log2 n / 2 + 1)

/-- A square root with a sticky last bit. -/
def rootOf (m : Nat) (e : Int) (extra : Nat) : Nat × Int :=
  let m1 := if e % 2 = 0 then m else 2 * m
  let e1 := if e % 2 = 0 then e else e - 1
  let n := m1 * 2 ^ (2 * extra)
  let r := isqrt n
  (2 * r + (if r * r = n then 0 else 1), e1 / 2 - extra - 1)

/-- √a; a negative nonzero operand is invalid; √−0 = −0 (R89). -/
def vSqrt (a : Val) : Val × Flags :=
  match a with
  | .nan s _ => (.qnan, if s then fNV else 0)
  | .inf false => (.inf false, 0)
  | .inf true => (.qnan, fNV)
  | .fin n m e =>
    if m = 0 then (.fin n 0 0, 0)
    else if n then (.qnan, fNV)
    else
      let r := rootOf m e 64
      (.fin false r.1 r.2, 0)

/-! ## Encoding -/

/-- The sign bit of a width. -/
def signBit (w : Nat) (neg : Bool) : Nat := if neg then 2 ^ (w - 1) else 0

def nanCode (f : FltFmt) : Nat := if f.hasInf then f.top + 1 + 2 ^ (f.frac - 1) else 0x7F

/-- The code of a magnitude rounded on the format's grid with an unbounded exponent range (R191 step 2), inexactness,
and whether the value is tiny when rounded to the format's precision with no lower bound on the exponent. -/
def gridCode (f : FltFmt) (r : Rnd) (neg : Bool) (m : Nat) (e : Int) : Nat × Bool × Bool :=
  let low := 1 - f.bias - f.frac
  let lsb0 := topExp m e - f.frac
  let lsb := max lsb0 low
  let q := roundAt r neg m e lsb
  let u := roundAt r neg m e lsb0
  (q.1 + (lsb - low).toNat * 2 ^ f.frac, q.2, cmpMag u.1 lsb0 1 (1 - f.bias) == .lt)

/-- An overflowing magnitude: infinity or the largest finite value, as the mode directs (R89, R192). -/
def overflowTo (f : FltFmt) (r : Rnd) (neg : Bool) : Nat :=
  let big := match r with
    | .rtz => false
    | .rdn => neg
    | .rup => !neg
    | _ => true
  if f.hasInf && big then f.top + 1 else f.top

/-- A finite value rounded once into a float format. `ieee`: tininess is judged with an unbounded exponent (R89);
otherwise on the destination's grid (R192). -/
def encodeFin (f : FltFmt) (r : Rnd) (ieee : Bool) (neg : Bool) (m : Nat) (e : Int) : Nat × Flags :=
  if m = 0 then (signBit f.w neg, 0)
  else
    let g := gridCode f r neg m e
    if g.1 > f.top then (signBit f.w neg + overflowTo f r neg, fOF ||| fNX)
    else
      let tiny := if ieee then g.2.2 else decide (g.1 < 2 ^ f.frac)
      (signBit f.w neg + g.1, if g.2.1 then (if tiny then fUF ||| fNX else fNX) else 0)

/-- An arithmetic result in a format with infinities: canonical NaN, infinities, or rounding (R89, R211). -/
def encodeArith (f : FltFmt) (r : Rnd) (v : Val × Flags) : Nat × Flags :=
  match v.1 with
  | .nan .. => (nanCode f, v.2)
  | .inf n => (signBit f.w n + f.top + 1, v.2)
  | .fin n m e =>
    let x := encodeFin f r true n m e
    (x.1, v.2 ||| x.2)

/-- The largest positive code of a tapered format whose value is at most m·2^e, searching from code c down. -/
def taperedBelow (n es m : Nat) (e : Int) : Nat → Nat
  | 0 => 0
  | c + 1 =>
    let r := taperedMag n es (c + 1)
    if cmpMag r.1 r.2 m e == .gt then taperedBelow n es m e c else c + 1

/-- R191, R192 for T8 and T6. -/
def encodeTapered (n es : Nat) (r : Rnd) (neg : Bool) (m : Nat) (e : Int) : Nat × Flags :=
  if m = 0 then (0, 0)
  else
    let top := 2 ^ (n - 1) - 1
    let sgn (c : Nat) : Nat := if neg then 2 ^ n - c else c
    let t := taperedMag n es top
    if cmpMag m e t.1 t.2 == .gt then (sgn top, fOF ||| fNX)
    else
      let c := taperedBelow n es m e top
      if c = 0 then (sgn 1, fUF ||| fNX)
      else
        let lo := taperedMag n es c
        if cmpMag m e lo.1 lo.2 == .eq then (sgn c, 0)
        else
          let hi := taperedMag n es (c + 1)
          let b := min e (min lo.2 hi.2)
          let x := m * 2 ^ (e - b).toNat
          let y := lo.1 * 2 ^ (lo.2 - b).toNat
          let z := hi.1 * 2 ^ (hi.2 - b).toNat
          (sgn (if pickUp r neg (c % 2 == 1) (x - y) (z - y) then c + 1 else c), fNX)

/-- R191 to R193 for an integer of n bits. -/
def encodeInt (n : Nat) (r : Rnd) (neg : Bool) (m : Nat) (e : Int) : Nat × Flags :=
  let q := roundAt r neg m e 0
  let lim := if neg then 2 ^ (n - 1) else 2 ^ (n - 1) - 1
  let code (k : Nat) : Nat := if neg then (2 ^ n - k) % 2 ^ n else k
  if q.1 > lim then (code lim, fOF ||| fNX) else (code q.1, if q.2 then fNX else 0)

/-- Encode(fmt, v, rnd) (R191 to R193): the code and the flags. -/
def encodeNum (f : NumFmt) (r : Rnd) (v : Val) : Nat × Flags :=
  match f, v with
  | .flt f, .nan s n =>
    if f.hasInf ∨ f.w = 8 then (nanCode f, if s then fNV else 0)
    else (signBit f.w n + f.top, fNV)
  | .flt f, .inf n => if f.hasInf then (signBit f.w n + f.top + 1, 0) else (signBit f.w n + f.top, fOF)
  | .flt f, .fin n m e => encodeFin f r false n m e
  | .tapered k _, .nan s _ => (2 ^ (k - 1), if s then fNV else 0)
  | .tapered k _, .inf n => (if n then 2 ^ (k - 1) + 1 else 2 ^ (k - 1) - 1, fOF)
  | .tapered k es, .fin n m e => encodeTapered k es r n m e
  | .int k, .nan _ n => (if n then 2 ^ (k - 1) else 2 ^ (k - 1) - 1, fNV)
  | .int k, .inf n => (if n then 2 ^ (k - 1) else 2 ^ (k - 1) - 1, fOF)
  | .int k, .fin n m e => encodeInt k r n m e

/-- SrBits(a, seed) (R189). -/
def srBits (a seed : BitVec 64) : Nat :=
  let h := a ^^^ seed
  let h := (h ^^^ (h >>> 31)) * 0xA3B19C475E2D8F6B#64
  let h := (h ^^^ (h >>> 29)) * 0x6C8E9CF570932BD5#64
  let h := h ^^^ (h >>> 32)
  h.toNat % 2 ^ 32

/-- The rounding of a conversion: the mode of R188 and, for SR, the bits of the element's address (R190). -/
def cvtRnd (rnd : BitVec 2) (seed : BitVec 64) (bitAddr : Nat) : Rnd :=
  if rnd = 0 then .rne else if rnd = 1 then .rtz else .sr (srBits (BitVec.ofNat 64 bitAddr) seed)

/-! ## Amax candidates (R196) -/

/-- The candidate of a source value: FP32 bits of its magnitude, rounded up, or RNE for an integer source. -/
def amaxOf (isInt : Bool) (v : Val) : Option Nat :=
  match v with
  | .nan .. => none
  | .inf _ => some 0x7F800000
  | .fin _ m e =>
    if m = 0 then some 0
    else
      let g := gridCode fp32 (if isInt then .rne else .rup) false m e
      some (if g.1 > fp32.top then 0x7F800000 else g.1)

/-- An amax register after a candidate (R265): bit 32 is NaN-seen. -/
def amaxJoin (reg : BitVec 33) (c : Option Nat) : BitVec 33 :=
  match c with
  | none => reg ||| BitVec.ofNat 33 (2 ^ 32)
  | some b => if reg.toNat % 2 ^ 32 < b then (fld reg 32 1 ++ BitVec.ofNat 32 b) else reg

/-! ## Sums -/

/-- RoundNE to FP32. -/
def rne32 (v : Val × Flags) : Nat × Flags := encodeArith fp32 .rne v

/-- The FP32 sum of two FP32 codes with one rounding. -/
def add32 (a b : Nat) : Nat × Flags := rne32 (vAdd false (decodeFlt fp32 a) (decodeFlt fp32 b))

/-- One level of a summing tree: neighbours are added (R202, R203). -/
def addPairs : List Nat → List Nat × Flags
  | a :: b :: rest =>
    let s := add32 a b
    let r := addPairs rest
    (s.1 :: r.1, s.2 ||| r.2)
  | l => (l, 0)

/-- `k` levels of a summing tree. -/
def addTree (l : List Nat) : Nat → List Nat × Flags
  | 0 => (l, 0)
  | k + 1 =>
    let a := addPairs l
    let r := addTree a.1 k
    (r.1, a.2 ||| r.2)

/-- The pairs of one group's exact terms, each sum rounded once (R203). -/
def termPairs : List Val → List Nat × Flags
  | a :: b :: rest =>
    let s := rne32 (vAdd false a b)
    let r := termPairs rest
    (s.1 :: r.1, s.2 ||| r.2)
  | _ => ([], 0)

/-- The sum of a group of up to 16 terms, padded with −0 (R203). -/
def groupSum (t : List Val) : Nat × Flags :=
  let u := t ++ List.replicate (16 - t.length) (Val.fin true 0 0)
  let w := termPairs u
  let r := addTree w.1 3
  (r.1.headD 0, w.2 ||| r.2)

/-- The groups of 16 added to a running sum in order (R203). -/
def caskSumFrom (s : Nat) (t : List Val) : Nat → Nat × Flags
  | 0 => (s, 0)
  | k + 1 =>
    if t.isEmpty then (s, 0)
    else
      let g := groupSum (t.take 16)
      let n := add32 s g.1
      let r := caskSumFrom n.1 (t.drop 16) k
      (r.1, g.2 ||| n.2 ||| r.2)

/-- CaskSum (R203). -/
def caskSum (t : List Val) : Nat × Flags :=
  if t.isEmpty then (0, 0)
  else
    let g := groupSum (t.take 16)
    let r := caskSumFrom g.1 (t.drop 16) (t.length / 16 + 1)
    (r.1, g.2 ||| r.2)

/-- The sum of fold records already in order (R130). -/
def foldSum : Nat → List Nat → Nat
  | s, [] => s
  | s, x :: rest => foldSum (add32 s x).1 rest

/-- AlignSum (R200). -/
def alignSum (terms : List Val) : Nat × Flags :=
  if terms.any Val.isNan || (terms.any (· == .inf false) && terms.any (· == .inf true)) then (0x7FC00000, fNV)
  else if terms.any (· == .inf false) then (0x7F800000, 0)
  else if terms.any (· == .inf true) then (0xFF800000, 0)
  else
    let nz := terms.filter fun t => !t.isZero
    match nz.map (fun t => match t with | .fin _ m e => topExp m e | _ => 0) with
    | [] => (0, 0)
    | x :: xs =>
      let q := xs.foldl max x - 48
      let parts := nz.map fun t => match t with
        | .fin n m e =>
          let k := shiftInt m (e - q)
          ((if n then -(k : Int) else (k : Int)), decide (e < q) && m % 2 ^ (q - e).toNat != 0)
        | _ => (0, false)
      let s := parts.foldl (fun (a : Int) p => a + p.1) 0
      let nx0 : Flags := if parts.any (·.2) then fNX else 0
      if s = 0 then (0, nx0)
      else
        let neg := decide (s < 0)
        let m := s.natAbs
        let lsb := topExp m q - 23
        let y := roundAt .rne neg m q lsb
        if cmpMag y.1 lsb (2 ^ 24 - 1) 104 == .gt then (signBit 32 neg + 0x7F800000, nx0 ||| fOF ||| fNX)
        else if cmpMag y.1 lsb 1 (-126) == .lt then (signBit 32 neg, nx0 ||| fUF ||| fNX)
        else (signBit 32 neg + ((y.1 : Int) + (lsb + 149) * 2 ^ 23).toNat, nx0 ||| (if y.2 then fNX else 0))

end Sys2Proof.Machine
end

