-- ==== Sys2Proof/Machine/Press.lean ====
section
/-! DEFINITION.
The presses: what each operation does to a line (R115, R122, R128, R130, R463 to R467), reports, rings, registrations,
racking, and the press steps of conversions (R117, R119). -/

namespace Sys2Proof.Machine

open Sys2Proof

/-- H(A): the home slice of a line of a LAT page (R460). -/
def homeSlice (line : Nat) : Nat :=
  let u := (line % 65536) ^^^ (line / 65536 % 65536) ^^^ (line / 2 ^ 32 % 512)
  384 * u / 65536

/-- The home slice of a line of an OWN or HOST page (R509). -/
def State.plainSlice (s : State) (line : Nat) : Nat :=
  let pa := line * 128
  if pa < 2 ^ 40 then
    let c := s.slices
    c.getD (pa / 4096 % (max 1 c.length)) 0
  else (pa - 2 ^ 40) / 2 ^ 40 / 3 * 96 + pa / 4096 % 96

/-! ## Reports of a press -/

/-- A record goes to its party: on this device as a message, on another as an RPT packet (R149, R547). -/
def State.reportTo (s : State) (p : Party) (fdom : BitVec 16) (words : List Word) : State :=
  if p.dev = s.dev then s.post (.report p.ep p.ctx words)
  else s.send { blankPacket with what := 0x17, dst := p.dev, fdom := fdom, ep := p.ep, ctx := p.ctx, words := words }

/-- A remote join has been performed: an ACK, with the type of its page, to each remote contributor by the tag of its portion (R547,
R548; the type tells a FILL line, whose writer sets signature bits: R13, R549, log 114). -/
def State.ackAll (s : State) (op : PressOp) (ps : List Party) : State :=
  -- the lanes of one scatter are acknowledged with the last of them (R230)
  if s.pressQ.any fun o => o.who == op.who && o.who.dev != s.dev && o.tag == op.tag && o.line == op.line then s
  else ps.foldl (fun (s : State) p =>
    if p.dev = s.dev then s
    else s.send { blankPacket with what := 0x18, dst := p.dev, fdom := op.fdom, ep := p.ep, ctx := p.ctx, tag := p.tag, addr := op.va, typ := op.typ }) s

/-- The last operation of another device's portion has been performed: one ACK, naming the portion by its tag (R547). -/
def State.ackLast (s : State) (op : PressOp) : State :=
  if op.who.dev = s.dev ∨ (s.pressQ.any fun o => o.who == op.who && o.tag == op.tag) then s
  else s.send { blankPacket with
    what := 0x18, dst := op.who.dev, fdom := op.fdom, ep := op.who.ep, ctx := op.who.ctx, tag := op.tag, kind := 1
    addr := op.va, typ := op.typ }

/-- One discarded or conflicting element (R116): cause 32 or 33, reason, address, value, aux. -/
def State.pressReport (s : State) (op : PressOp) (host : Bool) (parties : List Party) (cause reason off : Nat)
    (val aux : Word) : State :=
  let addr := op.va + w64 off
  if host then s.tell 4 [5, w64 (aVa addr) - s.pkg.hvBase]
  else (partyCtxs parties).foldl (fun (s : State) p =>
    s.reportTo p op.fdom (mkRecord cause p.ctx reason addr s.dev 0 (homeSlice op.line) val aux false)) s

/-- A join or fold that a press discards counts once, with the address of its first element (R467). -/
def State.countLate (s : State) (op : PressOp) (off : Nat) : State :=
  let n := homeSlice op.line
  s.setStat n { s.stat n with latecnt := inc32 (s.stat n).latecnt, lastlate := op.va + w64 off }

/-- A join that makes an element conflicted, or reaches a conflicted one, counts once (R467). -/
def State.countFill (s : State) (op : PressOp) : State :=
  let n := homeSlice op.line
  s.setStat n { s.stat n with fillcnt := inc32 (s.stat n).fillcnt }

/-! ## Rings and acquires (R122 to R124) -/

def State.ring (s : State) (line : Nat) : Option Ring := s.rings.find? fun r => r.line = line

/-- A ring becomes the most recently used one: a REL uses it, and an ACQ does not count as a use, which the spec leaves open (log 137). -/
def State.putRing (s : State) (r : Ring) : State :=
  { s with rings := (s.rings.filter fun x => x.line ≠ r.line) ++ [r] }

/-- The ring after a REL of value v with signature g to its element (R122). -/
def Ring.rel (r : Ring) (v : Word) (g : BitVec 1024) : Ring :=
  match r.ents.getLast? with
  | none => { r with ents := [(v, g)] }
  | some (last, _) =>
    if last < v then
      if r.ents.length ≥ 8 then { r with hw := (r.ents.headD (0, 0)).1, ents := r.ents.drop 1 ++ [(v, g)] }
      else { r with ents := r.ents ++ [(v, g)] }
    else
      match r.ents.findIdx? fun e => decide (v ≤ e.1) with
      | some i => { r with ents := (r.ents.zipIdx).map fun (e, j) => if j = i then (e.1, e.2 ||| g) else e }
      | none => r

/-- A ring place is made for a new ring of a slice, evicting the least recently used one (R470). -/
def State.ringPlace (s : State) (slice : Nat) : State :=
  let mine := s.rings.filter fun r => homeSlice r.line = slice
  if mine.length < 512 then s
  else match mine with
    | [] => s
    | r :: _ =>
      let l := s.line r.line
      let newest := (r.ents.getLast?.map (·.1)).getD 0
      let s := s.setLine r.line { l with lostv := newest, ringst := 2 }
      { s with rings := s.rings.filter fun x => x.line ≠ r.line }

/-- The ring update of a REL (R122, R123, R470). -/
def State.relRing (s : State) (line off n : Nat) (v : Word) (g : BitVec 1024) : State :=
  let l := s.line line
  if l.ringst = 3 then s
  else
    let full : Word := w64 (2 ^ n - 1)
    match s.ring line with
    | some r =>
      if r.elem = off then s.putRing (r.rel v g) else s.putRing { r with hw := full }
    | none =>
      let s := s.ringPlace (homeSlice line)
      let l := s.line line
      let hw := if l.ringst = 2 then l.lostv else 0
      let s := s.setLine line { l with ringst := 1 }
      s.putRing { line := line, elem := off, hw := hw, ents := [(v, g)] }

/-- The signature of an ACQ answer (R124): `c` the variable's value, `p` the prior value; all ones when saturated. -/
def State.acqSig (s : State) (line off : Nat) (c p : Word) : BitVec 1024 :=
  match s.ring line with
  | none => BitVec.allOnes 1024
  | some r =>
    if (s.line line).ringst ≠ 1 ∨ r.elem ≠ off ∨ p < r.hw ∨ c < p then BitVec.allOnes 1024
    else (r.ents.filter fun e => decide (p < e.1 ∧ e.1 ≤ c)).foldl (fun g e => g ||| e.2) 0

/-! ## Registrations (R465, R466) -/

/-- An answer to a wait (R110, R124, R466, R549). -/
def State.answer (s : State) (who : Party) (id : Nat) (fdom : BitVec 16) (form : WaitForm) (result : Int)
    (g : BitVec 1024) : State :=
  if who.dev = s.dev then
    if h : who.ctx < 11 then
      if form = .acq then s.post (.acqAns who.ep ⟨who.ctx, h⟩ id (wInt result) g)
      else s.post (.waitAns who.ep ⟨who.ctx, h⟩ id (wInt result) fdom)
    else s
  else s.send { blankPacket with
    what := 0x12, dst := who.dev, fdom := fdom, ep := who.ep, ctx := who.ctx, tag := id,
    value := wInt result, kind := (if form = .acq then 1 else 0), sig := g, sat := decide (g = BitVec.allOnes 1024) }

/-- The result and the signature of a wait whose condition holds now. -/
def State.waitNow (s : State) (line off : Nat) (typ : BitVec 4) (w : BitVec 2) (form : WaitForm) (trig : List Word)
    (prior : Word) : Option (Int × BitVec 1024) :=
  let d := lineOf s.mem line
  (waitResult (s.line line) typ w off d form trig).map fun r =>
    (r, if form = .acq then s.acqSig line off (w64 (lineVal d off (wBytes w))) prior else 0)

/-- The registrations of a line are evaluated in order, and each one whose condition holds is answered; a conflict answers every one of
the line (R466), with −2 where no condition of its own element holds (log 136). -/
def State.evalRegs (s : State) (line : Nat) (conflict : Bool) : State :=
  let mine := s.regs.filter fun r => r.line = line
  mine.foldl (fun (s : State) r =>
    match (s.waitNow r.line r.off r.typ r.width r.form r.trig r.prior).or (if conflict then some (-2, 0) else none) with
    | some (res, g) => (s.dropRegs fun x => x == r).answer r.who r.id r.fdom r.form res g
    | none => s) s

/-- A wait or ACQ accepted by a press: answered at once, registered, or answered with a retry (R465). -/
def State.register (s : State) (op : PressOp) (off : Nat) (w : BitVec 2) (form : WaitForm) (trig : List Word)
    (prior : Word) (id : Nat) : State :=
  match s.waitNow op.line off op.typ w form trig prior with
  | some (res, g) => s.answer op.who id op.fdom form res g
  | none =>
    let slice := homeSlice op.line
    let here := s.regs.filter fun r => r.line = op.line && !r.table
    let array := s.regs.filter fun r => homeSlice r.line = slice && !r.table
    let table := s.regs.filter fun r => homeSlice r.line = slice && r.table
    let r : Registration := ⟨op.line, off, op.typ, w, form, trig, prior, op.who, id, op.fdom, false⟩
    if here.length < 16 ∧ array.length < 1024 then { s with regs := s.regs ++ [r] }
    else if table.length < 8192 then
      let s := s.setLine op.line { s.line op.line with wovf := true }
      { s with regs := s.regs ++ [{ r with table := true }] }
    else s.post (.retry (s.cycle + 1024) op)

/-! ## Joins (R95 to R98, R115, R116) -/

/-- The n low bytes at an offset of a line, set to a value. -/
def setLineVal (data : BitVec 1024) (off n v : Nat) : BitVec 1024 :=
  overlay data (BitVec.ofNat 1024 (v * 2 ^ (8 * off))) (maskRun 128 off n)

/-- First 8 bytes of a value. -/
def first8 (v : Nat) : Word := w64 (v % 2 ^ 64)

/-- One element of a join at a press: FILL by its state (R98), the other types by Join (R95). -/
def State.joinElem (s : State) (op : PressOp) (host : Bool) (parties : List Party) (w off v : Nat) : State :=
  let l := s.line op.line
  let data := lineOf s.mem op.line
  let old := lineVal data off w
  if op.typ = 9 then
    let e := off / w
    match l.fill 9 e with
    | 0 =>
      let s := s.setLine op.line (l.setFill e 1)
      { s with mem := putLine s.mem op.line (setLineVal data off w v) (maskRun 128 off w) }
    | 1 =>
      if old = v then s
      else
        let s := s.setLine op.line (l.setFill e 2)
        let s := { s with mem := putLine s.mem op.line (Config.freeElem s.free) (maskRun 128 off w) }
        s.fresh.pressReport op host parties 33 0 off (first8 v) 0
    | _ => s.pressReport op host parties 33 0 off (first8 v) 0
  else
    { s with mem := putLine s.mem op.line (setLineVal data off w (latJoin op.typ (8 * w) old v)) (maskRun 128 off w) }

/-- The join of an element makes it conflicted, or reaches a conflicted one (R98). -/
def State.fillsWrong (s : State) (op : PressOp) (w : BitVec 2) (off : Nat) (data : BitVec 1024) : Bool :=
  let l := s.line op.line
  let n := if op.typ = 10 then 128 else wBytes w
  let st := l.fill op.typ (if op.typ = 10 then 0 else off / n)
  (op.typ == 9 || op.typ == 10) && (st == 2 || (st == 1 && lineVal (lineOf s.mem op.line) off n != lineVal data off n))

/-- A whole-line fill of a FILLT line (R98). -/
def State.joinFillT (s : State) (op : PressOp) (host : Bool) (parties : List Party) (v : BitVec 1024) : State :=
  let l := s.line op.line
  match l.fill 10 0 with
  | 0 =>
    let s := s.setLine op.line (l.setFill 0 1)
    { s with mem := putLine s.mem op.line v (BitVec.allOnes 128) }
  | 1 =>
    if lineOf s.mem op.line = v then s
    else
      let s := s.setLine op.line (l.setFill 0 2)
      let s := { s with mem := putLine s.mem op.line (Config.freeElem s.free) (BitVec.allOnes 128) }
      s.fresh.pressReport op host parties 33 0 0 (first8 v.toNat) 0
  | _ => s.pressReport op host parties 33 0 0 (first8 v.toNat) 0

/-- The offsets of the active elements of a join: those of which every byte is valid. -/
def activeOffs (w : Nat) (valid : BitVec 128) : List Nat :=
  ((List.range (128 / w)).map fun e => e * w).filter fun off => lineVal (lineBits valid) off w == 2 ^ (8 * w) - 1

/-- The elements of a join: for FILLT the one line. -/
def joinOffs (typ : BitVec 4) (w : BitVec 2) (valid : BitVec 128) : List Nat :=
  if typ = 10 then [0] else activeOffs (wBytes w) valid

/-- Why a join to a line is discarded (R116): 1 stale vintage, 0 after cork. -/
def LineState.joinDiscard (l : LineState) (vint : BitVec 8) : Option Nat :=
  if l.vint ≠ vint then some 1 else if l.cork then some 0 else none

/-- A join is applied in press order, or discarded and reported (R115, R116), and counted as one (R463, R467); the line's registrations
are evaluated (R466); remote contributors are acknowledged (R547). -/
def State.pressJoin (s : State) (op : PressOp) (w : BitVec 2) (valid : BitVec 128) (data : BitVec 1024)
    (parties : List Party) (host : Bool) : State :=
  let l := s.line op.line
  let n := wBytes w
  let offs := joinOffs op.typ w valid
  let s := match l.joinDiscard op.vint with
    | some reason =>
      offs.foldl (fun (s : State) off => s.pressReport op host parties 32 reason off
        (first8 (if op.typ = 10 then data.toNat else lineVal data off n)) (w64 (l.vint.toNat * 2 ^ 32)))
        (match offs with | off :: _ => s.countLate op off | [] => s)
    | none =>
      let wrong := offs.any fun off => s.fillsWrong op w off data
      let s := if wrong then s.countFill op else s
      let s := if op.typ = 10 then s.joinFillT op host parties data
        else offs.foldl (fun (s : State) off => s.joinElem op host parties n off (lineVal data off n)) s
      (s.wake (homeSlice op.line / 96)).evalRegs op.line wrong
  s.ackAll op parties

/-- A REL at the press: its join and the ring update as one operation (R121, R122). -/
def State.pressRel (s : State) (op : PressOp) (off : Nat) (w : BitVec 2) (v : Word) (g : BitVec 1024) : State :=
  let n := wBytes w
  let l := s.line op.line
  let x := v.toNat % 2 ^ (8 * n)
  let s := match l.joinDiscard op.vint with
    | some reason => (s.countLate op off).pressReport op false [op.who] 32 reason off (first8 x) (w64 (l.vint.toNat * 2 ^ 32))
    | none =>
      let s := s.joinElem op false [op.who] n off x
      let s := s.relRing op.line off (8 * n) (w64 x) g
      (s.wake (homeSlice op.line / 96)).evalRegs op.line false
  s.ackLast op

/-! ## Corks, folds and racks -/

/-- A cork takes effect: the line's cork state is set and its registrations are answered (R113, R115). -/
def State.pressCork (s : State) (line : Nat) : State :=
  let l := s.line line
  (s.setLine line { l with cork := true }).evalRegs line false

/-- The records of one element, by key and value bits, ascending (R130). -/
def elemRecs (recs : List LeesRec) (off : Nat) : List Nat :=
  ((sortBy (fun r => r.key.toNat * 2 ^ 32 + r.value.toNat) (recs.filter fun r => r.off = off))).map fun r => r.value.toNat

/-- The racked value of each of the 32 elements, from element e on (R130). -/
def rackLineFrom (recs : List LeesRec) (e : Nat) : Nat → Nat
  | 0 => 0
  | k + 1 =>
    let v := match elemRecs recs (4 * e) with
      | [] => 0
      | x :: xs => foldSum x xs
    v + 2 ^ 32 * rackLineFrom recs (e + 1) k

/-- Racking a line with the records that `sel` chooses (R130, R131); a racked line is not racked again. -/
def State.rackLine (s : State) (line : Nat) (sel : LeesRec → Bool) : State :=
  let l := s.line line
  if l.rack then s
  else
    let recs := s.lees.filter fun r => r.line = line && sel r
    let s := { s with
      lees := s.lees.filter fun r => !(r.line = line && sel r)
      mem := putLine s.mem line (BitVec.ofNat 1024 (rackLineFrom recs 0 32)) (BitVec.allOnes 128) }
    (s.setLine line { s.line line with cork := true, rack := true }).evalRegs line false

/-- Why a fold is discarded (R116, R128): 1 stale vintage, 2 after rack, 3 second domain. -/
def LineState.foldDiscard (l : LineState) (vint : BitVec 8) (r : FoldRec) : Option Nat :=
  if l.vint ≠ vint then some 1
  else if l.rack then some 2
  else if l.fdv ∧ ¬ (l.fdom = r.dom ∧ l.flvl = r.lvl) then some 3
  else none

/-- A fold record is appended to the lees, or discarded and reported (R127 to R129). -/
def State.pressFold (s : State) (op : PressOp) (off : Nat) (r : FoldRec) : State :=
  let l := s.line op.line
  let s := match l.foldDiscard op.vint r with
    | some reason => (s.countLate op off).pressReport op false [op.who] 32 reason off (r.value.zeroExtend 64)
        (w64 (l.vint.toNat * 2 ^ 32 + r.key.toNat))
    | none =>
      let s := s.setLine op.line { l with fdom := r.dom, flvl := r.lvl, fdv := true }
      let s := { s with lees := s.lees ++ [(⟨op.line, off, r.key, r.value, r.lvl, r.dom, r.phase, op.who⟩ : LeesRec)] }
      s.modDomain r.lvl r.dom fun d =>
        if r.phase then { d with
          count1 := d.count1 + 1
          appended1 := if d.appended1.contains op.who then d.appended1 else d.appended1 ++ [op.who] }
        else { d with
          count0 := d.count0 + 1
          appended0 := if d.appended0.contains op.who then d.appended0 else d.appended0 ++ [op.who] }
  s.ackLast op

/-! ## The input of a press -/

/-- The operation at a place of the input may be applied: no earlier one is for the same line (R463). -/
def State.pressReady (s : State) (k : Nat) : Option PressOp :=
  match s.pressQ[k]? with
  | some op => if (s.pressQ.take k).any fun o => o.line == op.line then none else some op
  | none => none

def State.takePress (s : State) (k : Nat) : State := { s with pressQ := dropAt s.pressQ k }

/-! ## Conversions (R117 step 3, R119 steps 3 and 4) -/

/-- BOTTLE: every element of the line is filled with its contents, and the line is corked (R117). -/
def State.bottleLine (s : State) (line : Nat) : State :=
  let l := s.line line
  s.setLine line { l with fillst := 0x55555555, cork := true, rack := false }

/-- The bytes of a line of bottoms of a type (R95, R119). -/
def bottomLine (typ : BitVec 4) (w : BitVec 2) : Nat → Nat
  | 0 => 0
  | k + 1 => latBottom typ (8 * wBytes w) + 2 ^ (8 * wBytes w) * bottomLine typ w k

/-- RECYCLE: the line gets the bottom of its new type, its states are cleared, its ring is saturated, its vintage
advances; it is no longer poisoned (R119, R123, R470, R523). -/
def State.recycleLine (s : State) (line : Nat) (typ : BitVec 4) (w : BitVec 2) (own : Bool) : State :=
  let l := s.line line
  let bytes : BitVec 1024 := if own then 0 else BitVec.ofNat 1024 (bottomLine typ w (128 / wBytes w))
  let s := { s with
    mem := putLine s.mem line bytes (BitVec.allOnes 128)
    rings := s.rings.filter fun r => r.line ≠ line
    lees := s.lees.filter fun r => r.line ≠ line
    poisoned := s.poisoned.filter fun p => p ≠ line
    snoop := s.snoop.filter fun p => p.1 / 2 ≠ line }
  s.setLine line { vint := l.vint + 1, ringst := 3 }

/-- A function of the lines of a page, first line first. -/
def overLines (f : State → Nat → State) (s : State) (line : Nat) : Nat → State
  | 0 => s
  | k + 1 => overLines f (f s line) (line + 1) k

/-- The snoop filter loses the sectors of a page before a conversion (R516). -/
def State.snoopPage (s : State) (ppn pages : Nat) : State :=
  { s with snoop := s.snoop.filter fun p => !decide (ppn ≤ p.1 / 1024 ∧ p.1 / 1024 < ppn + pages) }

end Sys2Proof.Machine
end

