-- ==== Sys2Proof/Machine/Translate.lean ====
section
/-! DEFINITION.
Translation (R347 to R354), access tables (R541, R542), the fault buffer (R356 to R358) and outstanding accesses (R370). -/

namespace Sys2Proof.Machine

open Sys2Proof

/-! ## Entries -/

/-- The physical address of an access through an entry (R348, R350). -/
def Tlb.pa (t : Tlb) (a : Word) : Nat :=
  if t.lg then t.ppn / 512 * 33554432 + a.toNat % 33554432 else t.ppn * 65536 + a.toNat % 65536

/-- Two entries cover a common page. -/
def Tlb.overlaps (t u : Tlb) : Bool :=
  if t.lg || u.lg then t.vpn / 512 == u.vpn / 512 else t.vpn == u.vpn

/-- The owner of the sub-page of an address (R354). -/
def Tlb.ownerAt (t : Tlb) (a : Word) : BitVec 16 :=
  if !t.lg && t.mask.getLsbD (a.toNat / 4096 % 16) then t.second else t.owner

/-- Decoding of the three doublewords of an entry (R349 to R351). -/
def tlbOf (tag map ownw : Word) : Tlb where
  vpn := (fld tag 0 37).toNat
  lg := fld tag 62 1 = 1
  ppn := (fld map 32 32).toNat
  cls := if fld map 30 2 = 0 then .own else if fld map 30 2 = 1 then .host else .lat
  typ := fld map 26 4
  width := fld map 24 2
  vint := fld map 16 8
  cork := fld map 15 1 = 1
  ret := fld map 14 1 = 1
  owner := fld ownw 48 16
  second := fld ownw 32 16
  mask := fld ownw 0 16

/-! ## Access tables (R541, R542) -/

/-- The rights of R542, as bit numbers. -/
def rRead : Nat := 0
def rWrite : Nat := 1
def rJoin : Nat := 2
def rWait : Nat := 3
def rCork : Nat := 4
def rCommand : Nat := 5

/-- The kinds of targets of R541, as bit numbers. -/
def kHome : Nat := 0
def kCore : Nat := 1
def kMem : Nat := 2
def kHost : Nat := 3
def kService : Nat := 4
def kDist : Nat := 5

/-- The kind of a window's endpoint (R541). -/
def winKind (ep : Nat) : Nat :=
  if isCompute ep then kCore else if isMemCore ep then kMem else if isService ep then kService
  else if ep < 1036 then kDist else kHost

/-- A master: an endpoint of a device, or this device's host port. -/
structure Master where
  dev : BitVec 10
  ep : Nat
  host : Bool
  deriving DecidableEq, Repr

/-- An entry admits a master, kind, target and right (R541). -/
def admits (dev : BitVec 10) (e : Word × Word) (m : Master) (kind target right : Nat) : Bool :=
  let w0 := e.1
  let w1 := e.2
  let msel := fld w0 61 2
  let who :=
    if fld w0 60 1 = 1 then m.host
    else !m.host &&
      (if msel = 0 then fld w0 50 10 == m.dev && (fld w0 39 11).toNat == m.ep
       else if msel = 1 then fld w0 50 10 == m.dev
       else if msel = 2 then m.dev == dev
       else true)
  fld w0 63 1 == 1 && who && w0.getLsbD (32 + kind) && w0.getLsbD (16 + right) &&
    (kind == kHost || (decide ((fld w1 0 32).toNat ≤ target) && decide (target < (fld w1 32 32).toNat)))

/-- At least one valid entry admits the access (R541). -/
def State.admitted (s : State) (m : Master) (kind target right : Nat) : Bool :=
  s.fab.access.any fun e => admits s.dev e.2 m kind target right

/-- The master of a core of this device. -/
def State.master (s : State) (ep : Nat) : Master := ⟨s.dev, ep, false⟩

/-- The right that an access to a page of a class needs (R542). -/
inductive Need where
  /-- a load, exact read or fetch -/
  | read
  /-- a store: a join on a LAT page -/
  | write
  | join
  | wait
  | cork
  deriving DecidableEq, Repr

def Need.right (n : Need) (c : Cls) : Nat :=
  match n with
  | .read => rRead
  | .write => if c = .lat then rJoin else rWrite
  | .join => rJoin
  | .wait => rWait
  | .cork => rCork

/-! ## Lookup (R352, R374) -/

/-- What a translating place answers. -/
inductive Look where
  | hit (t : Tlb)
  /-- to be ticketed, with the kind of R356: 0 miss, 1 collision, 3 retiring -/
  | miss (kind : BitVec 2)
  deriving DecidableEq, Repr

/-- A hit is checked for retirement and for the owner (R354, R374). -/
def checkHit (t : Tlb) (owner : BitVec 16) (a : Word) : Look :=
  if t.ret then .miss 3
  else if t.cls = .own ∧ t.ownerAt a ≠ owner then .miss 1
  else .hit t

/-- The L1 TLB of a core with an entry made most recent, at most 64 entries (R352). -/
def Core.fillTlb (c : Core) (t : Tlb) : Core :=
  { c with tlb := (t :: c.tlb.filter fun u => u ≠ t).take 64 }

/-- The entry that the cluster ring or the L2 TLB supplies (R352); the ring never supplies a retiring entry. -/
def State.clusterEntry (s : State) (ep vpn : Nat) : Option Tlb :=
  let cl := clusterOf ep
  let ring := (coresOf cl).findSome? fun e =>
    if e = ep then none else (s.core e).tlb.find? fun t => t.covers vpn && !t.ret
  match ring with
  | some t => some t
  | none => (s.cluster cl).l2.find? fun t => t.covers vpn

/-- The lookup of a compute core (R347, R352): its L1 TLB, then the ring and the L2 TLB, which fill the L1. -/
def State.lookup (s : State) (ep : Nat) (owner : BitVec 16) (a : Word) : State × Look :=
  match (s.core ep).tlb.find? fun t => t.covers (aVpn a) with
  | some t => (s.modCore ep fun c => c.fillTlb t, checkHit t owner a)
  | none =>
    match s.clusterEntry ep (aVpn a) with
    | some t => if t.ret then (s, .miss 3) else (s.modCore ep fun c => c.fillTlb t, checkHit t owner a)
    | none => (s, .miss 0)

/-- The lookup of an access that arrives from another device, of a memory core or of the host port: the L2 TLB of
cluster VPN mod 72 (R347, R478, R513). -/
def State.lookupL2 (s : State) (owner : Option (BitVec 16)) (a : Word) : Look :=
  match (s.cluster (aVpn a % 72)).l2.find? fun t => t.covers (aVpn a) with
  | some t =>
    -- a request of another device or of the host is refused by class first (R354)
    if t.ret ∧ (t.cls ≠ .own ∨ owner.isSome) then .miss 3
    else if t.cls = .own ∧ owner.any (fun o => t.ownerAt a ≠ o) then .miss 1
    else .hit t
  | none => .miss 0

/-- A translated access of this device: the entry and the physical address, a miss, or a denial by the access table. -/
inductive Tr where
  | ok (t : Tlb) (pa : Nat)
  | miss (kind : BitVec 2)
  | denied
  deriving DecidableEq, Repr

/-- A page of plain memory under its physical address, as a translation service core sees it (log 10). -/
def serviceEntry (ppn : Nat) : Tlb where
  vpn := ppn
  lg := false
  ppn := ppn
  cls := .host
  typ := 0
  width := 0
  vint := 0
  cork := false
  ret := false
  owner := 0
  second := 0
  mask := 0

/-- The lookup of a service core (log 10): the HOST and LAT entries of its cluster's L2 TLB; any other address is physical. -/
def State.serviceLook (s : State) (ep : Nat) (a : Word) : Tlb :=
  match (s.cluster (clusterOf ep)).l2.find? fun t => t.covers (aVpn a) && !t.ret && t.cls != .own with
  | some t => t
  | none => serviceEntry (a.toNat % 2 ^ 48 / 65536)

/-- The lookup of a core of this device (R347). -/
def State.look (s : State) (ep : Nat) (a : Word) : State × Look :=
  if isService ep then (s, .hit (s.serviceLook ep a)) else s.lookup ep (s.core ep).owner a

/-- Translation and then the access table (R75 steps 2 and 3, R101 steps 1 and 2). -/
def State.translate (s : State) (ep : Nat) (need : Need) (a : Word) : State × Tr :=
  let r := s.look ep a
  match r.2 with
  | .miss k => (r.1, .miss k)
  | .hit t =>
    if s.admitted (s.master ep) kHome (t.pa a / 65536) (need.right t.cls) then (r.1, .ok t (t.pa a))
    else (r.1, .denied)

/-! ## Outstanding accesses (R370, R177) -/

/-- The access holds or reserves an entry of the ticket table. -/
def Acc.entry (a : Acc) : Bool :=
  match a.stage with
  | .missed _ => true
  | .ticket .. => true
  | .frozen .. => true
  | .remote => true
  | .orphan => true
  | _ => false

/-- The access is in the ticket table: its translation has missed (R370). -/
def Acc.ticketed (a : Acc) : Bool := a.stage.kept

/-- The access has been denied, or its ticket answered by status 2 (R372, R545). -/
def Stage.isFrozen : Stage → Bool
  | .frozen .. => true
  | _ => false

/-- The stage of an access that is kept for the host, with the ticket that it held (R372, R545). -/
def Acc.frozenStage (a : Acc) : Stage :=
  match a.stage with
  | .ticket d c => .frozen d c
  | .frozen d c => .frozen d c
  | _ => .frozen (aDev a.va) 0

/-- Entries of the ticket table that are in use or reserved, in the order of their ages (R177, R370). -/
def Core.entries (c : Core) : List Nat := ((c.accs.filter Acc.entry).map (·.ent)).eraseDups
def Core.tickets (c : Core) : Nat := c.entries.length

/-- What one entry of the ticket table shows: its unperformed portions as one (R370). DESIGN CHOICE (log 147): slot k shows the k-th entry
in use, oldest first, so an entry moves down when an older one is freed. -/
def Core.entryAt (c : Core) (k : Nat) : Option Acc :=
  (c.entries[k]?).bind fun e =>
    let mine := c.accs.filter fun a => a.entry && a.ent == e
    (mine.find? fun a => a.stage.kept).map fun a => { a with
      len := if mine.length ≤ 1 then a.len else mine.foldl (fun (n : Nat) b => n + b.len) 0
      va := (mine.headD a).va
      doff := (mine.headD a).doff }

/-- There is room for n more portions (R177). -/
def Core.ticketRoom (c : Core) (n : Nat) : Bool := decide (c.tickets + n ≤ Config.nTickets)

/-- The 128-byte lines in which pieces lie. -/
def linesOf (cs : List (Word × Nat × Nat)) : Nat := ((cs.map fun c => c.1.toNat / 128).eraseDups).length

/-- Remote read requests outstanding of a core of device `dev`, by their line portions (R177, R226): one that holds a ticket counts
until its replay has been answered (log 132). -/
def Core.remotes (c : Core) (dev : BitVec 10) : Nat :=
  ((c.accs.filter fun a => a.op.remoteRead && aDev a.va != dev && (a.stage == .remote || a.stage.kept)).map
    fun a => linesOf a.chunks).foldl (· + ·) 0

/-- The ticket entry of a portion: the one of an earlier portion of the instruction on the same page, or its own (R370). -/
def Core.entFor (c : Core) (a : Acc) : Nat :=
  match c.accs.find? fun b => b.grp == a.grp && b.entry && a.entry && b.va.toNat / 65536 == a.va.toNat / 65536 with
  | some b => b.ent
  | none => c.nextAge

/-- An access is recorded with the next age; its group is the age of the instruction's first portion. -/
def State.addAcc (s : State) (ep : Nat) (a : Acc) : State :=
  s.modCore ep fun c => { c with
    accs := c.accs ++ [{ a with age := c.nextAge, ent := c.entFor a }], nextAge := c.nextAge + 1 }

/-- The access code of kfbinfo.ACC (R362): 0 read, 1 write or join, 2 fetch, 3 range. -/
def AccOp.acc : AccOp → BitVec 2
  | .load => 0 | .xld => 0 | .wait .. => 0 | .vload .. => 0 | .inner => 0
  | .fetch => 2
  | .range .. => 3
  | .copy d => if d then 1 else 0
  | _ => 1

/-- An access that missed is recorded and its request sent to the cluster's fault buffer (R357). -/
def State.addMissed (s : State) (ep : Nat) (a : Acc) (kind : BitVec 2) : State :=
  let age := (s.core ep).nextAge
  let s := s.addAcc ep { a with stage := .missed kind }
  s.post (.request (clusterOf ep) (s.dev, ep) (aVpn a.va) kind (s.core ep).owner (fld a.va 12 4) a.op.acc age)

/-- A denied access is kept, and its master is frozen with reason 6 (R543, R545). -/
def State.addDenied (s : State) (ep : Nat) (a : Acc) (reason : Nat) : State :=
  let s := s.addAcc ep { a with stage := .frozen (aDev a.va) 0 }
  s.freeze ep a.ctx a.va reason []

def State.findAcc (s : State) (ep age : Nat) : Option Acc := (s.core ep).accs.find? fun a => a.age = age
def State.dropAcc (s : State) (ep age : Nat) : State :=
  s.modCore ep fun c => { c with accs := c.accs.filter fun a => a.age ≠ age }
def State.setStage (s : State) (ep age : Nat) (st : Stage) : State :=
  s.modCore ep fun c => { c with accs := c.accs.map fun a => if a.age = age then { a with stage := st } else a }

/-! ## The fault buffer (R356 to R358) -/

/-- A ticket code (R358). -/
def ticketCode (unl : Bool) (cl slot : Nat) (gen : BitVec 5) : BitVec 16 :=
  bit unl ++ BitVec.ofNat 7 cl ++ BitVec.ofNat 3 slot ++ gen

def allSlots : List (Fin 8) := [0, 1, 2, 3, 4, 5, 6, 7]

/-- The slot that coalesces a request of kind 0, 1 or 3: same page, and the same kind or a conversion (R357). -/
def Cluster.slotFor (c : Cluster) (vpn : Nat) (kind : BitVec 2) : Option (Fin 8) :=
  allSlots.find? fun k =>
    let s := c.slots[k]
    s.st ≠ 0 && s.vpn == vpn && (s.kind == kind || s.kind == 2)

def Cluster.freeSlot (c : Cluster) : Option (Fin 8) := allSlots.find? fun k => c.slots[k].st == 0

/-- The requester's device is seen (R357). -/
def Cluster.see (c : Cluster) (dev own : BitVec 10) : Cluster :=
  if dev = own ∨ c.seen.contains dev then c else { c with seen := c.seen ++ [dev] }

/-- A ticketed request coalesces, allocates, or takes an unlisted ticket; the cluster and the ticket code (R357). -/
def Cluster.request (c : Cluster) (cl : Nat) (own : BitVec 10) (who : Requester) (vpn : Nat) (kind : BitVec 2)
    (team : BitVec 16) (sub : BitVec 4) (acc : BitVec 2) : Cluster × BitVec 16 :=
  let c := c.see who.1 own
  let unlisted : Cluster × BitVec 16 :=
    ({ c with drop := true, msgs := if c.drop ∨ c.msgs.contains .dropped then c.msgs else c.msgs ++ [.dropped] }, ticketCode true cl 0 0)
  match c.slotFor vpn kind with
  | some k =>
    let s := c.slots[k]
    if s.reqs.contains who then (c, ticketCode false cl k s.gen)
    else if s.reqs.length < 16 then
      ({ c with slots := c.slots.set k { s with reqs := s.reqs ++ [who] } }, ticketCode false cl k s.gen)
    else unlisted
  | none =>
    match c.freeSlot with
    | some k =>
      let gen := c.slots[k].gen + 1
      let s : Slot := { st := 1, vpn := vpn, kind := kind, gen := gen, team := team,
                        sub := if kind = 1 then sub else 0, acc := acc, reqs := [who] }
      ({ c with slots := c.slots.set k s, msgs := c.msgs ++ [.slot k] }, ticketCode false cl k gen)
    | none => unlisted

/-- A conversion of one of some pages is listed or in service, in any fault buffer of the device (R375). -/
def State.converting (s : State) (vpn pages : Nat) : Bool :=
  s.clusters.any fun c => allSlots.any fun k =>
    let x := c.2.slots[k]
    x.st ≠ 0 && x.kind == 2 && decide (x.vpn < vpn + pages ∧ vpn < x.vpn + x.lines / 512)

/-- A conversion request allocates its own slot when no conversion of the page is listed or in service and a slot of the cluster
is free; otherwise it waits (R375). -/
def State.convert (s : State) (cl : Nat) (who : Requester) (vpn lines : Nat) (team : BitVec 16) (map ownw : Word)
    (by_ : Party × Nat × Word) : Option Cluster :=
  let c := s.cluster cl
  match s.converting vpn (lines / 512), c.freeSlot with
  | false, some k =>
    let x : Slot := { st := 1, vpn := vpn, kind := 2, gen := c.slots[k].gen + 1, team := team, acc := 3, lines := lines,
                      reqs := [who], map := map, ownw := ownw, who := some by_ }
    some { c with slots := c.slots.set k x, msgs := c.msgs ++ [.slot k] }
  | _, _ => none

end Sys2Proof.Machine
end

