-- ==== Sys2Proof/Machine/Windows.lean ====
section
/-! DEFINITION.
Endpoint windows (R164, R165, R169, R370, R421, R468, R485, R486, R510, R535): what a read of each offset gives and what a
store to it does, and full/empty words of synchronised scratchpad (R273 to R275). -/

namespace Sys2Proof.Machine

open Sys2Proof

/-- A piece of an access: address, place in the register, bytes. -/
abbrev Chunk := Word × Nat × Nat

/-- The ranges [a, a + n) and [b, b + m) overlap. -/
def overlap (a n b m : Nat) : Bool := decide (a < b + m ∧ b < a + n ∧ 0 < n ∧ 0 < m)

/-! ## Full/empty words -/

/-- The words of [off, off + n) with an active byte, as offsets, first word first; `mask` bit i is byte off + i. -/
def maskWords (off n mask : Nat) : List Nat :=
  ((List.range ((off % 4 + n + 3) / 4)).map fun k => off / 4 * 4 + 4 * k).filter fun w =>
    (List.range 4).any fun b => decide (off ≤ w + b ∧ w + b < off + n) && (mask / 2 ^ (w + b - off) % 2 == 1)

/-- Every byte of a word is active. -/
def wordWhole (off n mask w : Nat) : Bool :=
  (List.range 4).all fun b => decide (off ≤ w + b ∧ w + b < off + n) && (mask / 2 ^ (w + b - off) % 2 == 1)

/-- The first active word of a piece that is empty. -/
def Core.emptyWord (c : Core) (off n mask : Nat) : Option Nat :=
  (maskWords off n mask).find? fun w => c.isSync w && !c.isFull w

/-- Words become full. -/
def Core.fillWords (c : Core) (ws : List Nat) : Core :=
  { c with
    full := ws.foldl (fun (l : List Nat) w => if c.isSync w then insertNat l (w / 4) else l) c.full
    fills := c.fills + (ws.filter c.isSync).length }

/-- Words become empty; the data stay (R274). -/
def Core.emptyWords (c : Core) (ws : List Nat) : Core :=
  { c with full := c.full.filter fun f => !ws.any fun w => w / 4 == f }

/-- How a scratchpad write is refused: offset and cause 24, or the full word and cause 25 (R275). -/
inductive PadBad where
  | partialWord (off : Nat)
  | full (off : Nat)
  deriving DecidableEq, Repr

/-- The check of one piece of a write to a scratchpad bank (R275). -/
def Core.padCheck (c : Core) (off n mask : Nat) : Option PadBad :=
  let ws := (maskWords off n mask).filter c.isSync
  match ws.find? fun w => !wordWhole off n mask w with
  | some w => some (.partialWord w)
  | none => (ws.find? c.isFull).map .full

/-- A word of which some piece of a write has an active byte, and whether all its bytes are active (R275). -/
def pieceWords (ps : List (Nat × Nat × Nat)) : List Nat :=
  (sortBy id (ps.flatMap fun p => maskWords p.1 p.2.1 p.2.2)).eraseDups
def piecesWhole (ps : List (Nat × Nat × Nat)) (w : Nat) : Bool :=
  (List.range 4).all fun b => ps.any fun p =>
    decide (p.1 ≤ w + b ∧ w + b < p.1 + p.2.1) && (p.2.2 / 2 ^ (w + b - p.1) % 2 == 1)

/-- The check of the pieces of a write to a scratchpad bank, by the words that their active bytes cover together: the lowest word that
is covered in part, else the lowest full one (R275). -/
def Core.piecesCheck (c : Core) (ps : List (Nat × Nat × Nat)) : Option PadBad :=
  let ws := (pieceWords ps).filter c.isSync
  match ws.find? fun w => !piecesWhole ps w with
  | some w => some (.partialWord w)
  | none => (ws.find? c.isFull).map .full

/-- The pieces of a write enter the scratchpad in their order, and their words are filled (R229: a later segment wins a byte). -/
def Core.putPieces (c : Core) (ps : List (Nat × Nat × Nat × Nat)) : Core :=
  let at_ := ps.map fun p => (p.1, p.2.1, p.2.2.2)
  { c with
    pad := ps.foldl (fun (m : List Host.Cell) (p : Nat × Nat × Nat × Nat) => writeMasked m p.1 p.2.1 p.2.2.1 p.2.2.2) c.pad
    padErr := c.padErr.filter fun w => !piecesWhole at_ w }.fillWords (pieceWords at_)

/-- Words that byte ranges write whole hold no error any more (R523). -/
def Core.mendPad (c : Core) (rs : List (Nat × Nat)) : Core :=
  { c with padErr := c.padErr.filter fun w => !rs.any fun r => decide (r.1 ≤ w ∧ w + 4 ≤ r.1 + r.2) }

/-- Bytes are written into the canopy. -/
def Core.putCanopy (c : Core) (o n v : Nat) : Core :=
  { c with
    canopy := writeRange c.canopy o n v
    canErr := c.canErr.filter fun w => !decide (o ≤ w ∧ w + 4 ≤ o + n) }

/-- The write of one piece, with its words filled. -/
def Core.padWrite (c : Core) (off n data mask : Nat) : Core :=
  { c with
    pad := writeMasked c.pad off n data mask
    padErr := c.padErr.filter fun w => !wordWhole off n mask w }.fillWords (maskWords off n mask)

/-! ## Register images (R164) -/

/-- 64 bits of a 4096-bit register. -/
def vDw (v : BitVec 4096) (j : Nat) : Word := fld v (64 * j) 64

/-- A vector register with one doubleword replaced. -/
def vSetDw (v : BitVec 4096) (j : Nat) (w : Word) : BitVec 4096 :=
  let k : BitVec 4096 := (BitVec.allOnes 64).zeroExtend 4096 <<< (64 * j)
  (v &&& ~~~k) ||| (w.zeroExtend 4096 <<< (64 * j))

def mSetDw (m : BitVec 512) (j : Nat) (w : Word) : BitVec 512 :=
  let k : BitVec 512 := (BitVec.allOnes 64).zeroExtend 512 <<< (64 * j)
  (m &&& ~~~k) ||| (w.zeroExtend 512 <<< (64 * j))

/-- What a register image offset names. -/
inductive Img where
  | v (r : Reg) (dw : Nat)
  | x (r : Reg)
  /-- f registers r and r + 1 -/
  | f (r : Reg)
  | fcsr
  | pc
  | m (k : BitVec 3) (dw : Nat)
  deriving DecidableEq, Repr

/-- The register and context at an 8-byte offset of the register-image regions (R164). -/
def imgAt (off : Nat) : Option (Nat × Img) :=
  if 0x400000 ≤ off ∧ off < 0x400000 + 11 * 0x4000 then
    let o := off - 0x400000
    some (o / 0x4000, .v (BitVec.ofNat 5 (o % 0x4000 / 0x200)) (o % 0x200 / 8))
  else if 0x600000 ≤ off ∧ off < 0x600000 + 11 * 0x400 then
    let n := (off - 0x600000) / 0x400
    let o := (off - 0x600000) % 0x400
    if o < 0x100 then some (n, .x (BitVec.ofNat 5 (o / 8)))
    else if o < 0x180 then some (n, .f (BitVec.ofNat 5 ((o - 0x100) / 4)))
    else if o = 0x180 then some (n, .fcsr)
    else if o = 0x188 then some (n, .pc)
    else if 0x200 ≤ o then some (n, .m (BitVec.ofNat 3 ((o - 0x200) / 64)) ((o - 0x200) % 64 / 8))
    else none
  else none

/-- A vector register is bound to a stream (R235). -/
def Ctx.bound (x : Ctx) (r : Reg) : Option Stream := mget x.streams r.toNat

/-- A read of a register image; a retired context reads as zero (R31), a bound stream register as zero (R235). -/
def Ctx.img (x : Ctx) (i : Img) : Word :=
  if !x.alive then 0 else
  match i with
  | .v r dw => if (x.bound r).isSome then 0 else vDw (x.rv r) dw
  | .x r => x.rx r
  | .f r => x.rf (r + 1) ++ x.rf r
  | .fcsr => x.csr.fcsr.zeroExtend 64
  | .pc => x.nextPc
  | .m k dw => fld (x.rm k) (64 * dw) 64

/-- A store to a register image; none where R165 or R235 refuses it. -/
def Ctx.putImg (x : Ctx) (i : Img) (w : Word) : Option Ctx :=
  match i with
  | .pc => none
  | .v r dw => if (x.bound r).isSome then none else if !x.alive then some x else some (x.wv r (vSetDw (x.rv r) dw w))
  | .x r => if !x.alive then some x else some (x.wx r w)
  | .f r => if !x.alive then some x else some ((x.wf r (fld w 0 32)).wf (r + 1) (fld w 32 32))
  | .fcsr => if !x.alive then some x else some { x with csr := { x.csr with fcsr := fld w 0 8 } }
  | .m k dw => if !x.alive then some x else some (x.wm k (mSetDw (x.rm k) dw w))

/-- The registers that an access to the bytes of a mask of an image names, as destinations (R166). -/
def Img.dsts (i : Img) (mask : Nat) : List Dst :=
  if mask % 256 = 0 then []
  else match i with
  | .v r _ => [.v r]
  | .x r => [.x r 8 false]
  | .f r => (if mask % 16 = 0 then [] else [.f r]) ++ (if mask / 16 % 16 = 0 then [] else [.f (r + 1)])
  | .m k _ => [.m (k.zeroExtend 5)]
  | _ => []

/-- Two destinations name one register. -/
def Dst.sameReg : Dst → Dst → Bool
  | .x r _ _, .x q _ _ => r == q
  | .tok r, .x q _ _ => r == q
  | .x r _ _, .tok q => r == q
  | .tok r, .tok q => r == q
  | .f r, .f q => r == q
  | .v r, .v q => r == q
  | .m r, .m q => r == q
  | _, _ => false

/-- A register of a context is busy in the scoreboard (R76). -/
def Core.busy (c : Core) (n : Fin 11) (d : Dst) : Bool :=
  (c.accs.any fun a => a.ctx == n && a.dst.sameReg d) ||
    ((c.ctx n).busyX.any fun r => (Dst.tok r).sameReg d) ||
    -- the destination of a queued MRD (R253)
    c.mq.any fun q => q.ctx == n && (match q.instr with
      | .mrd rd _ _ => (Dst.v rd).sameReg d
      | _ => false)

/-- A mapped access of `n` bytes at an offset names a busy register of a context that `who` admits (R166). -/
def Core.imgBusy (c : Core) (who : Fin 11 → Bool) (off n mask : Nat) : Bool :=
  (List.range ((off % 8 + n + 7) / 8)).any fun k =>
    match imgAt (off / 8 * 8 + 8 * k) with
    | some (m, i) => if h : m < 11 then
        who ⟨m, h⟩ && (i.dsts (mask % 2 ^ n * 2 ^ (off % 8) / 2 ^ (8 * k) % 256)).any fun d => c.busy ⟨m, h⟩ d
      else false
    | none => false

/-! ## Core windows -/

/-- The report area of a context, one doubleword (R146); offsets that the header does not list read as zero. -/
def Reports.dw (r : Reports) (o : Nat) : Word :=
  if o < 0x40 then
    match o with
    | 0x00 => r.head.zeroExtend 64
    | 0x08 => r.tail.zeroExtend 64
    | 0x10 => 0#25 ++ r.lcause ++ r.lost
    | 0x18 => r.resume
    | 0x20 => bit r.dv ++ 0#55 ++ r.dkind ++ r.dreg
    | _ => 0
  else if o < 0x440 then (mgetD r.slots ((o - 0x40) / 64) []).getD ((o - 0x40) % 64 / 8) 0
  else 0

/-- A write of RTAIL consumes records unless it would leave the bounds (R147). -/
def Reports.setTail (r : Reports) (v : BitVec 32) : Reports :=
  if (r.head - v).toNat ≤ 16 then { r with tail := v } else r

/-- A doubleword with the bytes of a mask replaced. -/
def mergeDw (old new : Word) (mask : Nat) : Word :=
  let k : Word := BitVec.ofNat 64 (spreadNat 8 mask)
  (old &&& ~~~k) ||| (new &&& k)

/-- A store to the report area: RTAIL, LOST, and LCAUSE by writing ones; the rest ignores writes, and so do the bytes that are not
stored (R146). -/
def Reports.putDw (r : Reports) (o : Nat) (w : Word) (mask : Nat) : Reports :=
  if o = 0x08 then (if mask % 16 = 0 then r else r.setTail (fld (mergeDw (r.dw o) w mask) 0 32))
  else if o = 0x10 then
    let clear : BitVec 7 := if mask / 16 % 2 = 1 then fld w 32 7 else 0
    { r with lost := fld (mergeDw (r.dw o) w mask) 0 32, lcause := r.lcause &&& ~~~clear }
  else r

/-- The OP code of a ticket entry (R370). -/
def AccOp.code : AccOp → BitVec 6
  | .load => 0 | .store => 1 | .xld => 2 | .join => 3
  | .wait form _ _ => if form = .acq then 5 else 4
  | .rel _ => 6 | .fold .. => 7 | .joinm => 8
  | .vload .. => 9 | .vstore .. => 10 | .vfold .. => 11
  | .copy _ => 12 | .range .. => 13 | .fetch => 14 | .inner => 15 | .amxjoin => 16 | .vstf => 10

/-- The page-fault cause of a failed replay (R370). -/
def AccOp.pageFault : AccOp → BitVec 6
  | .load => 13 | .xld => 13 | .wait .. => 13 | .vload .. => 13 | .inner => 13
  | .fetch => 12
  | .copy d => if d then 15 else 13
  | _ => 15

/-- DKIND of R370. -/
def Dst.kind : Dst → BitVec 3
  | .x .. => 0 | .f _ => 1 | .v _ => 2 | .m _ => 3 | .none => 4 | .tok _ => 5

/-- The store data of a portion as the table shows it (R370): the fold value and the value of a REL are held in the operation. -/
def Acc.shown (a : Acc) : BitVec 4096 :=
  match a.op with
  | .fold _ _ v _ _ _ => v.zeroExtend 4096
  | .rel v => v.zeroExtend 4096
  | _ => (a.data >>> (8 * a.doff)) &&& vregBits (maskRun 512 0 a.len)

/-- One doubleword of a ticket-table entry (R370); `a.len` bytes of 1 to 65,536 are encoded as they stand, and MASKB and DATA show the
portion's bytes alone. -/
def Acc.dw (a : Acc) (o : Nat) : Word :=
  let tc : Bool × BitVec 10 × BitVec 16 := match a.stage with
    | .ticket d c => (true, d, c)
    | .frozen d c => (true, d, c)
    | _ => (false, 0, 0)
  if !tc.1 then 0
  else match o with
    | 0x00 => 1#1 ++ BitVec.ofNat 4 a.ctx.val ++ a.op.code ++ tc.2.1 ++ 0#11 ++ tc.2.2 ++ BitVec.ofNat 16 a.ent
    | 0x08 => a.va
    | 0x10 => a.pc
    | 0x18 => 0#15 ++ BitVec.ofNat 17 a.len ++ 0#14 ++ a.dst.kind ++ a.dst.defer.2.2 ++ 0#1 ++ BitVec.ofNat 9 a.doff
    | 0x20 => a.src
    | _ =>
      if 0x40 ≤ o ∧ o < 0x80 then fld ((a.mask >>> a.doff) &&& maskRun 512 0 a.len) (8 * (o - 0x40)) 64
      else if 0x200 ≤ o ∧ o < 0x400 then vDw a.shown ((o - 0x200) / 8)
      else 0

/-- The doubleword at an 8-byte offset of a core window outside the scratchpad (R164, R165, R169, R370);
none where the offset is refused. -/
def Core.winDw (c : Core) (ep : Nat) (sys : Bool) (off : Nat) : Option Word :=
  match imgAt off with
  | some (n, i) => if h : n < 11 then (if n ≤ c.hmax ∧ isCompute ep then some ((c.ctx ⟨n, h⟩).img i) else none) else none
  | none =>
    if 0x700000 ≤ off ∧ off < 0x780000 then
      let k := (off - 0x700000) / 4
      if c.mx then some (mgetD c.z (k + 1) 0 ++ mgetD c.z k 0) else none
    else if 0x800000 ≤ off ∧ off < 0x800200 then
      let o := off - 0x800000
      let ch : Fin 8 := ⟨o / 0x40 % 8, Nat.mod_lt _ (by decide)⟩
      if c.aqb = 0 then none
      else match o % 0x40 with
        | 0x00 => some (w64 (c.chans[ch]).length)
        | 0x08 => some (w64 (16 * c.aqb))
        | 0x10 => some (c.disc[ch].zeroExtend 64)
        | _ => none
    else if 0x902000 ≤ off ∧ off < 0x906000 then
      if !sys then none
      else
        let k := (off - 0x902000) / 0x400
        match c.entryAt k with
        | some a => some (a.dw ((off - 0x902000) % 0x400))
        | none => some 0
    else if 0x908000 ≤ off ∧ off < 0x908000 + 11 * 0x800 then
      let n := (off - 0x908000) / 0x800
      if !sys then none
      else if h : n < 11 then some ((c.ctx ⟨n, h⟩).rep.dw ((off - 0x908000) % 0x800)) else none
    else none

/-- A store to an 8-byte offset of a core window outside the scratchpad, under a byte mask: the core, or refused, or
waiting for a busy register (R165, R166). -/
inductive WinPut where
  | ok (c : Core)
  | bad
  | busy
  deriving DecidableEq, Repr

def Core.winPut (c : Core) (ep : Nat) (sys : Bool) (off : Nat) (w : Word) (mask : Nat) : WinPut :=
  match imgAt off with
  | some (n, i) =>
    if h : n < 11 then
      let n' : Fin 11 := ⟨n, h⟩
      if ¬ (n ≤ c.hmax ∧ isCompute ep) then .bad
      else if (i.dsts mask).any fun d => c.busy n' d then .busy
      else match (c.ctx n').putImg i (mergeDw ((c.ctx n').img i) w mask) with
        | some x => .ok (c.setCtx n' x)
        | none => .bad
    else .bad
  | none =>
    if 0x700000 ≤ off ∧ off < 0x780000 then
      let k := (off - 0x700000) / 4
      let v := mergeDw (mgetD c.z (k + 1) 0 ++ mgetD c.z k 0) w mask
      if c.mx then .ok { c with z := mput (mput c.z k (fld v 0 32)) (k + 1) (fld v 32 32) } else .bad
    else if 0x908000 ≤ off ∧ off < 0x908000 + 11 * 0x800 then
      let n := (off - 0x908000) / 0x800
      if h : n < 11 then
        let x := c.ctx ⟨n, h⟩
        if sys then .ok (c.setCtx ⟨n, h⟩ { x with rep := x.rep.putDw ((off - 0x908000) % 0x800) w mask }) else .bad
      else .bad
    else .bad

/-! ## The other windows -/

/-- Status doublewords of a memory core's window (R468, R486). -/
def State.mcDw (s : State) (e : Nat) (sys : Bool) (off : Nat) : Option Word :=
  let m := s.mc e
  let n := e - 576
  let stCode : BitVec 3 := match m.st with
    | .free => 0 | .leased => 1 | .running => 2 | .releasing => 3 | .draining => 4 | .held => 5
  if !sys then none
  else match off with
    | 0x100000 => some (stCode ++ 0#13 ++ m.team ++ m.count ++ 0#4 ++ BitVec.ofNat 12 m.pc)
    | 0x100008 => some m.faddr
    | 0x100010 => some (m.ecorr.zeroExtend 64)
    | 0x200000 => some ((s.stat n).fillcnt ++ (s.stat n).latecnt)
    | 0x200008 => some (s.stat n).lastlate
    | 0x200010 =>
      let use := (s.regs.filter fun r => homeSlice r.line = n && r.table).length
      let rings := (s.rings.filter fun r => homeSlice r.line = n).length
      some (0#16 ++ BitVec.ofNat 16 use ++ 0#16 ++ BitVec.ofNat 16 rings)
    | 0x200018 => some (w64 (s.cycle / 2))
    | _ => none

/-- The status block of a distributor queue (R421). -/
def State.distDw (s : State) (d : Nat) (off : Nat) : Option Word :=
  if h : off / 0x40 < 16 then
    let q : Fin 16 := ⟨off / 0x40, h⟩
    let recs := (s.dist d).queues[q]
    match off % 0x40 with
    | 0x00 => some (w64 recs.length)
    | 0x08 => some (match recs.head? with | some t => t.f[1] | none => BitVec.allOnes 64)
    | 0x10 => some ((s.dist d).drops[q] ++ (s.dist d).lates[q])
    | _ => none
  else none

/-- A 64-bit row of a bitmap of enabled units. -/
def mapDw (on : Nat → Bool) (first : Nat) : Word :=
  BitVec.ofNat 64 ((List.range 64).foldl (fun (v : Nat) i => if on (first + i) then v + 2 ^ i else v) 0)

/-- A pseudo-channel in service (R509, R524). -/
def State.pchOn (s : State) (n : Nat) : Bool := decide (n < Config.nSlices) && !s.pkg.badPch.contains n

/-- The package control block (R510). -/
def State.pkgDw (s : State) (off : Nat) : Option Word :=
  let p := s.pkg
  let count (n first : Nat) (on : Nat → Bool) : Nat := ((List.range n).filter fun i => on (first + i)).length
  if off ≥ 0x1000 then none
  else some <|
    match off with
    | 0x000 => 0#20 ++ p.boot ++ 1#4 ++ bit p.rreq ++ bit p.ttrip ++ p.throt ++ BitVec.ofNat 16 (p.log.filter s.unitOff).length ++ 0#16
    | 0x008 => if p.tested then
        0#22 ++ BitVec.ofNat 10 (count 576 0 s.coreOn) ++ 0#7 ++ BitVec.ofNat 9 (count 384 576 s.mcOn) ++ 0#7 ++
          BitVec.ofNat 9 s.slices.length
      else 0
    | 0x010 => p.t1size
    | 0x018 => p.ethr.zeroExtend 64
    | 0x080 => 0#16 ++ p.pavg ++ 0#4 ++ p.pcap ++ 0#16
    | 0x088 => p.temps[3] ++ p.temps[2] ++ p.temps[1] ++ p.temps[0]
    | 0x200 => p.hsqBase
    | 0x208 => w64 p.hsqLog
    | 0x210 => p.htail.zeroExtend 64
    | 0x218 => p.hseq.zeroExtend 64
    | 0x220 => p.deqBase
    | 0x228 => w64 p.deqLog
    | 0x230 => p.dcons.zeroExtend 64
    | 0x238 => p.dseq.zeroExtend 64
    | 0x240 => p.imgBase
    | 0x248 => w64 p.imgN
    | 0x250 => p.hvBase
    | 0x258 => p.bootImg
    | _ =>
      if h : 0x020 ≤ off ∧ off < 0x080 then
        let v := p.t2len[(off - 0x020) / 8]'(by omega)
        v.zeroExtend 64
      else if 0x100 ≤ off ∧ off < 0x148 then (if p.tested then mapDw (fun e => s.coreOn e) ((off - 0x100) * 8) else 0)
      else if 0x180 ≤ off ∧ off < 0x1B0 then (if p.tested then mapDw (fun e => s.mcOn (576 + e)) ((off - 0x180) * 8) else 0)
      else if 0x1C0 ≤ off ∧ off < 0x1F0 then (if p.tested then mapDw s.pchOn ((off - 0x1C0) * 8) else 0)
      else 0

/-- The fabric configuration block, relative to its start (R536); FKEY reads zero (R535). -/
def State.fabDw (s : State) (o : Nat) : Option Word :=
  let f := s.fab
  if o ≥ 0xA000 then none
  else some <|
    if o = 0x10 then bit f.aen ++ 0#53 ++ f.dev
    else if o = 0x18 then 0#16 ++ f.rtbase ++ 0#6
    else if o = 0x20 then w64 f.rtn
    else if o = 0x28 then f.viol.zeroExtend 64
    else if o = 0x30 then f.drops.zeroExtend 64
    else if 0x100 ≤ o ∧ o < 0x2100 then
      (mgetD f.portBits ((o - 0x100) / 8) 0).zeroExtend 64
    else if 0x4000 ≤ o ∧ o < 0x5000 then
      let e := mgetD f.tokens ((o - 0x4000) / 16) (0, 0)
      if o % 16 = 0 then e.1 else e.2
    else if 0x8000 ≤ o then
      let e := mgetD f.access ((o - 0x8000) / 16) (0, 0)
      if o % 16 = 0 then e.1 else e.2
    else 0

/-- A doubleword of the block before a store: a partial store of the key keeps its other bytes, which no read shows (R535). -/
def State.fabOld (s : State) (o : Nat) : Word :=
  if o = 0x00 then fld s.fab.fkey 0 64 else if o = 0x08 then fld s.fab.fkey 64 64 else (s.fabDw o).getD 0

/-- A write to RTBASE or RTN (R536). -/
def Fabric.setRegion (f : Fabric) (rtn : Bool) (v : Word) : Fabric :=
  if rtn then { f with rtn := min (fld v 0 17).toNat 65536 } else { f with rtbase := fld v 6 42 }

/-- A write to DEV, accepted only while AEN is 0; AEN takes the written bit (R536). -/
def Fabric.setDev (f : Fabric) (v : Word) : Fabric :=
  { f with dev := if f.aen then f.dev else fld v 0 10, aen := fld v 63 1 = 1 }

/-- The fields of an access-table word that are RW (R541). -/
def accessMask : Word := 0xFFFFFFBF003F0000

/-- A store by service core 960 to the fabric configuration block (R535, R536). -/
def Fabric.put (f : Fabric) (o : Nat) (v : Word) : Fabric :=
  if o = 0x00 then { f with fkey := fld f.fkey 64 64 ++ v }
  else if o = 0x08 then { f with fkey := v ++ fld f.fkey 0 64 }
  else if o = 0x10 then f.setDev v
  else if o = 0x18 then f.setRegion false v
  else if o = 0x20 then f.setRegion true v
  else if 0x100 ≤ o ∧ o < 0x2100 then
    let d := (o - 0x100) / 8
    let f := { f with portBits := mput f.portBits d (fld v 0 8 &&& 0xBF) }
    if h : fld v 7 1 = 1 ∧ (fld v 0 6).toNat < 36 then { f with ports := mput f.ports d ⟨(fld v 0 6).toNat, h.2⟩ }
    else { f with ports := mdel f.ports d }
  else if 0x4000 ≤ o ∧ o < 0x5000 then
    let k := (o - 0x4000) / 16
    let e := mgetD f.tokens k (0, 0)
    { f with tokens := mput f.tokens k (if o % 16 = 0 then (v, e.2) else (e.1, v &&& 0x8000000003FF000F)) }
  else if 0x8000 ≤ o ∧ o < 0xA000 then
    let k := (o - 0x8000) / 16
    let e := mgetD f.access k (0, 0)
    { f with access := mput f.access k (if o % 16 = 0 then (v &&& accessMask, e.2) else (e.1, v)) }
  else f

/-! ## All windows -/

/-- The outcome of a window read. -/
inductive WinRead where
  | ok (v : Nat)
  /-- cause 24, with the offset of the first active byte that is refused -/
  | bad (off : Nat)
  /-- an empty word, by its offset -/
  | empty (off : Nat)
  deriving DecidableEq, Repr

/-- The doubleword at an 8-byte offset of any window but scratchpad; `sys`: a system-level master (R559). -/
def State.winDw (s : State) (ep : Nat) (sys : Bool) (off : Nat) : Option Word :=
  if isCompute ep then (if s.coreOn ep then (s.core ep).winDw ep sys off else none)
  else if isMemCore ep then (if s.mcOn ep then s.mcDw ep sys off else none)
  else if ep = 960 then
    (if sys ∧ 0x100000 ≤ off ∧ off < 0x10A000 then s.fabDw (off - 0x100000) else none)
  else if 1032 ≤ ep ∧ ep < 1036 then s.distDw (ep - 1032) off
  else if ep = 1036 then (if sys then s.pkgDw off else none)
  else none

/-- The first active byte of a piece that does not lie below an offset; the mask's bit 0 is the piece's first byte. -/
def firstActive (off n mask lo : Nat) : Nat :=
  ((((List.range n).filter fun i => decide (lo ≤ off + i) && (mask / 2 ^ i % 2 == 1)).head?).map (off + ·)).getD (max lo off)

/-- The doublewords from an 8-byte offset, `k` of them, as one number, or the offset of the first one that is refused; one without an
active byte is not accessed (R206). -/
def State.winDws (s : State) (ep : Nat) (sys : Bool) (off mask : Nat) : Nat → Except Nat Nat
  | 0 => .ok 0
  | k + 1 =>
    match (if mask % 256 = 0 then some 0 else s.winDw ep sys off) with
    | none => .error off
    | some w =>
      match s.winDws ep sys (off + 8) (mask / 256) k with
      | .ok r => .ok (w.toNat + 2 ^ 64 * r)
      | .error o => .error o

/-- A read of one aligned piece of a window, of which the bytes of a mask are active (R165, R206). -/
def State.winRead (s : State) (ep : Nat) (sys : Bool) (off n mask : Nat) : WinRead :=
  let c := s.core ep
  if isCompute ep && s.coreOn ep && decide (off < c.padSize) then
    if off + n ≤ c.padSize then
      match c.emptyWord off n mask with
      | some w => .empty w
      | none => .ok (readNat c.pad off n)
    else .bad (firstActive off n mask c.padSize)
  else
    let sh := off % 8
    match s.winDws ep sys (off / 8 * 8) (mask % 2 ^ n * 2 ^ sh) ((sh + n + 7) / 8) with
    | .ok v => .ok (v / 2 ^ (8 * sh) % 2 ^ (8 * n))
    | .error o => .bad (firstActive off n mask o)

/-- The outcome of a window write. -/
inductive WinWrite where
  | ok (s : State)
  | bad (off : Nat)
  | full (off : Nat)
  | busy
  deriving DecidableEq, Repr

/-- A store of one doubleword outside scratchpad. `by960`: the master is service core 960. -/
def State.winPutDw (s : State) (ep : Nat) (sys by960 : Bool) (off : Nat) (w : Word) (mask : Nat) : WinWrite :=
  if isCompute ep ∧ s.coreOn ep then
    match (s.core ep).winPut ep sys off w mask with
    | .ok c => .ok (s.setCore ep c)
    | .bad => .bad off
    | .busy => .busy
  else if isMemCore ep then
    let m := s.mc ep
    if s.mcOn ep ∧ off < 0x8000 ∧ sys ∧ m.st = .free then
      let k := off / 8
      .ok (s.setMc ep { m with
        imem := mput m.imem k (mergeDw (mgetD m.imem k 0) w mask), bad := m.bad.filter fun b => b ≠ k })
    else .bad off
  else if ep = 960 ∧ by960 ∧ 0x100000 ≤ off ∧ off < 0x10A000 then
    let o := off - 0x100000
    .ok { s with fab := s.fab.put o (mergeDw (s.fabOld o) w mask) }
  else .bad off

/-- Stores of the doublewords of a piece, first to last. -/
def State.winPutDws (s : State) (ep : Nat) (sys by960 : Bool) (off v mask : Nat) : Nat → WinWrite
  | 0 => .ok s
  | k + 1 =>
    let r := if mask % 256 = 0 then .ok s else s.winPutDw ep sys by960 off (BitVec.ofNat 64 v) (mask % 256)
    match r with
    | .ok s => s.winPutDws ep sys by960 (off + 8) (v / 2 ^ 64) (mask / 256) k
    | r => r

/-- A write of one aligned piece of a window under a byte mask (R165, R275). -/
def State.winPut (s : State) (ep : Nat) (sys by960 : Bool) (off n data mask : Nat) : WinWrite :=
  let c := s.core ep
  if isCompute ep && s.coreOn ep && decide (off < c.padSize) then
    if off + n ≤ c.padSize then
      match c.padCheck off n mask with
      | some (.partialWord w) => .bad w
      | some (.full w) => .full w
      | none => .ok (s.setCore ep (c.padWrite off n data mask))
    else .bad off
  else
    let sh := off % 8
    -- a refusal names the first active byte of the access in the doubleword that is refused (R165)
    match s.winPutDws ep sys by960 (off / 8 * 8) (data * 2 ^ (8 * sh)) (mask % 2 ^ n * 2 ^ sh) ((sh + n + 7) / 8) with
    | .bad o => .bad (firstActive off n mask o)
    | r => r

/-- A window write of several pieces of one bank or one line: offset, bytes, data and mask of each. Pieces in scratchpad are checked
together before any is written (R275). -/
def State.winPuts (s : State) (ep : Nat) (sys by960 : Bool) (ps : List (Nat × Nat × Nat × Nat)) : WinWrite :=
  let c := s.core ep
  if isCompute ep && s.coreOn ep && ps.all fun p => decide (p.1 + p.2.1 ≤ c.padSize) then
    match c.piecesCheck (ps.map fun p => (p.1, p.2.1, p.2.2.2)) with
    | some (.partialWord w) => .bad w
    | some (.full w) => .full w
    | none => .ok (s.setCore ep (c.putPieces ps))
  else ps.foldl (fun (r : WinWrite) p =>
      match r with
      | .ok s => s.winPut ep sys by960 p.1 p.2.1 p.2.2.1 p.2.2.2
      | r => r) (.ok s)

end Sys2Proof.Machine
end

