-- ==== Sys2Proof/Machine/Memory.lean ====
section
/-! DEFINITION.
Memory as a core's accesses reach it: the combining buffer and its predictor (R174 to R176), router and gateway combining (R385, R548),
dirty OWN lines and LAT copies of the L1 (R126, R301), and poisoned lines (R523). -/

namespace Sys2Proof.Machine

open Sys2Proof

/-! ## The contention predictor (R176) -/

/-- The counter of a line. -/
def Core.heat (c : Core) (line : Nat) : BitVec 2 := ((c.pred.find? fun p => p.1 = line).map (·.2)).getD 0

/-- A merge raises the counter; a departure with one contribution lowers it. Tags are replaced least recently used. -/
def Core.warm (c : Core) (line : Nat) (up : Bool) : Core :=
  let h := c.heat line
  let rest := c.pred.filter fun p => p.1 ≠ line
  if up then { c with pred := ((line, if h = 3 then 3 else h + 1) :: rest).take 32 }
  else if rest.length = c.pred.length then c
  else { c with pred := ((line, if h = 0 then 0 else h - 1) :: rest).take 32 }

/-! ## The way of a join to its press (R384, R385) -/

/-- Two joined values of a line merged by element (R174, R385); none where a FILL value differs. -/
def mergeJoins (typ : BitVec 4) (w : BitVec 2) (va : BitVec 128) (da : BitVec 1024) (vb : BitVec 128) (db : BitVec 1024) :
    Option (BitVec 128 × BitVec 1024) :=
  let n := wBytes w
  (activeOffs n vb).foldl (fun (r : Option (BitVec 128 × BitVec 1024)) off =>
    r.bind fun (v, d) =>
      let new := lineVal db off n
      if lineVal (lineBits v) off n = 2 ^ (8 * n) - 1 then
        let old := lineVal d off n
        if typ = 9 then (if old = new then some (v, d) else none)
        else some (v, setLineVal d off n (latJoin typ (8 * n) old new))
      else some (v ||| maskRun 128 off n, setLineVal d off n new)) (some (va, da))

/-- The parties of two joins. -/
def joinParties (a b : List Party) : List Party := a ++ b.filter fun p => !a.contains p

/-- The routers of the package as one grid of 24 by 24: the column and the row of a router, and the router there (R383, R506). -/
def routerX (r : Nat) : Nat := r / 144 % 2 * 12 + r % 12
def routerY (r : Nat) : Nat := r / 144 / 2 * 12 + r % 144 / 12
def routerAt (x y : Nat) : Nat := (y / 12 * 2 + x / 12) * 144 + y % 12 * 12 + x % 12

/-- The perimeter router over a slice (R383); the spec does not say which one serves which slice (log 14). -/
def sliceRouter (n : Nat) : Nat :=
  let k := n % 96 * 44 / 96
  n / 96 * 144 +
    (if k < 12 then k
     else if k < 23 then (k - 11) * 12 + 11
     else if k < 34 then 132 + (33 - k)
     else (44 - k) * 12)

/-- The input port, numbered 5 · router + side, that a packet for a line enters next behind a port: along its row, then along its
column (R384, R506); none at the slice. The sides are the core, north, south, east and west. -/
def nextPort (port line : Nat) : Option Nat :=
  let r := port / 5
  let d := sliceRouter (homeSlice line)
  let x := routerX r
  let y := routerY r
  if 576 ≤ r then none
  else if x < routerX d then some (5 * routerAt (x + 1) y + 4)
  else if routerX d < x then some (5 * routerAt (x - 1) y + 3)
  else if y < routerY d then some (5 * routerAt x (y + 1) + 1)
  else if routerY d < y then some (5 * routerAt x (y - 1) + 2)
  else none

/-- Two joins of a line as one (R385): the same type, width and vintage, and at most 16 contributors; a FILLT fill never merges. -/
def PressOp.mergeWith (a b : PressOp) : Option PressOp :=
  match a.kind, b.kind with
  | .join w v d ps h, .join w' v' d' ps' h' =>
    let all := joinParties ps ps'
    if a.typ = b.typ ∧ a.vint = b.vint ∧ w = w' ∧ (partyCtxs all).length ≤ 16 ∧ ¬ h ∧ ¬ h' ∧ a.typ ≠ 10 then
      (mergeJoins b.typ w v d v' d').map fun (v, d) => { a with kind := .join w v d all false }
    else none
  | _, _ => none

/-- The merge of a join into a router entry, when every condition of R385 holds. -/
def RouteEntry.merge (e : RouteEntry) (op : PressOp) (now : Nat) : Option RouteEntry :=
  if now ≤ e.since + 16 then (e.op.mergeWith op).map fun o => { e with op := o } else none

/-- More hops than any way through the grid has. -/
def maxHops : Nat := 64

/-- A join enters an input port: it merges into the port's open entry of its line, or becomes an entry; an entry that leaves goes on
to the next port, and from the last one to its press (R385). -/
def State.enterPort : Nat → State → Nat → PressOp → State
  | 0, s, _, op => { s with pressQ := s.pressQ ++ [op] }
  | k + 1, s, port, op =>
    let leave (s : State) (e : RouteEntry) : State :=
      let s : State := { s with routers := s.routers.filter fun x => !(x.port == port && x.op.line == e.op.line) }
      match nextPort port e.op.line with
      | some p => State.enterPort k s p e.op
      | none => { s with pressQ := s.pressQ ++ [e.op] }
    let open_ (s : State) : State := { s with routers := s.routers ++ [⟨port, s.cycle, op⟩] }
    match s.routers.find? fun e => e.port == port && e.op.line == op.line with
    | some e =>
      (match e.merge op s.cycle with
       | some e' => { s with routers := s.routers.map fun x => if x.port = port ∧ x.op.line = op.line then e' else x }
       | none => open_ (leave s e))
    | none =>
      let mine := s.routers.filter fun e => e.port == port
      match mine.head?, decide (mine.length ≥ 8) with
      | some e, true => open_ (leave s e)
      | _, _ => open_ s

/-- An entry leaves its port (R385). -/
def State.leavePort (s : State) (e : RouteEntry) : State :=
  let s : State := { s with routers := s.routers.filter fun x => !(x.port == e.port && x.op.line == e.op.line) }
  match nextPort e.port e.op.line with
  | some p => s.enterPort maxHops p e.op
  | none => { s with pressQ := s.pressQ ++ [e.op] }

/-- The open entries of a line leave every port on the way of a packet that is not merged (R385); `fuel` is at least the hops. -/
def State.flushWay (s : State) (line : Nat) : Nat → Nat → State
  | 0, _ => s
  | fuel + 1, port =>
    let s := match s.routers.find? fun e => e.port == port && e.op.line == line with
      | some e => s.leavePort e
      | none => s
    match nextPort port line with
    | some p => s.flushWay line fuel p
    | none => s

/-- The join entries of a line at the target gateways go to their press (R548). -/
def State.gateFlush (s : State) (line : Nat) : State :=
  let hit (e : Nat × Nat × PressOp) : Bool := e.2.2.line == line
  { s with
    fab := { s.fab with gate := s.fab.gate.filter fun e => !hit e }
    pressQ := s.pressQ ++ (s.fab.gate.filter hit).map fun e => e.2.2 }

/-- An operation that is not a mergeable join goes from its core, or from the gateway where it came in, to its press, behind the open
join entries of its line on its way (R385, R548). -/
def State.toPress (s : State) (op : PressOp) : State :=
  let s := if op.who.dev = s.dev then s.flushWay op.line maxHops (5 * op.who.ep) else s.gateFlush op.line
  { s with pressQ := s.pressQ ++ [op] }

/-- A join of another device enters the target gateway, that of the port towards its device: it merges into the open entry of its line
with joins of other source devices, or becomes an entry; each gateway has 64 (R548; log 135). -/
def State.toGate (s : State) (op : PressOp) : State :=
  let port := ((mget s.fab.ports op.who.dev.toNat).map (·.val)).getD 0
  let parties (o : PressOp) : List Party := match o.kind with | .join _ _ _ ps _ => ps | _ => []
  let room (s : State) : State :=
    match s.fab.gate.filter fun e => e.2.1 == port with
    | e :: es => if es.length ≥ 63 then s.gateFlush e.2.2.line else s
    | [] => s
  let add (s : State) : State :=
    let s := room s
    { s with fab := { s.fab with gate := s.fab.gate ++ [(s.cycle, port, op)] } }
  match s.fab.gate.find? fun e => e.2.2.line == op.line with
  | some e =>
    let apart := e.2.1 == port && e.2.2.fdom == op.fdom && decide (s.cycle ≤ e.1 + 32) &&
      (parties e.2.2).all fun p => p.dev != op.who.dev
    match (if apart then e.2.2.mergeWith op else none) with
    | some o => { s with fab := { s.fab with gate := s.fab.gate.map fun x => if x.2.2.line = op.line then (x.1, x.2.1, o) else x } }
    | none => add (s.gateFlush op.line)
  | none => add s

/-- A join that leaves the combining buffer of a core enters the mesh at the core's port (R383, R385). -/
def State.toRouter (s : State) (ep : Nat) (op : PressOp) : State := s.enterPort maxHops (5 * ep) op

/-! ## Dirty OWN bytes (R301, R303) -/

/-- The bytes of an OWN line as its owner sees them over those of the home: dirty L1 lines and buffered bytes of its cores; and which
bytes are dirty. -/
def State.ownOver (s : State) (owner : BitVec 16) (line : Nat) (home : BitVec 1024) : BitVec 1024 × BitVec 128 :=
  s.cores.foldl (fun (d : BitVec 1024 × BitVec 128) c =>
    let d := match mget c.2.l1 line with
      | some l => if !l.lat && l.owner == owner then (overlay d.1 l.data l.mask, d.2 ||| l.mask) else d
      | none => d
    (c.2.cb.filter fun e => e.line = line && !e.lat && c.2.owner == owner).foldl
      (fun (d : BitVec 1024 × BitVec 128) e => (overlay d.1 e.data e.valid, d.2 ||| e.valid)) d) (home, 0)

/-- The bytes of an OWN line as its owner sees them. -/
def State.ownLine (s : State) (owner : BitVec 16) (line : Nat) : BitVec 1024 := (s.ownOver owner line (lineOf s.mem line)).1

/-- The same bytes stop being dirty in the other cores of the owner, because this core writes them. -/
def State.ownErase (s : State) (ep : Nat) (owner : BitVec 16) (line : Nat) (valid : BitVec 128) : State :=
  { s with cores := s.cores.map fun (e, c) =>
    if e = ep then (e, c)
    else (e, { c with
      l1 := (match mget c.l1 line with
        | some l => if l.lat || l.owner != owner then c.l1 else mput c.l1 line { l with mask := l.mask &&& ~~~valid }
        | none => c.l1)
      cb := if c.owner ≠ owner then c.cb else
        c.cb.map fun b => if b.line = line && !b.lat then { b with valid := b.valid &&& ~~~valid } else b }) }

/-- Bytes written at their home; a full line ends its poisoning (R523). -/
def State.putHome (s : State) (line : Nat) (valid : BitVec 128) (data : BitVec 1024) : State :=
  { s with
    mem := putLine s.mem line data valid
    poisoned := if valid = BitVec.allOnes 128 then s.poisoned.filter fun p => p ≠ line else s.poisoned
    markers := s.markers.filter fun m => m.1 ≠ line }

/-- The dirty bytes of an L1 line of a core go home, and the line leaves. -/
def State.writeBack (s : State) (ep line : Nat) : State :=
  match mget (s.core ep).l1 line with
  | some l =>
    let s := if l.lat ∨ l.mask = 0 then s else s.putHome line l.mask l.data
    s.modCore ep fun c => { c with l1 := mdel c.l1 line }
  | none => s

/-- Buffered OWN bytes enter the L1. -/
def Core.l1Put (c : Core) (line : Nat) (va : Word) (owner : BitVec 16) (valid : BitVec 128) (data : BitVec 1024) : Core :=
  match mget c.l1 line with
  | some l =>
    if l.lat then { c with l1 := mput c.l1 line ⟨false, va, owner, valid, data⟩ }
    else { c with l1 := mput c.l1 line ⟨false, va, owner, l.mask ||| valid, overlay l.data data valid⟩ }
  | none => { c with l1 := mput c.l1 line ⟨false, va, owner, valid, data⟩ }

/-! ## The combining buffer (R174, R175) -/

/-- An entry that has been taken out goes to the press or to the L1. -/
def State.cbGo (s : State) (ep : Nat) (e : CbEntry) : State :=
  let s := if e.count = 1 then s.modCore ep fun c => c.warm e.line false else s
  if e.lat then
    let ps := e.parties.map fun n => s.party ep n
    s.toRouter ep ⟨e.line, e.va, e.typ, e.vint, ps.headD ⟨s.dev, ep, 0, 0⟩, 0, .join e.width e.valid e.data ps false, 0⟩
  else
    let o := (s.core ep).owner
    if e.valid = 0 then s else s.modCore ep fun c => c.l1Put e.line e.va o e.valid e.data

/-- The entries that satisfy a test leave, oldest first. -/
def State.cbDrain (s : State) (ep : Nat) (p : CbEntry → Bool) : State :=
  let go := (s.core ep).cb.filter p
  let s := s.modCore ep fun c => { c with cb := c.cb.filter fun e => !p e }
  go.foldl (fun (s : State) e => s.cbGo ep e) s

/-- The entries of a line to which a context contributed leave (R107). -/
def State.cbDrainLine (s : State) (ep : Nat) (n : Fin 11) (line : Nat) : State :=
  s.cbDrain ep fun e => e.line = line && e.parties.contains n

/-- The entries to which a context contributed leave (R175: a release). -/
def State.cbDrainCtx (s : State) (ep : Nat) (n : Fin 11) : State := s.cbDrain ep fun e => e.parties.contains n

/-- A join or an OWN store enters the buffer: it merges into the entry of its line or allocates one (R174, R175). An entry of the line
with which it cannot merge leaves before it allocates its own (log 125). -/
def State.cbAdd (s : State) (ep : Nat) (n : Fin 11) (new : CbEntry) : State :=
  let c := s.core ep
  let fits (e : CbEntry) : Bool :=
    e.line == new.line && e.lat == new.lat && e.typ == new.typ && e.width == new.width && e.vint == new.vint
  let alloc (s : State) : State :=
    let s := match (s.core ep).cb with
      | old :: rest =>
        if rest.length + 1 ≥ Config.nCombine then (s.modCore ep fun c => { c with cb := rest }).cbGo ep old else s
      | [] => s
    s.modCore ep fun c => { c with cb := c.cb ++ [{ new with parties := [n], count := 1, since := s.cycle }] }
  match c.cb.find? fun e => e.line = new.line with
  | some e =>
    let merged := if !fits e then none
      else if new.lat then mergeJoins new.typ new.width e.valid e.data new.valid new.data
      else some (e.valid ||| new.valid, overlay e.data new.data new.valid)
    match merged with
    | some (v, d) =>
      let e' := { e with valid := v, data := d, count := e.count + 1,
                         parties := if e.parties.contains n then e.parties else e.parties ++ [n] }
      s.modCore ep fun c => ({ c with cb := c.cb.map fun x => if x.line = new.line then e' else x } : Core).warm new.line true
    | none => alloc (s.cbDrain ep fun x => x.line = new.line)
  | none => alloc s

/-! ## Write signatures (R13) -/

def State.signLine (s : State) (ep : Nat) (n : Fin 11) (va : Word) : State :=
  s.modCtx ep n fun x => { x with sig := sigAdd x.sig (aLine va) }

/-! ## Stores to translated lines -/

/-- The context's own address line: the address with its low seven bits clear. -/
def lineVa (a : Word) : Word := a &&& ~~~(127 : Word)

/-- An OWN store of bytes of a line (R72, R174). -/
def State.storeOwn (s : State) (ep : Nat) (n : Fin 11) (line : Nat) (a : Word) (valid : BitVec 128) (data : BitVec 1024) : State :=
  let s := s.ownErase ep (s.core ep).owner line valid
  let s := s.cbAdd ep n ⟨line, lineVa a, false, 0, 0, 0, valid, data, [], 0, 0⟩
  s.signLine ep n a

/-- The report of an uncorrectable error to the context that met it (R523). -/
def State.tellPoison (s : State) (ep : Nat) (n : Fin 11) (reason line : Nat) (va : Word) : State :=
  (s.fresh).post (.report ep n (mkRecord 36 n reason (lineVa va) s.dev 4 (s.plainSlice line) (Config.freeSyndrome s.free) 0 true))

/-- A HOST store of bytes of a line: at its home at once (R72, R301). -/
def State.storeHost (s : State) (ep : Nat) (n : Fin 11) (line : Nat) (a : Word) (valid : BitVec 128) (data : BitVec 1024) : State :=
  let s := if s.poisoned.contains line ∧ valid ≠ BitVec.allOnes 128 then s.tellPoison ep n 1 line a else s
  s.putHome line valid data

/-- A join of elements of a line, through the combining buffer (R73, R106); a FILL join marks the signature (R13). -/
def State.storeLat (s : State) (ep : Nat) (n : Fin 11) (t : Tlb) (line : Nat) (a : Word) (valid : BitVec 128)
    (data : BitVec 1024) : State :=
  if valid = 0 then s else
  let s := s.cbAdd ep n ⟨line, lineVa a, true, t.typ, t.width, t.vint, valid, data, [], 0, 0⟩
  if t.typ = 9 then s.signLine ep n a else s

/-! ## Sectors held by the host (R515) -/

/-- A device access of a line waits for a back-invalidation: the sectors of its active bytes that the host holds. -/
def State.heldSectors (s : State) (line : Nat) (valid : BitVec 128) (write : Bool) : List Nat :=
  [2 * line, 2 * line + 1].filter fun sec =>
    (fld valid (sec % 2 * 64) 64 : BitVec 64) ≠ 0 && s.snoop.any fun h => h.1 == sec && (write || h.2)

/-- The back-invalidation snoops of an access are sent. -/
def State.sendSnoops (s : State) (ep : Nat) (n : Fin 11) (secs : List Nat) : State :=
  secs.foldl (fun (s : State) sec =>
    if s.snoops.any fun p => p.sector = sec then s else { s with snoops := s.snoops ++ [⟨sec, ep, n⟩] }) s

/-! ## Reads of translated lines -/

/-- The line as a plain read sees it, and whether it is poisoned (R303, R523). -/
def State.plainLine (s : State) (ep : Nat) (cls : Cls) (line : Nat) : BitVec 1024 :=
  if cls = .own then s.ownLine (s.core ep).owner line else lineOf s.mem line

/-- A plain read of bytes of a line: those of a poisoned line are free values and cause 36, except bytes that the owner has written
since (R523). -/
def State.readPlain (s : State) (ep : Nat) (n : Fin 11) (cls : Cls) (line : Nat) (va : Word) (valid : BitVec 128) : State × BitVec 1024 :=
  let own := (s.core ep).owner
  let dirty : BitVec 128 := if cls = .own then (s.ownOver own line 0).2 else 0
  if s.poisoned.contains line ∧ valid &&& ~~~dirty ≠ 0 then
    let t := s.tellPoison ep n 0 line va
    (t.fresh, if cls = .own then (s.ownOver own line (Config.freeElem t.free)).1 else Config.freeElem t.free)
  else (s, s.plainLine ep cls line)

/-- A read of a LAT line inside an instruction: a poisoned line gives a free value and cause 36 (R523). -/
def State.readLat (s : State) (ep : Nat) (n : Fin 11) (line : Nat) (va : Word) : State × BitVec 1024 :=
  if s.poisoned.contains line then
    let t := (s.fresh).post (.report ep n (mkRecord 36 n 0 (lineVa va) s.dev 4 (homeSlice line) (Config.freeSyndrome s.free) 0 true))
    (t.fresh, Config.freeElem t.free)
  else (s, lineOf s.mem line)

/-- The L1 copy of a LAT line that serves every active byte (R126). -/
def Core.latCopy (c : Core) (line : Nat) (valid : BitVec 128) : Option (BitVec 1024) :=
  match mget c.l1 line with
  | some l => if l.lat ∧ valid &&& ~~~l.mask = 0 then some l.data else none
  | none => none

/-- The L1 copy that serves an exact read of a core; none of a poisoned line, every later read of which is reported (R523). -/
def State.latCopy (s : State) (ep line : Nat) (valid : BitVec 128) : Option (BitVec 1024) :=
  if s.poisoned.contains line then none else (s.core ep).latCopy line valid

end Sys2Proof.Machine
end

