-- ==== Sys2Proof/Machine/Access.lean ====
section
/-! DEFINITION.
Accesses of a context: their portions (R104, R226), the checks of each portion in order (R75, R101), how a portion is
performed, how the portions of one instruction settle, and the return of a load's value (R76). -/

namespace Sys2Proof.Machine

open Sys2Proof

/-! ## Pieces and lines -/

/-- The active bytes of a piece, as a number whose bit 0 is its first byte. -/
def chunkMask (mask : BitVec 512) (c : Chunk) : Nat := mask.toNat / 2 ^ c.2.1 % 2 ^ c.2.2

/-- Store data in line form: valid bytes and data; a later piece wins (R229, R230). -/
def lineForm (cs : List Chunk) (mask : BitVec 512) (data : BitVec 4096) : BitVec 128 × BitVec 1024 :=
  cs.foldl (fun (r : BitVec 128 × BitVec 1024) c =>
    let o := c.1.toNat % 128
    let v : BitVec 128 := BitVec.ofNat 128 (chunkMask mask c * 2 ^ o)
    let d : BitVec 1024 := BitVec.ofNat 1024 (data.toNat / 2 ^ (8 * c.2.1) % 2 ^ (8 * c.2.2) * 2 ^ (8 * o))
    (r.1 ||| v, overlay r.2 d v)) (0, 0)

/-- A line's bytes at their places in the register. -/
def fromLine (cs : List Chunk) (line : BitVec 1024) : BitVec 4096 :=
  cs.foldl (fun (r : BitVec 4096) c =>
    r ||| BitVec.ofNat 4096 (lineVal line (c.1.toNat % 128) c.2.2 * 2 ^ (8 * c.2.1))) 0

/-- The grouping of pieces into portions: the 128-byte line (R104), and in the scratchpad of a window the bank, whose words are checked
together (R275). -/
def portionKey (a : Word) : Nat :=
  if aWin a && isCompute (aEp a) && decide (aOff a < 64 * 65536) then 2 ^ 64 + a.toNat / 65536 else a.toNat / 128

/-- The portions of an access, in the order of their first pieces. The bytes of one portion are read or written in one step, where the
spec asks no more than a piece of 64 bytes of a vector access to be one (R302; log 123). -/
def portions (cs : List Chunk) : List (List Chunk) :=
  let keys := (cs.map fun c => portionKey c.1).eraseDups
  keys.map fun k => cs.filter fun c => portionKey c.1 == k

/-- The whole elements of a line that are active, as bytes (R227). -/
def wholeElems (w : BitVec 2) (valid : BitVec 128) : BitVec 128 :=
  (activeOffs (wBytes w) valid).foldl (fun (v : BitVec 128) off => v ||| maskRun 128 off (wBytes w)) 0

/-! ## Destinations -/

/-- The value of a scalar load from its bytes (R70). -/
def loadVal (w : Nat) (signed : Bool) (v : Nat) : Word :=
  let x := v % 2 ^ (8 * w)
  if signed then wInt (signedOf (8 * w) x) else w64 x

/-- The bytes of a register under a byte mask. -/
def mergeV (old new : BitVec 4096) (mask : BitVec 512) : BitVec 4096 :=
  let k := vregBits mask
  (old &&& ~~~k) ||| (new &&& k)

/-- A load's value enters its register. -/
def Ctx.putDst (x : Ctx) (d : Dst) (data : BitVec 4096) (mask : BitVec 512) : Ctx :=
  match d with
  | .none => x
  | .x r w sg => x.wx r (loadVal w sg data.toNat)
  | .f r => x.wf r (BitVec.ofNat 32 data.toNat)
  | .v r => x.wv r (mergeV (x.rv r) data mask)
  | .m r => x.wm (fld r 0 3) (BitVec.ofNat 512 data.toNat)
  | .tok r => x.wx r (w64 data.toNat)

/-! ## Performing a translated portion (R75 steps 4 and 5, R101 steps 3 to 5) -/

/-- The outcome of a portion where it is translated. -/
inductive Perf where
  /-- performed -/
  | gone (s : State)
  /-- kept until its value or its answer comes -/
  | keep (s : State) (a : Acc)
  | bad (cause : BitVec 6) (tval : Word)
  deriving DecidableEq, Repr

/-- A portion has settled (R226). -/
def Stage.settled : Stage → Bool
  | .back _ => true
  | .failed .. => true
  | _ => false

/-- An exact read of lattice memory (R74, R109, R227, R230). -/
def AccOp.exact : AccOp → Bool
  | .xld => true
  | .vload e _ => e
  | _ => false

/-- The kind of the access as a right (R103, R542). -/
def AccOp.need : AccOp → Need
  | .load => .read | .xld => .read | .vload .. => .read | .fetch => .read | .inner => .read
  | .store => .write
  | .vstf => .write
  | .vstore j _ => if j then .join else .write
  | .wait .. => .wait
  | .range .. => .cork
  | .copy d => if d then .write else .read
  | _ => .join

/-- The operation stores bytes as they are, where a join is not asked for (R72, R230). -/
def AccOp.plain : AccOp → Bool
  | .store => true
  | .vstore false _ => true
  | _ => false

/-- An operation of a context for a press. -/
def State.pressOp (s : State) (ep : Nat) (n : Fin 11) (t : Tlb) (line : Nat) (va : Word) (k : PressKind) : PressOp :=
  ⟨line, lineVa va, t.typ, t.vint, s.party ep n, (s.ctxAt ep n).fdom, k, 0⟩

/-- The place in the register of a byte of memory that one of the pieces moves; the last of them that does. -/
def placeOf (cs : List Chunk) (a : Nat) : Option Nat :=
  (cs.reverse.find? fun c => decide (c.1.toNat ≤ a ∧ a < c.1.toNat + c.2.2)).map fun c => c.2.1 + (a - c.1.toNat)

/-- The bytes of a register that an access of pieces with elements of w bytes moves (R206): a byte follows the mask bit of its
element's lowest byte, which its own piece moves or another one of a smaller segment; its own where none does (log 17). -/
def effMask (w : Nat) (cs : List Chunk) (mask : BitVec 512) : BitVec 512 :=
  cs.foldl (fun (m : BitVec 512) c =>
    (List.range c.2.2).foldl (fun (m : BitVec 512) b =>
      let low := (c.1.toNat + b) % w
      let ruler := if low ≤ b then c.2.1 + (b - low) else (placeOf cs (c.1.toNat + b - low)).getD (c.2.1 + b)
      if mask.getLsbD ruler then m ||| maskRun 512 (c.2.1 + b) 1 else m) m) 0

/-- The bytes of a register that a portion's pieces fill. -/
def Acc.fills (a : Acc) : BitVec 512 :=
  a.chunks.foldl (fun (m : BitVec 512) c => m ||| maskRun 512 c.2.1 c.2.2) 0 &&& a.mask

/-- A read of a page of this device (R72, R74, R109, R227, R230). -/
def State.performRead (s : State) (ep : Nat) (a : Acc) (t : Tlb) : Perf :=
  let pa := t.pa a.va
  let line := pa / 128
  match t.cls with
  | .lat =>
    let w := wBytes t.width
    let wrong : Bool := match a.op with
      | .vload _ true => t.width != 2
      | _ => false
    if wrong then .bad 17 a.va
    else if a.op = .xld ∧ a.va.toNat % w ≠ 0 then .bad 4 a.va
    else
      let a := if a.op = .xld then { a with
          chunks := [(a.va, 0, w)], len := w, mask := maskRun 512 0 w
          dst := (match a.dst with
            | .x r _ _ => .x r w (t.typ = 2 || t.typ = 5)
            | d => d) }
        else { a with mask := effMask w a.chunks a.mask }
      let s := s.cbDrainLine ep a.ctx line
      match s.latCopy ep line (lineForm a.chunks a.mask 0).1 with
      | some d => .keep s { a with stage := .back (fromLine a.chunks d) }
      | none => .keep (s.toPress (s.pressOp ep a.ctx t line a.va (.read t.width a.age t.cork))) { a with stage := .press }
  | c =>
    if a.op.exact then .bad 17 a.va else .keep s { a with stage := .ready pa c t.vint }

/-- A member of lower rank of the gang has the same instruction's store to the line still outstanding: the store of the higher rank is
performed after it, and so wins the bytes that both write (R343). -/
def State.rankWaits (s : State) (ep : Nat) (a : Acc) : Bool :=
  (((s.core ep).teamCores ep).takeWhile (· ≠ ep)).any fun e => (s.core e).accs.any fun b =>
    b.ctx == a.ctx && b.at_ == a.at_ && b.pc == a.pc && b.op.plain && !b.stage.settled &&
      b.chunks.any fun c => a.chunks.any fun d => aLine c.1 == aLine d.1

/-- A plain store to a line of an OWN or HOST page (R72): it is performed, or it is kept while a sector of a HOST line is held by the
host (R515) or a store of the same instruction of a gang comes first (R343). -/
def State.storePlain (s : State) (ep : Nat) (a : Acc) (cls : Cls) (pa : Nat) (vint : BitVec 8) : Perf :=
  let line := pa / 128
  let f := lineForm a.chunks a.mask a.data
  if cls = .own then
    if s.rankWaits ep a then .keep s { a with stage := .ready pa cls vint }
    else .gone (s.storeOwn ep a.ctx line a.va f.1 f.2)
  else
    match s.heldSectors line f.1 true with
    | [] => .gone (s.storeHost ep a.ctx line a.va f.1 f.2)
    | secs => .keep (s.sendSnoops ep a.ctx secs) { a with stage := .ready pa cls vint }

/-- A store or join to a page of this device (R72, R73, R106, R227, R230). -/
def State.performWrite (s : State) (ep : Nat) (a : Acc) (t : Tlb) : Perf :=
  let line := t.pa a.va / 128
  match t.cls with
  | .lat =>
    let w := wBytes t.width
    let join : Bool := match a.op with | .join => true | .joinm => true | .amxjoin => true | _ => false
    let wrong : Bool := match a.op with
      | .store => a.len != w
      | .vstore _ true => t.width != 2
      | .amxjoin => t.typ != 3
      | _ => false
    if !joinAccepts t.typ || wrong then .bad 17 a.va
    else if join ∧ a.va.toNat % w ≠ 0 then .bad 6 a.va
    else if join then
      let f := lineForm [(a.va, 0, w)] (maskRun 512 0 w) a.data
      .gone (s.storeLat ep a.ctx t line a.va f.1 f.2)
    else
      match a.op with
      | .vstore _ true =>
        .gone (a.chunks.foldl (fun (s : State) c =>
          let f := lineForm [c] (effMask w [c] a.mask) a.data
          s.storeLat ep a.ctx t line a.va (wholeElems t.width f.1) f.2) s)
      | _ =>
        let f := lineForm a.chunks (effMask w a.chunks a.mask) a.data
        .gone (s.storeLat ep a.ctx t line a.va (wholeElems t.width f.1) f.2)
  | c => if !a.op.plain then .bad 17 a.va else s.storePlain ep a c (t.pa a.va) t.vint

/-- BF16 bits widened to FP32 (R127). -/
def widenBf16 (v : BitVec 32) : BitVec 32 := fld v 0 16 ++ 0#16

/-- Fold records to a page of this device (R127, R231). -/
def State.performFold (s : State) (ep : Nat) (a : Acc) (t : Tlb) : Perf :=
  let line := t.pa a.va / 128
  match a.op with
  | .fold half key v lvl dom ph =>
    if t.cls ≠ .lat ∨ t.typ ≠ (if half then 13 else 12) then .bad 17 a.va
    else if a.va.toNat % 4 ≠ 0 then .bad 6 a.va
    else
      let val := if half then widenBf16 v else v
      .gone (s.toPress (s.pressOp ep a.ctx t line a.va (.fold (a.va.toNat % 128) ⟨a.va, key, val, lvl, dom, ph⟩)))
  | .vfold key lvl dom ph =>
    if t.cls ≠ .lat ∨ ¬ (t.typ = 12 ∨ t.typ = 13) then .bad 17 a.va
    else
      .gone (a.chunks.foldl (fun (s : State) c =>
        if chunkMask a.mask c % 2 = 0 then s else
        let v : BitVec 32 := BitVec.ofNat 32 (a.data.toNat / 2 ^ (8 * c.2.1))
        let val := if t.typ = 13 then widenBf16 v else v
        s.toPress (s.pressOp ep a.ctx t line c.1 (.fold (c.1.toNat % 128) ⟨c.1, key, val, lvl, dom, ph⟩))) s)
  | _ => .gone s

/-- The wait number of a parked context. -/
def Ctx.waitId (x : Ctx) : Nat := match x.life with | .parked (.wait _ _ id) => id | _ => 0

/-- A wait or a release to a page of this device (R110 to R112, R121, R124). -/
def State.performSync (s : State) (ep : Nat) (a : Acc) (t : Tlb) : Perf :=
  let line := t.pa a.va / 128
  let w := wBytes t.width
  let off := a.va.toNat % 128
  match a.op with
  | .wait form trig prior =>
    if (s.ctxAt ep a.ctx).waitId ≠ a.wid then .gone s  -- the wait has been withdrawn since (R151)
    else if t.cls ≠ .lat ∨ ¬ waitAccepts form t.typ t.width then .bad 17 a.va
    else if a.va.toNat % w ≠ 0 then .bad 4 a.va
    else
      match (if form = .any then compatPair t.typ t.width trig else none) with
      | some p => .bad 18 (w64 p)
      | none =>
        .gone ((s.cbDrainLine ep a.ctx line).toPress
          (s.pressOp ep a.ctx t line a.va (.wait off t.width form trig prior a.wid)))
  | .rel v =>
    if t.cls ≠ .lat ∨ ¬ (t.typ = 1 ∧ (t.width = 2 ∨ t.width = 3)) then .bad 17 a.va
    else if a.va.toNat % w ≠ 0 then .bad 6 a.va
    else .gone (s.toPress (s.pressOp ep a.ctx t line a.va (.rel off t.width v (fld a.data 0 1024))))
  | _ => .gone s

/-- A portion where it is translated on this device, after the access table has admitted it. -/
def State.perform (s : State) (ep : Nat) (a : Acc) (t : Tlb) : Perf :=
  match a.op with
  | .load => s.performRead ep a t
  | .xld => s.performRead ep a t
  | .vload .. => s.performRead ep a t
  | .store => s.performWrite ep a t
  | .join => s.performWrite ep a t
  | .joinm => s.performWrite ep a t
  | .vstore .. => s.performWrite ep a t
  | .vstf => .bad 24 a.va
  | .amxjoin => s.performWrite ep a t
  | .fold .. => s.performFold ep a t
  | .vfold .. => s.performFold ep a t
  | .wait .. => s.performSync ep a t
  | .rel _ => s.performSync ep a t
  | .range .. => .gone s
  | .fetch => .gone s
  | .inner => .gone s
  | .copy _ => .gone s

/-! ## Windows of this device -/

/-- A context's access is system level (R559). -/
def State.sysLevel (s : State) (ep : Nat) (n : Fin 11) : Bool := isService ep || (s.ctxAt ep n).csr.prv

/-- The master is service core 960 (R535). -/
def is960 (ep : Nat) : Bool := ep == 960

/-- Words of scratchpad with uncorrectable errors that a read meets are reported to the context (R523). R148 lists no scratchpad among
the OKINDs of a read: the record takes the one of a bank, 3 (log 124). -/
def State.tellPad (s : State) (ep : Nat) (n : Fin 11) (tgt reason : Nat) (ranges : List (Nat × Nat)) : State :=
  match (s.core tgt).padErr.find? fun w => ranges.any fun r => overlap w 4 r.1 r.2 with
  | some w => (s.fresh).post (.report ep n (mkRecord 36 n reason (winAddr s.dev tgt w) s.dev 3 (w / 65536)
      (Config.freeSyndrome s.free) 0 true))
  | none => s

/-- The offset at which a window read is refused. -/
def WinRead.refused : WinRead → Option Nat
  | .bad off => some off
  | _ => none

/-- A read through a window of this device. A local read gives its bytes at once; a window of another endpoint answers
when the value returns, but an offset that its owner does not list is refused at issue (R165, R274, R527). -/
def State.performWinRead (s : State) (ep : Nat) (a : Acc) : Perf :=
  let tgt := aEp a.va
  -- the pc image of the issuing context is the address after this instruction, its next to issue (R165)
  let view := if tgt = ep then s.modCtx ep a.ctx fun x => { x with pc := x.pc + 4 } else s
  let reads := a.chunks.map fun c => (c, view.winRead tgt a.sys (aOff c.1) c.2.2 (chunkMask a.mask c))
  if a.op.exact then .bad 17 a.va
  else
    match reads.findSome? fun r => r.2.refused with
    | some off => .bad 24 (winAddr s.dev tgt off)
    | none =>
      let s := s.tellPad ep a.ctx tgt 0 (a.chunks.map fun c => (aOff c.1, c.2.2))
      if tgt = ep then
        let v := reads.foldl (fun (acc : BitVec 4096) r =>
          match r.2 with
          | .ok v => acc ||| BitVec.ofNat 4096 (v * 2 ^ (8 * r.1.2.1))
          | _ => acc) 0
        .keep s { a with stage := .back v }
      else .keep s { a with stage := .window }

/-- The value of a window read at its return, at the level of its instruction (R559): empty words of another core are cause 16 (R274). -/
def State.windowValue (s : State) (_ep : Nat) (a : Acc) : Except (BitVec 6 × Word) (BitVec 4096) :=
  let tgt := aEp a.va
  a.chunks.foldlM (fun (acc : BitVec 4096) c =>
    match s.winRead tgt a.sys (aOff c.1) c.2.2 (chunkMask a.mask c) with
    | .ok v => .ok (acc ||| BitVec.ofNat 4096 (v * 2 ^ (8 * c.2.1)))
    | .empty w => .error (16, winAddr s.dev tgt w)
    | .bad off => .error (24, winAddr s.dev tgt off)) 0

/-- A write through a window of this device; the refusals of R165 and R275. -/
def State.performWinWrite (s : State) (ep : Nat) (a : Acc) : Perf :=
  let tgt := aEp a.va
  if !a.op.plain then .bad 17 a.va
  else
    match s.winPuts tgt a.sys (is960 ep) (a.chunks.map fun c =>
        (aOff c.1, c.2.2, a.data.toNat / 2 ^ (8 * c.2.1) % 2 ^ (8 * c.2.2), chunkMask a.mask c)) with
    | .ok s => .gone s
    | .bad off => .bad 24 (winAddr s.dev tgt off)
    | .full off => .bad 25 (winAddr s.dev tgt off)
    | .busy => .keep s { a with stage := .window }

/-- The refusal of a VSTF block by its target (R233), by its active words: outside the carve, a plain word, a partial word, or a
full word. -/
def Core.vstfBad (c : Core) (off mask : Nat) : Option PadBad :=
  match (maskWords off 512 mask).find? fun w => !decide (w + 4 ≤ c.padSize) || !c.isSync w with
  | some w => some (.partialWord w)
  | none => c.padCheck off 512 mask

/-- VSTF at its target (R233): the whole block, or a refusal. -/
def State.performVstf (s : State) (_ep : Nat) (a : Acc) : Perf :=
  let tgt := aEp a.va
  let off := aOff a.va
  if !isCompute tgt ∨ !s.coreOn tgt then .bad 24 a.va
  else
    match (s.core tgt).vstfBad off a.mask.toNat with
    | some (.partialWord w) => .bad 24 (winAddr s.dev tgt w)
    | some (.full w) => .bad 25 (winAddr s.dev tgt w)
    | none => .gone (s.modCore tgt fun c => c.padWrite off 512 a.data.toNat a.mask.toNat)

/-- A portion in a window of this device: lattice operations are a class mismatch (R94). -/
def State.performWin (s : State) (ep : Nat) (a : Acc) : Perf :=
  match a.op with
  | .load => s.performWinRead ep a
  | .xld => s.performWinRead ep a
  | .vload .. => s.performWinRead ep a
  | .store => s.performWinWrite ep a
  | .vstore .. => s.performWinWrite ep a
  | .vstf => s.performVstf ep a
  | _ => .bad 17 a.va

/-! ## Portions for another device (R546, R547) -/

/-- Pieces as words of a packet, and back. -/
def chunkWords (cs : List Chunk) : List Word := cs.flatMap fun c => [c.1, w64 c.2.1, w64 c.2.2]
def wordChunks : List Word → List Chunk
  | a :: o :: n :: rest => (a, o.toNat, n.toNat) :: wordChunks rest
  | _ => []

/-- The request packet of a portion. A scalar store to a page carries its bytes at their places in the line; window portions and
vector stores carry their pieces, with data and mask at their places in the register. -/
def Acc.packet (a : Acc) (_dev : BitVec 10) : Packet :=
  let f := lineForm a.chunks a.mask a.data
  let flat : Bool := !aWin a.va && (match a.op with | .vstore .. => false | _ => true)
  let base : Packet := { blankPacket with
    dst := aDev a.va, tag := a.age, addr := a.va, len := a.len
    data := if flat then f.2.zeroExtend 4096 else a.data
    mask := if flat then f.1.zeroExtend 512 else a.mask
    words := if flat then [] else chunkWords a.chunks }
  match a.op with
  | .load => { base with what := 0x01, kind := 0 }
  | .xld => { base with what := 0x01, kind := 1 }
  | .vload e i => { base with what := 0x01, kind := if i then (if e then 6 else 4) else if e then 3 else 2 }
  | .store => { base with what := if aWin a.va then 0x07 else 0x02, kind := 0 }
  | .vstore j i => { base with what := if aWin a.va && !j then 0x07 else 0x02, kind := if i then 4 else if j then 3 else 2 }
  | .join => { base with what := 0x02, kind := 1, value := fld a.data 0 64 }
  | .joinm => { base with what := 0x02, kind := 1, value := fld a.data 0 64 }
  | .amxjoin => { base with what := 0x02, kind := 5, value := fld a.data 0 64 }
  | .fold h k v l d p => { base with what := 0x03, kind := if h then 1 else 0, recs := [⟨a.va, k, v, l, d, p⟩] }
  | .vfold k l d p => { base with
      what := 0x03, kind := 2
      recs := (a.chunks.filter fun c => chunkMask a.mask c % 2 = 1).map fun c =>
        ⟨c.1, k, BitVec.ofNat 32 (a.data.toNat / 2 ^ (8 * c.2.1)), l, d, p⟩ }
  | .wait form trig prior => { base with
      what := 0x04, words := trig, value := prior
      kind := match form with | .ge => 0 | .has => 1 | .any => 2 | .full => 3 | .cork => 4 | .acq => 5 }
  | .rel v => { base with what := 0x05, value := v, sig := fld a.data 0 1024 }
  | .vstf => { base with what := 0x07, kind := 6, words := chunkWords a.chunks, data := a.data, mask := a.mask }
  | .inner => { base with what := 0x01, kind := 0 }
  | .range what target first total => { base with
      what := 0x06, kind := what, value := target, len := a.len, words := [first, w64 total] }
  | _ => base

/-- The pieces that a packet carries. -/
def pkChunks (p : Packet) : List Chunk := wordChunks p.words

/-- The joins that a packet makes, each in line form, and whether the page accepts it; or the cause of its rejection. Every lane of a
scatter is a join of its own (R230); a merged packet carries one line form (kind 9, R548). -/
def joinBytes (p : Packet) (t : Tlb) : Except Nat (List (BitVec 128 × BitVec 1024)) :=
  let w := wBytes t.width
  let o := p.addr.toNat % 128
  let lane (c : Chunk) : BitVec 128 × BitVec 1024 :=
    let f := lineForm [c] (effMask w [c] p.mask) p.data
    (wholeElems t.width f.1, f.2)
  let elem : BitVec 128 × BitVec 1024 := lineForm [(p.addr, 0, w)] (maskRun 512 0 w) (p.value.zeroExtend 4096)
  let pieces : BitVec 128 × BitVec 1024 := lineForm (pkChunks p) (effMask w (pkChunks p) p.mask) p.data
  if p.kind = 7 then .error 17
  else if p.kind = 9 then
    if !joinAccepts t.typ then .error 17 else .ok [(wholeElems t.width (fld p.mask 0 128), fld p.data 0 1024)]
  else if p.kind = 8 ∨ p.kind = 10 then
    if t.typ = 12 ∨ t.typ = 13 ∨ (p.kind = 10 ∧ t.typ ≠ 10) then .error 17
    else if (t.typ = 10 ∧ (o ≠ 0 ∨ p.len ≠ 128)) ∨ (t.typ ≠ 10 ∧ (o % w ≠ 0 ∨ p.len % w ≠ 0)) then .error 6
    else .ok [(if t.typ = 10 then BitVec.allOnes 128 else wholeElems t.width pieces.1, pieces.2)]
  else if !joinAccepts t.typ ∨ (p.kind = 0 ∧ p.len ≠ w) ∨ (p.kind = 4 ∧ t.width ≠ 2) ∨ (p.kind = 5 ∧ t.typ ≠ 3) then .error 17
  else if p.kind = 1 ∨ p.kind = 5 then (if p.addr.toNat % w ≠ 0 then .error 6 else .ok [elem])
  else if p.kind = 0 then .ok [(fld p.mask 0 128, fld p.data 0 1024)]
  else if p.kind = 4 then .ok ((pkChunks p).map lane)
  else .ok [(wholeElems t.width pieces.1, pieces.2)]

/-- The page of another device as the source gateway has it (R533, R548). -/
def remoteEntry (r : BitVec 4 × BitVec 2 × BitVec 8) : Tlb :=
  { serviceEntry 0 with cls := .lat, typ := r.1, width := r.2.1, vint := r.2.2 }

/-- A JN packet with its page's type, width and vintage and, where it may be merged, its join in line form: no copies, and no FILLT fills
(R385, R533, R548; log 15). -/
def withPage (p : Packet) (r : BitVec 4 × BitVec 2 × BitVec 8) : Packet :=
  { p with
    typ := r.1, width := r.2.1, vint := r.2.2
    join := if p.kind > 5 ∨ r.1 = 10 then none else
      match joinBytes p (remoteEntry r) with
      | .ok js => js.foldl (fun (f : Option (BitVec 128 × BitVec 1024)) j =>
          f.bind fun f => mergeJoins r.1 r.2.1 f.1 f.2 j.1 j.2) (some (0, 0))
      | .error _ => none }

/-- A JN packet that may still take another into its entry (R548): type, width, vintage, token and FDOM are the same, FILL values are
equal, and at most 16 contexts contribute. -/
def mergeJn (p q : Packet) : Option Packet :=
  if p.what = 2 ∧ q.what = 2 ∧ p.dst = q.dst ∧ aLine p.addr = aLine q.addr ∧ p.token = q.token ∧ p.fdom = q.fdom ∧
      p.typ = q.typ ∧ p.width = q.width ∧ p.vint = q.vint ∧ (partyCtxs (p.parties ++ q.parties)).length ≤ 16 then
    match p.join, q.join with
    | some f, some g => (mergeJoins p.typ p.width f.1 f.2 g.1 g.2).map fun r => { p with
        kind := 9, mask := r.1.zeroExtend 512, data := r.2.zeroExtend 4096, words := [], value := 0
        parties := p.parties ++ q.parties, join := some r }
    | _, _ => none
  else none

/-- A request leaves through the gateway of its port: joins through the gateway's merge entries (at most 64), other requests after
those of their line (R548). -/
def State.sendMerged (s : State) (p : Packet) : State :=
  if p.what ≠ 2 then (s.mergeFlush p.dst (aLine p.addr)).send p
  else
    match s.fab.merge.findIdx? fun e => (mergeJn e.2 p).isSome && decide (s.cycle ≤ e.1 + 32) with
    | some k =>
      { s with fab := { s.fab with merge := (s.fab.merge.zipIdx).map fun (e, j) =>
          if j = k then (e.1, (mergeJn e.2 p).getD e.2) else e } }
    | none =>
      let s := s.mergeFlush p.dst (aLine p.addr)
      let port (d : BitVec 10) : Option (Fin 36) := mget s.fab.ports d.toNat
      let s := match s.fab.merge.filter fun e => port e.2.dst == port p.dst with
        | e :: es => if es.length ≥ 63 then s.mergeFlush e.2.dst (aLine e.2.addr) else s
        | [] => s
      { s with fab := { s.fab with merge := s.fab.merge ++ [(s.cycle, p)] } }

/-- The token of a context's requests to a device (R539); none where the device is out of reach. -/
def State.wayTo (s : State) (ep : Nat) (n : Fin 11) (dev : BitVec 10) : Option Word :=
  if s.fab.aen ∧ (mget s.fab.ports dev.toNat).isSome then s.tokenFor dev (s.ctxAt ep n).csr.gset else none

/-- A remote request of a context: the token is chosen and the packet leaves with the owner number (R353), a JN with its page (R533), or
a violation of reason 1 (R539). -/
def State.request (s : State) (ep : Nat) (n : Fin 11) (p : Packet) : Option State :=
  let q : Packet := { p with
    fdom := (s.ctxAt ep n).fdom, ep := ep, ctx := n, src := s.dev, parties := [{ s.party ep n with tag := p.tag }]
    aux := (s.core ep).owner.zeroExtend 64 }
  let q := if p.what = 2 then withPage q (Config.remotePage s.free p.dst (aLine p.addr)) else q
  (s.wayTo ep n p.dst).map fun tok => s.sendMerged { q with token := tok }

/-! ## Stream bindings (R235) -/

/-- The scratchpad offset of the block that a generator takes next, as an integer. -/
def Stream.block (b : Stream) : Int :=
  (b.base : Int) + (b.k % max 1 b.inner : Nat) * b.istr + (b.k / max 1 b.inner : Nat) * b.ostr

/-- The block lies in the carve. -/
def Core.blockIn (c : Core) (b : Stream) : Option Nat :=
  if 0 ≤ b.block ∧ b.block + 512 ≤ (c.padSize : Int) then some b.block.toNat else none

/-- How a write to a generator's block is refused: cause and ktval. -/
def Core.genBad (c : Core) (win : Word) (b : Stream) (mask : BitVec 512) : Option (BitVec 6 × Word) :=
  if b.k = b.count then some (24, 0)
  else
    match c.blockIn b with
    | none => some (24, win + wInt b.block)
    | some off =>
      match (if b.fe then c.vstfBad off mask.toNat else c.padCheck off 512 mask.toNat) with
      | some (.partialWord w) => some (24, win + w64 w)
      | some (.full w) => some (25, win + w64 w)
      | none => none

/-- The write of a generator's block, and k := k + 1. -/
def State.genPut (s : State) (ep : Nat) (n : Fin 11) (r : Reg) (b : Stream) (data : BitVec 4096) (mask : BitVec 512) : State :=
  let s := s.modCore ep fun c => match c.blockIn b with
    | some off => c.padWrite off 512 data.toNat mask.toNat
    | none => c
  s.modCtx ep n fun x => { x with streams := mput x.streams r.toNat { b with k := b.k + 1 } }

/-- The effect on a bound register of a read of it: the channel's head leaves, or k advances and FE mode empties the block. -/
def State.consume (s : State) (ep : Nat) (n : Fin 11) (r : Reg) : State :=
  match (s.ctxAt ep n).bound r with
  | none => s
  | some b =>
    if b.kind = 3 then
      let ch : Fin 8 := ⟨b.base % 8, Nat.mod_lt _ (by decide)⟩
      s.modCore ep fun c => { c with chans := c.chans.set ch ((c.chans[ch]).drop 1) }
    else
      let s := match (s.core ep).blockIn b with
        | some off => s.tellPad ep n ep 0 [(off, 512)]
        | none => s
      let s := if b.fe then s.modCore ep fun c => match c.blockIn b with
        | some off => c.emptyWords (maskWords off 512 (2 ^ 512 - 1))
        | none => c
        else s
      s.modCtx ep n fun x => { x with streams := mput x.streams r.toNat { b with k := b.k + 1 } }

/-- The context goes on after an instruction whose portions it had to await. -/
def State.release (s : State) (ep : Nat) (n : Fin 11) : State :=
  let s := match (s.ctxAt ep n).took with
    | some r => s.consume ep n r
    | none => s
  s.modCtx ep n Ctx.passHeld

/-! ## Settling (R226) -/

def State.group (s : State) (ep grp : Nat) : List Acc := (s.core ep).accs.filter fun a => a.grp = grp
def State.dropGroup (s : State) (ep grp : Nat) : State :=
  s.modCore ep fun c => { c with accs := c.accs.filter fun a => a.grp ≠ grp }

/-- The failing portion that an instruction reports: of lowest address; of lowest number for JOINM (R108, R226). -/
def firstFailed (g : List Acc) : Option (Acc × BitVec 6) :=
  let fs := g.filterMap fun a => match a.stage with | .failed c _ => some (a, c) | _ => none
  let key (p : Acc × BitVec 6) : Nat := if p.1.op = .joinm then p.1.age else p.1.va.toNat
  (sortBy key fs).head?

/-- What a failed portion reports in ktval; a later check leaves its own value in the data word. -/
def Acc.failVal (a : Acc) : Word := fld a.data 0 64

/-- A portion becomes failed. -/
def State.failAcc (s : State) (ep age : Nat) (cause : BitVec 6) (tval : Word) (early : Bool) : State :=
  s.modCore ep fun c => { c with accs := c.accs.map fun a =>
    if a.age = age then { a with stage := .failed cause early, data := tval.zeroExtend 4096 } else a }

/-- The operation belongs to a range instruction, or to a WAIT or ACQ. -/
def AccOp.isRange : AccOp → Bool
  | .range .. => true
  | _ => false
def AccOp.isWait : AccOp → Bool
  | .wait .. => true
  | _ => false

/-- The context of a portion is still at the very instruction that issued it (R139), not at a later one at the same pc. A fetch has
issued no instruction. -/
def State.atIt (s : State) (ep : Nat) (a : Acc) : Bool :=
  let x := s.ctxAt ep a.ctx
  x.pc == a.pc && (match x.hold, x.life with
    | .exact g, _ => g == a.grp
    | .gen g, _ => g == a.grp
    | .replay k, _ => k == a.age && a.op != .fetch
    | .convert k, _ => k == a.age
    | _, .parked (.wait _ _ id) => a.op.isWait && id == a.wid
    | _, .parked .corkw => a.op.isRange
    | _, .parked .rack => a.op.isRange
    | _, _ => false)

/-- The failure of a portion reaches its context after issue (R139). -/
def State.deferAcc (s : State) (ep : Nat) (a : Acc) (cause : BitVec 6) (tval : Word) : State :=
  s.deferAt ep a.ctx a.grp cause a.pc tval a.dst (s.atIt ep a)

/-- The portions of the instruction at which a context is held until they have settled. -/
def State.probing (s : State) (ep : Nat) (n : Fin 11) : List Acc :=
  match (s.ctxAt ep n).hold with
  | .exact g => s.group ep g
  | .gen g => s.group ep g
  | _ => []

/-- A portion failed while its context was held at the instruction (R74). -/
def Stage.early : Stage → Bool
  | .failed _ e => e
  | _ => false

/-- It is known whether the instruction of these portions traps: all of them have settled, or none has failed and none waits for its
readability (R74). -/
def decided (g : List Acc) : Bool :=
  (g.all fun a => a.stage.settled) || (!(g.any fun a => a.stage.early) && !(g.any fun a => a.stage = .press))

/-- The instruction of every member of the team of a core is decided, and the team is on its cores: a trap of one member takes effect in
none (R341). -/
def State.allDecided (s : State) (ep : Nat) (n : Fin 11) : Bool :=
  ((s.core ep).teamCores ep).all fun e => decide (e < 4096) && !(s.core e).frozen && decided (s.probing e n)

/-- The immediate trap that the portions of a member raise. -/
def State.probeTrap (s : State) (n : Fin 11) (e : Nat) : Option (Nat × BitVec 6 × Word × Word) :=
  let g := s.probing e n
  if g.any fun a => a.stage.early then (firstFailed g).map fun p => (e, p.2, p.1.pc, p.1.failVal) else none

/-- The held instruction of a member has no effect. -/
def State.dropProbe (s : State) (n : Fin 11) (e : Nat) : State :=
  let out (grp : Nat) : State := (s.dropGroup e grp).modCtx e n fun x => { x with hold := .free, took := none, toks := [] }
  match (s.ctxAt e n).hold with
  | .exact grp => out grp
  | .gen grp => out grp
  | _ => s

/-- A member goes on behind a decided instruction; a late failure is deferred, and a load into a generator ends with its block. -/
def State.passProbe (s : State) (n : Fin 11) (e : Nat) : State :=
  let late (grp : Nat) : Option (Acc × BitVec 6) :=
    if (s.group e grp).all fun a => a.stage.settled then firstFailed (s.group e grp) else none
  let go (grp : Nat) (f : Acc × BitVec 6) : State := ((s.dropGroup e grp).release e n).deferAcc e f.1 f.2 f.1.failVal
  match (s.ctxAt e n).hold with
  | .exact grp => ((late grp).map (go grp)).getD (s.release e n)
  | .gen grp => ((late grp).map (go grp)).getD s
  | _ => s

/-- The portions of an instruction are looked at again after one of them has changed (R74, R226). While the core is frozen a context
that waits for them keeps its state (R24); in a gang the members go on, or trap, together (R341). -/
def State.settle (s : State) (ep grp : Nat) : State :=
  match s.group ep grp with
  | [] => s
  | a :: rest =>
    let set := (s.core ep).teamCores ep
    if (s.ctxAt ep a.ctx).hold = .exact grp ∨ (s.ctxAt ep a.ctx).hold = .gen grp then
      if !s.allDecided ep a.ctx then s
      else
        match set.filterMap (s.probeTrap a.ctx) with
        | [] => set.foldl (fun (s : State) e => s.passProbe a.ctx e) s
        | t :: ts => (set.foldl (fun (s : State) e => s.dropProbe a.ctx e) s).takeTraps ep a.ctx false true (t :: ts)
    else if (a :: rest).all fun a => a.stage.settled then
      match firstFailed (a :: rest) with
      | some (f, cause) => (s.dropGroup ep grp).deferAcc ep f cause f.failVal
      | none => s
    else s

/-! ## Issue of an access -/

/-- Where a portion goes. -/
inductive Where where
  | window
  | remote
  | page (tr : Tr)
  /-- a window that the access table does not open, or a device without a token: the reason of the violation (R539, R541) -/
  | barred (reason : Nat)
  deriving DecidableEq, Repr

/-- The right of a window access (R542). -/
def Need.winRight : Need → Nat
  | .read => rRead
  | .write => rWrite
  | .join => rJoin
  | .wait => rWait
  | .cork => rCork

/-- The access table stops an access of this device's endpoint to one of its windows (R541). -/
def State.barredWin (s : State) (ep : Nat) (need : Need) (a : Word) : Bool :=
  decide (aEp a ≤ 1036) && !s.admitted (s.master ep) (winKind (aEp a)) (aEp a) need.winRight

/-- Translations of the portions, in order (R226). -/
def State.locate (s : State) (ep : Nat) (need : Need) : List (List Chunk) → State × List (List Chunk × Where)
  | [] => (s, [])
  | cs :: rest =>
    let a := (cs.headD (0, 0, 0)).1
    let r := if aDev a ≠ s.dev then (s, if (s.wayTo ep s.cur.2 (aDev a)).isSome then Where.remote else .barred 1)
      else if aWin a then (s, if s.barredWin ep need a then .barred 6 else Where.window)
      else let t := s.translate ep need a; (t.1, Where.page t.2)
    let q := r.1.locate ep need rest
    (q.1, (cs, r.2) :: q.2)

/-- The access is a line of another device that a read inside an instruction has fetched, for the instruction's next issue. -/
def Acc.heldLine (a : Acc) : Bool :=
  match a.op, a.stage with
  | .inner, .back _ => true
  | _, _ => false

/-- Two accesses meet: they lie in one line of translated memory, or overlap in a window (R304). -/
def meets (cs ds : List Chunk) : Bool :=
  cs.any fun c => ds.any fun d =>
    if aWin c.1 then overlap c.1.toNat c.2.2 d.1.toNat d.2.2
    else decide (aLine c.1 * 128 < d.1.toNat + d.2.2 ∧ aLine d.1 * 128 < c.1.toNat + c.2.2)

/-- A read that has issued and whose value has not been taken yet. -/
def Acc.unread (a : Acc) : Bool := a.op.need == .read && (match a.op, a.stage with
  | .copy _, _ => false
  | _, .ready .. => true
  | _, .window => true
  | _, _ => false)

/-- The access holds a younger access back that meets it (R305): it has not been performed. A read that only awaits its value does
not hold back another read. -/
def Acc.blocks (a : Acc) (reads : Bool) : Bool :=
  !a.heldLine && !a.stage.settled && !(reads && a.unread)

/-- A younger access waits for the context's outstanding accesses of the same line (R304, R305). -/
def State.lineBusy (s : State) (ep : Nat) (n : Fin 11) (reads : Bool) (cs : List Chunk) : Bool :=
  (s.core ep).accs.any fun a => a.ctx == n && a.blocks reads && meets a.chunks cs

/-- A piece may lie in synchronised words of a core: on this device those of a synchronised bank (R155), on another one any word of
scratchpad, because a remote master reaches no others (R528). -/
def State.syncPiece (s : State) (c : Chunk) : Bool :=
  aWin c.1 && isCompute (aEp c.1) && decide (aOff c.1 < 64 * 65536) && (aDev c.1 != s.dev || (s.core (aEp c.1)).isSync (aOff c.1))

/-- A read of synchronised words of another core or device that has not observed them full yet: no later access of its context is
performed before it (R307). -/
def State.acquiring (s : State) (ep : Nat) (n : Fin 11) : Bool :=
  (s.core ep).accs.any fun a => a.ctx == n && a.op.need == .read && !a.stage.settled && a.chunks.any s.syncPiece

/-- A read of synchronised words is an acquire, and waits for the flush of a migrated team (R307, R322, R452). -/
def State.heldAcquire (s : State) (ep : Nat) (cs : List Chunk) : Bool := s.flushPending ep && cs.any s.syncPiece

/-- An access overlaps a range of the range scoreboard (R296). -/
def State.rangeBusy (s : State) (ep : Nat) (cs : List Chunk) : Bool :=
  (s.core ep).held.any fun h => cs.any fun c => overlap c.1.toNat c.2.2 h.base.toNat h.len

/-- An access of the instruction at hand that is performed at issue waits: for older accesses of its lines (R304, R305), for a command
that holds a range (R296), for a read that is an acquire (R307), and, where it may be one itself, for a flush (R322). -/
def State.mustWait (s : State) (reads : Bool) (cs : List Chunk) : Bool :=
  s.lineBusy s.cur.1 s.cur.2 reads cs || s.rangeBusy s.cur.1 cs || s.acquiring s.cur.1 s.cur.2 ||
    (reads && s.heldAcquire s.cur.1 cs)

/-- The first empty word that a local read meets (R274). -/
def State.firstEmpty (s : State) (ep : Nat) (mask : BitVec 512) (cs : List Chunk) : Option Nat :=
  cs.findSome? fun c =>
    if aWin c.1 && aDev c.1 == s.dev && aEp c.1 == ep && decide (aOff c.1 < (s.core ep).padSize)
    then (s.core ep).emptyWord (aOff c.1) c.2.2 (chunkMask mask c) else none

/-- A context parks on an empty word, or traps when the carve says so (R155, R276). -/
def State.parkWord (s : State) (off : Nat) : Res :=
  if s.me.ftrap then trap 16 (s.padAddr off) s else .next (s.park (.parked (.word off)))

/-- The value of one portion of a load returns. -/
def State.returnAcc (s : State) (ep : Nat) (a : Acc) : State :=
  match a.stage with
  | .ready pa cls vint =>
    if a.op.need ≠ .read then
      -- a store that waited for the host (R515), or for a store of lower rank (R343)
      (match s.storePlain ep a cls pa vint with
       | .gone s => (s.dropAcc ep a.age).settle ep a.grp
       | .keep s _ => s
       | .bad .. => s)
    else
      let line := pa / 128
      match (if cls = .host then s.heldSectors line (lineForm a.chunks a.mask 0).1 false else []) with
      | [] =>
        let r := s.readPlain ep a.ctx cls line a.va (lineForm a.chunks a.mask 0).1
        (r.1.setStage ep a.age (.back (fromLine a.chunks r.2))).settle ep a.grp
      | secs => s.sendSnoops ep a.ctx secs
  | .window =>
    if a.op.need ≠ .read then
      -- a store that waited for a busy register
      (match s.performWinWrite ep a with
       | .gone s => (s.dropAcc ep a.age).settle ep a.grp
       | .bad c v => (s.failAcc ep a.age c v false).settle ep a.grp
       | .keep .. => s)
    else
      match s.windowValue ep a with
      | .ok v => (s.setStage ep a.age (.back v)).settle ep a.grp
      | .error (c, v) => (s.failAcc ep a.age c v false).settle ep a.grp
  | _ => s

/-- A younger store comes after the older reads of its context that it meets: they take their values now (R304). -/
def State.readOlder (s : State) (ep : Nat) (n : Fin 11) (cs : List Chunk) : State :=
  ((s.core ep).accs.filter fun a => a.ctx == n && a.unread && meets a.chunks cs).foldl (fun (s : State) a => s.returnAcc ep a) s

/-- The record of a portion of the instruction at hand. -/
def State.newAcc (s : State) (grp : Nat) (op : AccOp) (cs : List Chunk) (mask : BitVec 512) (data : BitVec 4096)
    (dst : Dst) (st : Stage) : Acc where
  age := s.me.nextAge
  grp := grp
  ctx := s.cur.2
  op := op
  pc := s.pc
  va := (cs.headD (0, 0, 0)).1
  len := cs.foldl (fun (k : Nat) c => k + c.2.2) 0
  dst := dst
  doff := (cs.headD (0, 0, 0)).2.1
  chunks := cs
  mask := mask
  data := data
  wid := s.ctx.waitId
  ent := s.me.nextAge
  sys := s.sysLevel s.cur.1 s.cur.2
  at_ := s.cycle
  stage := st

/-- The result of a portion at issue is recorded. -/
def State.record (s : State) (a : Acc) (r : Perf) (late : Bool) : State :=
  match r with
  | .gone s => s
  | .keep s b => s.addAcc s.cur.1 b
  | .bad cause tval => (s.addAcc s.cur.1 { a with data := tval.zeroExtend 4096, stage := .failed cause (!late) })

/-- A new access is denied: held for the host, but a destination of JOINM is neither held nor joined (R108, R545). -/
def State.denyNew (s : State) (ep : Nat) (a : Acc) (reason : Nat) : State :=
  if a.op = .joinm then s.freeze ep a.ctx a.va reason [a.va] else s.addDenied ep a reason

/-- An outstanding access is denied. -/
def State.denyAcc (s : State) (ep : Nat) (a : Acc) (va : Word) (reason : Nat) : State :=
  if a.op = .joinm then ((s.dropAcc ep a.age).freeze ep a.ctx va reason [va]).settle ep a.grp
  else (s.setStage ep a.age a.frozenStage).freeze ep a.ctx va reason []

/-- A refusal by another endpoint's scratchpad is deferred: of VSTF, of a partial word, and of a full word (R233, R275; log 113). -/
def State.refusedLate (s : State) (op : AccOp) (ep : Nat) (va : Word) (r : Perf) : Bool :=
  let tgt := aEp va
  tgt != ep && (match r with
    | .bad 25 _ => true
    | .bad 24 v => op == .vstf || (op.plain && isCompute tgt && decide (aOff v < (s.core tgt).padSize))
    | _ => false)

/-- One portion at issue, by where it goes. -/
def State.issuePortion (s : State) (grp : Nat) (op : AccOp) (mask : BitVec 512) (data : BitVec 4096) (dst : Dst)
    (p : List Chunk × Where) : State :=
  let a := s.newAcc grp op p.1 mask data dst .remote
  let ep := s.cur.1
  match p.2 with
  | .window =>
    let r := s.performWin ep a
    s.record a r (s.refusedLate op ep a.va r)
  | .remote =>
    match s.request ep a.ctx (a.packet s.dev) with
    | some s => s.addAcc ep a
    | none => s.denyNew ep a 1
  | .barred reason => s.denyNew ep a reason
  | .page (.ok t _) => s.record a (s.perform ep a t) false
  | .page .denied => s.addDenied ep a 6
  | .page (.miss k) => s.addMissed ep a k

/-- The page of a portion. -/
def portionPage (p : List Chunk × Where) : Nat := (p.1.headD (0, 0, 0)).1.toNat / 65536

/-- The portion misses translation. -/
def Where.missed : Where → Bool
  | .page (.miss _) => true
  | _ => false

/-- Portions that miss on one page become one, in the place of the first (R104, R370). -/
def mergeMisses (ps : List (List Chunk × Where)) : List (List Chunk × Where) :=
  ps.foldl (fun (qs : List (List Chunk × Where)) p =>
    let same (q : List Chunk × Where) : Bool := q.2.missed && portionPage q == portionPage p
    if p.2.missed && qs.any same then qs.map fun q => if same q then (q.1 ++ p.1, q.2) else q else qs ++ [p]) []

/-- Entries of the ticket table that the portions need, one for each page (R177, R370). -/
def entriesOf (ps : List (List Chunk × Where)) : Nat :=
  ((ps.filter fun p => match p.2 with
    | .page (.miss _) => true
    | .page .denied => true
    | .remote => true
    | .barred _ => true
    | _ => false).map portionPage).eraseDups.length

/-- Line portions of a read that leave the device (R226). -/
def remotesOf (ps : List (List Chunk × Where)) : Nat := linesOf ((ps.filter fun p => p.2 = .remote).flatMap (·.1))

/-- A HOST portion waits for back-invalidations (R515): the sectors to be snooped. -/
def State.hostWaits (s : State) (write : Bool) (mask : BitVec 512) (ps : List (List Chunk × Where)) : List Nat :=
  ps.flatMap fun p => match p.2 with
    | .page (.ok t pa) =>
      if t.cls = .host then s.heldSectors (pa / 128) (lineForm p.1 mask 0).1 write else []
    | _ => []

/-- A window store waits for a register that is busy in its owner's scoreboard, and a load of the context's own registers for
its own busy ones (R166). -/
def State.imageBusy (s : State) (reads : Bool) (mask : BitVec 512) (ps : List (List Chunk × Where)) : Bool :=
  ps.any fun p => p.2 = .window && p.1.any fun c =>
    isCompute (aEp c.1) && (!reads || aEp c.1 == s.cur.1) &&
      (s.core (aEp c.1)).imgBusy (fun n => !reads || n == s.cur.2) (aOff c.1) c.2.2 (chunkMask mask c)

/-- The end of an access instruction at issue: it completes, waits for its portions, or traps at once (R74, R226). -/
def State.endAccess (s : State) (grp : Nat) : Res :=
  let ep := s.cur.1
  let g := s.group ep grp
  let anyFail : Bool := g.any fun a => match a.stage with | .failed .. => true | _ => false
  let early : Bool := g.any fun a => match a.stage with | .failed _ e => e | _ => false
  let open_ : Bool := g.any fun a => !a.stage.settled
  let press : Bool := g.any fun a => a.stage = .press
  if (early ∧ open_) ∨ press then .next (s.holdOn (.exact grp))
  else if early then
    match firstFailed g with
    | some (f, cause) => trap cause f.failVal (s.dropGroup ep grp)
    | none => retire s
  else if anyFail ∧ !open_ then
    match firstFailed g with
    | some (f, cause) =>
      retire ((s.dropGroup ep grp).defer ep s.cur.2 f.grp cause f.pc f.failVal f.dst)
    | none => retire s
  else retire s

/-- An access of the instruction at hand: its pieces, active bytes, store data and destination. -/
def State.access (s : State) (op : AccOp) (cs : List Chunk) (mask : BitVec 512) (data : BitVec 4096) (dst : Dst) : Res :=
  let ep := s.cur.1
  let cs := cs.filter fun c => chunkMask mask c ≠ 0
  let reads : Bool := op.need = .read
  let s := if reads then s else s.readOlder ep s.cur.2 cs
  if s.lineBusy ep s.cur.2 reads cs ∨ s.rangeBusy ep cs ∨ s.acquiring ep s.cur.2 ∨ (reads ∧ s.heldAcquire ep cs) then stall s
  else
    let loc := s.locate ep op.need (portions cs)
    let ps := mergeMisses loc.2
    -- a word is read only where the access table admits the window (R75 step 3, R541)
    match (if reads && !op.exact then s.firstEmpty ep mask ((ps.filter fun p => p.2 = .window).flatMap (·.1)) else none) with
    | some w => s.parkWord w
    | none =>
      let room := s.me.ticketRoom (entriesOf ps)
      let remote := decide (s.me.remotes s.dev + remotesOf ps ≤ Config.nRemote) || !reads
      let host := loc.1.hostWaits (!reads) mask ps
      if !room ∨ !remote ∨ s.imageBusy reads mask ps then stall s
      else if op.plain ∧ host ≠ [] then .next { loc.1.sendSnoops ep s.cur.2 host with out := .stalled }
      else
        let grp := loc.1.me.nextAge
        let s := ps.foldl (fun (s : State) p => s.issuePortion grp op mask data dst p) loc.1
        s.endAccess grp

/-- The access of a scalar load or store (R70, R71): alignment, then one piece. -/
def State.scalar (s : State) (op : AccOp) (a : Word) (n : Nat) (data : Word) (dst : Dst) : Res :=
  if a.toNat % n ≠ 0 then trap (if op = .load then 4 else 6) a s
  else s.access op [(a, 0, n)] (maskRun 512 0 n) (data.zeroExtend 4096) dst

/-! ## Element operations (R101) -/

/-- The access of an element instruction, whose width comes from the page: one piece, eight bytes until it is known. -/
def State.element (s : State) (op : AccOp) (a : Word) (data : BitVec 4096) (dst : Dst) : Res :=
  s.access op [(a, 0, 8 - a.toNat % 8)] (maskRun 512 0 8) data dst

/-! ## Return of values (R76) -/

/-- A command in flight holds the block that a context's generator writes next (R296). -/
def State.genHeld (s : State) (ep : Nat) (n : Fin 11) (r : Reg) : Bool :=
  match (s.ctxAt ep n).bound r with
  | some b => (match (s.core ep).blockIn b with
    | some off => s.rangeBusy ep [(winAddr s.dev ep off, 0, 512)]
    | none => false)
  | none => false

/-- A load into a write generator ends: the block is written (R235). -/
def State.genFinish (s : State) (ep : Nat) (n : Fin 11) (r : Reg) (data : BitVec 4096) (mask : BitVec 512) : State :=
  match (s.ctxAt ep n).bound r with
  | none => s.release ep n
  | some b => (s.genPut ep n r b data mask).release ep n

/-- Every portion is back. -/
def allBack (g : List Acc) : Bool := g.all fun a => match a.stage with | .back _ => true | _ => false
/-- The value of a load from its portions, and the bytes that they fill. -/
def backData (g : List Acc) : BitVec 4096 :=
  g.foldl (fun (d : BitVec 4096) a => match a.stage with | .back v => d ||| v | _ => d) 0
def backMask (g : List Acc) : BitVec 512 := g.foldl (fun (m : BitVec 512) a => m ||| a.fills) 0

/-- The register that a load fills. -/
def Acc.vdst (a : Acc) : Option Reg := match a.dst with | .v r => some r | _ => none

/-- The load of a context into a write generator can end, or its instruction is behind it. -/
def State.genEnds (s : State) (n : Fin 11) (pc : Word) (e : Nat) : Bool :=
  let x := s.ctxAt e n
  match x.hold with
  | .gen g => allBack (s.group e g) && (s.group e g).all fun a => !(a.vdst.any fun r => s.genHeld e n r)
  | _ => x.pc != pc

/-- The trap of a load whose block cannot be written (R235). -/
def State.genTrap (s : State) (n : Fin 11) (e : Nat) : Option (Nat × BitVec 6 × Word × Word) :=
  match (s.ctxAt e n).hold with
  | .gen g =>
    (s.group e g).head?.bind fun a => a.vdst.bind fun r => ((s.ctxAt e n).bound r).bind fun b =>
      ((s.core e).genBad (s.win e) b (backMask (s.group e g))).map fun t => (e, t.1, a.pc, t.2)
  | _ => none

/-- The load of a member into a write generator ends. -/
def State.genGo (s : State) (n : Fin 11) (e : Nat) : State :=
  match (s.ctxAt e n).hold with
  | .gen g =>
    match (s.group e g).head?.bind Acc.vdst with
    | some r => (s.dropGroup e g).genFinish e n r (backData (s.group e g)) (backMask (s.group e g))
    | none => s
  | _ => s

/-- Every portion of the group is back: the register is written as one unit (R226), and the group leaves. Into write generators the loads
of a gang end together, because a trap of one member takes effect in none (R341). -/
def State.finishLoad (s : State) (ep grp : Nat) : State :=
  match s.group ep grp with
  | [] => s
  | a :: rest =>
    let g := a :: rest
    let x := s.ctxAt ep a.ctx
    if !allBack g ∨ x.hold = .exact grp then s
    else if x.hold = .gen grp then
      let set := (s.core ep).teamCores ep
      if !s.allDecided ep a.ctx ∨ !(set.all fun e => s.genEnds a.ctx x.pc e) then s
      else
        match set.filterMap (s.genTrap a.ctx) with
        | [] => set.foldl (fun (s : State) e => s.genGo a.ctx e) s
        | t :: ts => (set.foldl (fun (s : State) e => s.dropProbe a.ctx e) s).takeTraps ep a.ctx false true (t :: ts)
    else (s.dropGroup ep grp).modCtx ep a.ctx fun x => x.putDst a.dst (backData g) (backMask g)

/-- A portion of a load, or a store that was kept, that can go on now. -/
def Acc.returns (a : Acc) : Bool := match a.op, a.stage with
  | .copy _, _ => false
  | .inner, _ => false
  | _, .ready .. => a.op.need = .read || a.op.plain
  | _, .window => true
  | _, .back _ => true
  | _, _ => false

/-! ## Replay (R372) -/

/-- The context that waits for an entry goes on: its instruction issues again (R371). -/
def State.endReplay (s : State) (ep : Nat) (n : Fin 11) (age : Nat) : State :=
  s.modCtx ep n fun x => if x.hold = .replay age ∨ x.hold = .convert age then { x with hold := .free, toks := [] } else x

/-- A context that waits for an entry ends its instruction there: a failing page or read has ended it (R52, R102). -/
def State.endAt (s : State) (ep : Nat) (n : Fin 11) (age : Nat) : State :=
  s.modCtx ep n fun x => if x.hold = .replay age ∨ x.hold = .convert age then x.passHeld else x

/-- Bits of the lines of a page in a write signature (R13). -/
def State.signPage (s : State) (ep : Nat) (n : Fin 11) (va : Word) (lines : Nat) : State :=
  s.modCtx ep n fun x => { x with sig := sigAddLines x.sig (aLine va) lines }

/-- The last steps of a converted page (R117 step 4, R119 steps 6 and 7): signature bits, and for RECYCLE the copies of the
page in this L1. -/
def State.endConvert (s : State) (ep : Nat) (a : Acc) (what : Nat) : State :=
  let lines := a.len / 128
  let s := s.signPage ep a.ctx a.va lines
  if what = 3 then s else s.modCore ep fun c => { c with l1 := c.l1.filter fun l =>
      !(l.2.lat && decide (aLine a.va ≤ aLine l.2.va ∧ aLine l.2.va < aLine a.va + lines)) }

/-- A portion's result at a replay: checks made here give deferred traps (R139). -/
def State.replayed (s : State) (ep : Nat) (a : Acc) (r : Perf) : State :=
  match r with
  | .gone s => (((s.dropAcc ep a.age).endReplay ep a.ctx a.age)).settle ep a.grp
  | .keep s b =>
    (s.modCore ep fun c => { c with accs := c.accs.map fun x => if x.age = a.age then { b with age := x.age, grp := x.grp } else x }).settle ep a.grp
  | .bad c v => ((s.failAcc ep a.age c v false).endReplay ep a.ctx a.age).settle ep a.grp

/-- An entry whose page translates: one portion for each of its lines (R104, R226), in the same entry. -/
def State.splitAcc (s : State) (ep : Nat) (a : Acc) : State × List Acc :=
  match portions a.chunks with
  | [] => (s, [a])
  | [_] => (s, [a])
  | p :: rest =>
    let fix (a : Acc) (cs : List Chunk) : Acc := { a with
      chunks := cs, va := (cs.headD (0, 0, 0)).1, doff := (cs.headD (0, 0, 0)).2.1,
      len := cs.foldl (fun (k : Nat) c => k + c.2.2) 0 }
    let first := fix a p
    let s := s.modCore ep fun c => { c with accs := c.accs.map fun x => if x.age = a.age then first else x }
    rest.foldl (fun (r : State × List Acc) cs =>
      let b := { fix a cs with age := (r.1.core ep).nextAge }
      (r.1.addAcc ep b, r.2 ++ [b])) (s, [first])

/-- An outstanding access whose translation misses again takes a new ticket in the same entry (R372). -/
def State.missAgain (s : State) (ep : Nat) (a : Acc) (k : BitVec 2) : State :=
  (s.setStage ep a.age (.missed k)).post
    (.request (clusterOf ep) (s.dev, ep) (aVpn a.va) k (s.core ep).owner (fld a.va 12 4) a.op.acc a.age)

/-- An entry is translated again and checked by the access table, as at first (R372 status 0); then `go`. -/
def State.again (s : State) (ep : Nat) (a : Acc) (go : State → Tlb → State) : State :=
  match s.translate ep a.op.need a.va with
  | (s, .ok t _) => go s t
  | (s, .denied) => s.denyAcc ep a a.va 6
  | (s, .miss k) => s.missAgain ep a k

/-- A portion is performed again at its replay (R372 status 0). The lines of a page portion are translated one by one, since the owner is
checked for each sub-page (R354). -/
def State.replayPortion (s : State) (ep : Nat) (a : Acc) : State :=
  if aDev a.va ≠ s.dev then
    match s.request ep a.ctx (a.packet s.dev) with
    | some s => s.setStage ep a.age .remote
    | none => s.denyAcc ep a a.va 1
  else if aWin a.va then
    if s.barredWin ep a.op.need a.va then s.denyAcc ep a a.va 6 else s.replayed ep a (s.performWin ep a)
  else s.again ep a fun s _ =>
    let q := s.splitAcc ep a
    q.2.foldl (fun (s : State) b => s.again ep b fun s t => s.replayed ep b (s.perform ep b t)) q.1

/-- An entry is replayed (R372 status 0): the accesses that reissue their instruction end its wait once their page translates. -/
def State.replay (s : State) (ep : Nat) (a : Acc) : State :=
  let on (s : State) : State := (s.dropAcc ep a.age).endReplay ep a.ctx a.age
  match a.op with
  | .range what .. =>
    if aDev a.va ≠ s.dev then (if what < 8 then s.replayPortion ep a else on s)
    else if what = 3 ∨ what = 4 then
      -- the instruction goes on at its next page
      ((on s).endConvert ep a what).modCtx ep a.ctx fun x => { x with cursor := x.cursor + a.len / 128 }
    else if what = 20 then (on s).endConvert ep a 4
    else s.again ep a fun s _ => on s
  | .fetch => s.again ep a fun s _ => on s
  | .inner =>
    if aDev a.va ≠ s.dev then s.replayPortion ep a
    else if aWin a.va then on s
    else s.again ep a fun s _ => on s
  | .copy _ => if aDev a.va ≠ s.dev ∨ aWin a.va then s.dropAcc ep a.age else s.again ep a fun s _ => s.dropAcc ep a.age
  | _ => s.replayPortion ep a

/-- An outstanding access fails after its issue: its deferred trap is raised (R75, R139, R372); what waits for it goes on. A range
instruction ends with its failing page (R102), and an instruction with a read inside it ends with that read. -/
def State.failLate (s : State) (ep : Nat) (a : Acc) (cause : BitVec 6) (tval : Word) : State :=
  match a.op with
  | .range .. => ((s.deferAcc ep a cause tval).dropAcc ep a.age).endAt ep a.ctx a.age
  | .fetch => ((s.deferAcc ep a cause tval).dropAcc ep a.age).endReplay ep a.ctx a.age
  | .inner => ((s.deferAcc ep a cause tval).dropAcc ep a.age).endAt ep a.ctx a.age
  | .copy _ => s.failAcc ep a.age cause tval false
  | _ => ((s.failAcc ep a.age cause tval false).endReplay ep a.ctx a.age).settle ep a.grp

/-! ## Reads inside an instruction (R52, R365, R443, R492) -/

/-- The outcome of a read made inside an instruction. -/
inductive Inner where
  | ok (s : State) (v : Nat)
  /-- the instruction ends here: it stalls, waits or traps -/
  | stop (r : Res)

/-- The reads that an instruction makes while it issues: `n` aligned bytes within one line, as an ordinary load reads
them. A ticketed read makes the instruction issue again after its replay (log 16). So the block loads of MCALL can raise 16, 17 and 24 as
R75 and R492 have it, although R500 lists 13 alone for them (log 150). -/
def State.innerRead (s : State) (a : Word) (n : Nat) : Inner :=
  let ep := s.cur.1
  let cs : List Chunk := [(a, 0, n)]
  let mask : BitVec 512 := maskRun 512 0 n
  if s.lineBusy ep s.cur.2 true cs ∨ s.rangeBusy ep cs ∨ s.acquiring ep s.cur.2 ∨ s.heldAcquire ep cs then .stop (stall s)
  else if aDev a ≠ s.dev then
    -- the line comes in a reply, and the instruction issues again (R546)
    match s.me.accs.findSome? fun b =>
        match b.op, b.stage with
        | .inner, .back d =>
          if b.ctx == s.cur.2 && aLine b.va == aLine a && (maskRun 128 (a.toNat % 128) n &&& ~~~(fld b.mask 0 128 : BitVec 128)) == 0
          then some d else none
        | _, _ => none with
    | some d => .ok s (lineVal (fld d 0 1024) (a.toNat % 128) n)
    | none =>
      let acc := s.newAcc s.me.nextAge .inner cs mask 0 .none .remote
      if !s.me.ticketRoom 1 ∨ s.me.remotes s.dev ≥ Config.nRemote then .stop (stall s)
      else match s.request ep s.cur.2 (acc.packet s.dev) with
        | some t => .stop (.next ((t.addAcc ep acc).holdOn (.replay acc.age)))
        | none => .stop (.next ((s.addDenied ep acc 1).holdOn (.replay acc.age)))
  else if aWin a then
    let acc := s.newAcc s.me.nextAge .inner cs mask 0 .none .remote
    if s.barredWin ep .read a then
      if s.me.ticketRoom 1 then .stop (.next ((s.addDenied ep acc 6).holdOn (.replay acc.age))) else .stop (stall s)
    else match s.firstEmpty ep mask cs with
    | some w => .stop (s.parkWord w)
    | none =>
      if s.imageBusy true (2 ^ n - 1) [(cs, .window)] then .stop (stall s)
      else
        match s.winRead (aEp a) (s.sysLevel ep s.cur.2) (aOff a) n (2 ^ n - 1) with
        | .ok v => .ok (s.tellPad ep s.cur.2 (aEp a) 0 [(aOff a, n)]) v
        | .bad o => .stop (trap 24 (winAddr s.dev (aEp a) o) s)
        -- an empty word of another core (R274): the instruction has issued, and its trap is deferred
        | .empty w => .stop (.next { s.deferAt ep s.cur.2 acc.age 16 s.pc (winAddr s.dev (aEp a) w) .none true with out := .stalled })
  else
    let r := s.translate ep .read a
    let acc := r.1.newAcc r.1.me.nextAge .inner cs mask 0 .none .remote
    match r.2 with
    | .miss k =>
      if r.1.me.ticketRoom 1 then .stop (.next ((r.1.addMissed ep acc k).holdOn (.replay acc.age))) else .stop (stall s)
    | .denied =>
      if r.1.me.ticketRoom 1 then .stop (.next ((r.1.addDenied ep acc 6).holdOn (.replay acc.age))) else .stop (stall s)
    | .ok t pa =>
      let line := pa / 128
      if t.cls = .lat then
        let s := r.1.cbDrainLine ep s.cur.2 line
        if (s.pressQ.any fun o => o.line = line && o.who == s.party ep s.cur.2) ∨
            (s.routers.any fun e => e.op.line = line) then .stop (.next { s with out := .stalled })
        else
          let v : BitVec 128 := maskRun 128 (a.toNat % 128) n
          match s.latCopy ep line v with
          | some c => .ok s (lineVal c (a.toNat % 128) n)
          | none =>
            let q := s.readLat ep s.cur.2 line a
            let rd := readMask (s.line line) t.typ t.width q.2
            let d := (s.line line).shown t.typ t.width q.2
            if t.cork ∨ v &&& ~~~rd = 0 then .ok q.1 (lineVal d (a.toNat % 128) n) else .stop (trap 16 a s)
      else
        match (if t.cls = .host then r.1.heldSectors line (maskRun 128 (a.toNat % 128) n) false else []) with
        | [] =>
          let q := r.1.readPlain ep s.cur.2 t.cls line a (maskRun 128 (a.toNat % 128) n)
          .ok q.1 (lineVal q.2 (a.toNat % 128) n)
        | secs => .stop (.next { r.1.sendSnoops ep s.cur.2 secs with out := .stalled })

/-- `k` consecutive doublewords, each read as by `innerRead`; they do not leave the first one's page. -/
def State.innerWords (s : State) (a : Word) : Nat → Except Res (State × List Word)
  | 0 => .ok (s, [])
  | k + 1 =>
    match s.innerRead a 8 with
    | .stop r => .error r
    | .ok s v =>
      match s.innerWords (a + 8) k with
      | .ok (s, ws) => .ok (s, w64 v :: ws)
      | .error r => .error r

/-! ## Releases (R305, R312) -/

/-- Every earlier access of the context is performed: nothing outstanding, buffered, in a router or at a press, no copy or
cask command of its own, no message of it on the way (R121, R312). -/
def State.quiet (s : State) (ep : Nat) (n : Fin 11) : Bool :=
  let c := s.core ep
  let who := s.party ep n
  let mine (o : PressOp) : Bool := o.who == who || (match o.kind with | .join _ _ _ ps _ => ps.contains who | _ => false)
  !(c.accs.any fun a => a.ctx = n && !a.heldLine) &&
    !(c.cb.any fun e => e.parties.contains n) &&
    !(s.routers.any fun e => mine e.op) && !(s.pressQ.any mine) &&
    !(c.cq.any fun q => q.by_ n) &&
    !(s.cores.any fun k => k.2.casks.any fun q => q.by_ ep n) &&
    !(s.fab.merge.any fun e => e.2.parties.any fun p => sameCtx p who) &&
    !(s.net.any fun m => match m with
      | .cask _ q => q.by_ ep n
      | .caskDone q _ _ => q.by_ ep n
      | _ => false)

/-- The lines that reads inside the instruction at a pc have fetched are kept for it alone. -/
def State.dropHeld (s : State) (ep : Nat) (n : Fin 11) : State :=
  if (s.core ep).accs.any fun a => a.ctx = n && a.heldLine && a.pc ≠ (s.ctxAt ep n).pc then
    s.modCore ep fun c => { c with accs := c.accs.filter fun a => !(a.ctx = n && a.heldLine && a.pc ≠ (s.ctxAt ep n).pc) }
  else s

/-- No older fault ticket of the context (R305). -/
def State.ticketFree (s : State) (ep : Nat) (n : Fin 11) : Bool := !((s.core ep).accs.any fun a => a.ctx = n && a.entry)

end Sys2Proof.Machine
end

