-- ==== Sys2Proof/Machine/Scalar.lean ====
section
/-! DEFINITION.
Scalar integer instructions and control transfers (R65 to R69), loads and stores (R70 to R76). -/

namespace Sys2Proof.Machine

open Sys2Proof

/-! ## Shared operations -/

/-- The sign-extended 12-bit immediate (R35). -/
def imm12 (imm : BitVec 12) : Word := imm.signExtend 64

/-- The U immediate (R35): bits [31:12] from the word, sign-extended from bit 31. -/
def immU (imm : BitVec 20) : Word := (imm ++ 0#12).signExtend 64

/-- The B displacement (R34): imm[12:1] and a zero bit. -/
def immB (off : BitVec 12) : Word := (off ++ 0#1).signExtend 64

/-- The J displacement (R34). -/
def immJ (off : BitVec 20) : Word := (off ++ 0#1).signExtend 64

/-- The low 32 bits, sign-extended: the result form of the W instructions (R65). -/
def sext32 (v : BitVec 32) : Word := v.signExtend 64

/-- The low 32 bits of a register value. -/
def low32 (v : Word) : BitVec 32 := fld v 0 32

/-- X[rd] := v, and the instruction completes (R65). -/
def wrX (rd : Reg) (v : Word) (s : State) : Res := retire (s.setX rd v)

/-- High 64 bits of an exact product (R66). -/
def mulHigh (p : Int) : Word := BitVec.ofInt 64 (p / 2 ^ 64)

/-- Signed division rounded toward zero, with the special cases of R67. -/
def divS {n : Nat} (a b : BitVec n) : BitVec n :=
  if b = 0 then BitVec.allOnes n else BitVec.ofInt n (a.toInt.tdiv b.toInt)

/-- Unsigned division (R67). -/
def divU {n : Nat} (a b : BitVec n) : BitVec n := if b = 0 then BitVec.allOnes n else BitVec.ofNat n (a.toNat / b.toNat)

/-- Signed remainder, with the sign of the dividend (R67). -/
def remS {n : Nat} (a b : BitVec n) : BitVec n := if b = 0 then a else BitVec.ofInt n (a.toInt.tmod b.toInt)

/-- Unsigned remainder (R67). -/
def remU {n : Nat} (a b : BitVec n) : BitVec n := if b = 0 then a else BitVec.ofNat n (a.toNat % b.toNat)

/-- A transfer to `t`: a target that is not a multiple of 4 is cause 0 (R68). -/
def jump (t : Word) (s : State) (go : State → State) : Res :=
  if t.toNat % 4 ≠ 0 then trap 0 t s else .next ((go s).goto t)

/-- A conditional branch (R68). -/
def branch (taken : Bool) (off : BitVec 12) (s : State) : Res :=
  if taken then jump (s.pc + immB off) s id else retire s

/-- The context's next instruction has to be an LPAD with this label (R48, R49). -/
def State.expectPad (s : State) (label : BitVec 12) : State := s.setCtx { s.ctx with pad := some label }

/-- A JALR is a return when rd = x0, rs1 is x1 or x5 and imm12 = 0 (R69). -/
def isReturn (rd rs1 : Reg) (imm : BitVec 12) : Bool := rd == 0 && (rs1 == 1 || rs1 == 5) && imm == 0

/-- The effective address of a load or store (R70). -/
def State.ea (s : State) (rs1 : Reg) (imm : BitVec 12) : Word := s.x rs1 + imm12 imm

/-! ## Meanings -/

/-- LUI (R65). -/
def execLui (rd : Reg) (imm : BitVec 20) (s : State) : Res := wrX rd (immU imm) s

/-- AUIPC (R65). -/
def execAuipc (rd : Reg) (imm : BitVec 20) (s : State) : Res := wrX rd (s.pc + immU imm) s

/-- ADDI (R65). -/
def execAddi (rd rs1 : Reg) (imm : BitVec 12) (s : State) : Res := wrX rd (s.x rs1 + imm12 imm) s

/-- SLTI (R65). -/
def execSlti (rd rs1 : Reg) (imm : BitVec 12) (s : State) : Res := wrX rd (wBool ((s.x rs1).slt (imm12 imm))) s

/-- SLTIU (R65). -/
def execSltiu (rd rs1 : Reg) (imm : BitVec 12) (s : State) : Res := wrX rd (wBool ((s.x rs1).ult (imm12 imm))) s

/-- XORI (R65). -/
def execXori (rd rs1 : Reg) (imm : BitVec 12) (s : State) : Res := wrX rd (s.x rs1 ^^^ imm12 imm) s

/-- ORI (R65). -/
def execOri (rd rs1 : Reg) (imm : BitVec 12) (s : State) : Res := wrX rd (s.x rs1 ||| imm12 imm) s

/-- ANDI (R65). -/
def execAndi (rd rs1 : Reg) (imm : BitVec 12) (s : State) : Res := wrX rd (s.x rs1 &&& imm12 imm) s

/-- SLLI (R65). -/
def execSlli (rd rs1 : Reg) (sh : BitVec 6) (s : State) : Res := wrX rd (s.x rs1 <<< sh.toNat) s

/-- SRLI (R65). -/
def execSrli (rd rs1 : Reg) (sh : BitVec 6) (s : State) : Res := wrX rd (s.x rs1 >>> sh.toNat) s

/-- SRAI (R65). -/
def execSrai (rd rs1 : Reg) (sh : BitVec 6) (s : State) : Res := wrX rd ((s.x rs1).sshiftRight sh.toNat) s

/-- ADDIW (R65). -/
def execAddiw (rd rs1 : Reg) (imm : BitVec 12) (s : State) : Res := wrX rd (sext32 (low32 (s.x rs1 + imm12 imm))) s

/-- SLLIW (R65). -/
def execSlliw (rd rs1 : Reg) (sh : BitVec 5) (s : State) : Res := wrX rd (sext32 (low32 (s.x rs1) <<< sh.toNat)) s

/-- SRLIW (R65). -/
def execSrliw (rd rs1 : Reg) (sh : BitVec 5) (s : State) : Res := wrX rd (sext32 (low32 (s.x rs1) >>> sh.toNat)) s

/-- SRAIW (R65). -/
def execSraiw (rd rs1 : Reg) (sh : BitVec 5) (s : State) : Res := wrX rd (sext32 ((low32 (s.x rs1)).sshiftRight sh.toNat)) s

/-- ADD (R65). -/
def execAdd (rd rs1 rs2 : Reg) (s : State) : Res := wrX rd (s.x rs1 + s.x rs2) s

/-- SUB (R65). -/
def execSub (rd rs1 rs2 : Reg) (s : State) : Res := wrX rd (s.x rs1 - s.x rs2) s

/-- SLL (R65). -/
def execSll (rd rs1 rs2 : Reg) (s : State) : Res := wrX rd (s.x rs1 <<< (fld (s.x rs2) 0 6 : BitVec 6).toNat) s

/-- SLT (R65). -/
def execSlt (rd rs1 rs2 : Reg) (s : State) : Res := wrX rd (wBool ((s.x rs1).slt (s.x rs2))) s

/-- SLTU (R65). -/
def execSltu (rd rs1 rs2 : Reg) (s : State) : Res := wrX rd (wBool ((s.x rs1).ult (s.x rs2))) s

/-- XOR (R65). -/
def execXorR (rd rs1 rs2 : Reg) (s : State) : Res := wrX rd (s.x rs1 ^^^ s.x rs2) s

/-- SRL (R65). -/
def execSrl (rd rs1 rs2 : Reg) (s : State) : Res := wrX rd (s.x rs1 >>> (fld (s.x rs2) 0 6 : BitVec 6).toNat) s

/-- SRA (R65). -/
def execSra (rd rs1 rs2 : Reg) (s : State) : Res := wrX rd ((s.x rs1).sshiftRight (fld (s.x rs2) 0 6 : BitVec 6).toNat) s

/-- OR (R65). -/
def execOrR (rd rs1 rs2 : Reg) (s : State) : Res := wrX rd (s.x rs1 ||| s.x rs2) s

/-- AND (R65). -/
def execAndR (rd rs1 rs2 : Reg) (s : State) : Res := wrX rd (s.x rs1 &&& s.x rs2) s

/-- ADDW (R65). -/
def execAddw (rd rs1 rs2 : Reg) (s : State) : Res := wrX rd (sext32 (low32 (s.x rs1 + s.x rs2))) s

/-- SUBW (R65). -/
def execSubw (rd rs1 rs2 : Reg) (s : State) : Res := wrX rd (sext32 (low32 (s.x rs1 - s.x rs2))) s

/-- SLLW (R65). -/
def execSllw (rd rs1 rs2 : Reg) (s : State) : Res := wrX rd (sext32 (low32 (s.x rs1) <<< (fld (s.x rs2) 0 5 : BitVec 5).toNat)) s

/-- SRLW (R65). -/
def execSrlw (rd rs1 rs2 : Reg) (s : State) : Res := wrX rd (sext32 (low32 (s.x rs1) >>> (fld (s.x rs2) 0 5 : BitVec 5).toNat)) s

/-- SRAW (R65). -/
def execSraw (rd rs1 rs2 : Reg) (s : State) : Res := wrX rd (sext32 ((low32 (s.x rs1)).sshiftRight (fld (s.x rs2) 0 5 : BitVec 5).toNat)) s

/-- MUL (R66). -/
def execMul (rd rs1 rs2 : Reg) (s : State) : Res := wrX rd (s.x rs1 * s.x rs2) s

/-- MULH (R66). -/
def execMulh (rd rs1 rs2 : Reg) (s : State) : Res := wrX rd (mulHigh ((s.x rs1).toInt * (s.x rs2).toInt)) s

/-- MULHSU (R66). -/
def execMulhsu (rd rs1 rs2 : Reg) (s : State) : Res := wrX rd (mulHigh ((s.x rs1).toInt * (s.x rs2).toNat)) s

/-- MULHU (R66). -/
def execMulhu (rd rs1 rs2 : Reg) (s : State) : Res := wrX rd (mulHigh ((s.x rs1).toNat * (s.x rs2).toNat)) s

/-- DIV (R66, R67). -/
def execDiv (rd rs1 rs2 : Reg) (s : State) : Res := wrX rd (divS (s.x rs1) (s.x rs2)) s

/-- DIVU (R66, R67). -/
def execDivu (rd rs1 rs2 : Reg) (s : State) : Res := wrX rd (divU (s.x rs1) (s.x rs2)) s

/-- REM (R66, R67). -/
def execRem (rd rs1 rs2 : Reg) (s : State) : Res := wrX rd (remS (s.x rs1) (s.x rs2)) s

/-- REMU (R66, R67). -/
def execRemu (rd rs1 rs2 : Reg) (s : State) : Res := wrX rd (remU (s.x rs1) (s.x rs2)) s

/-- MULW (R66). -/
def execMulw (rd rs1 rs2 : Reg) (s : State) : Res := wrX rd (sext32 (low32 (s.x rs1) * low32 (s.x rs2))) s

/-- DIVW (R66, R67). -/
def execDivw (rd rs1 rs2 : Reg) (s : State) : Res := wrX rd (sext32 (divS (low32 (s.x rs1)) (low32 (s.x rs2)))) s

/-- DIVUW (R66, R67). -/
def execDivuw (rd rs1 rs2 : Reg) (s : State) : Res := wrX rd (sext32 (divU (low32 (s.x rs1)) (low32 (s.x rs2)))) s

/-- REMW (R66, R67). -/
def execRemw (rd rs1 rs2 : Reg) (s : State) : Res := wrX rd (sext32 (remS (low32 (s.x rs1)) (low32 (s.x rs2)))) s

/-- REMUW (R66, R67). -/
def execRemuw (rd rs1 rs2 : Reg) (s : State) : Res := wrX rd (sext32 (remU (low32 (s.x rs1)) (low32 (s.x rs2)))) s

/-- JAL (R68). -/
def execJal (rd : Reg) (off : BitVec 20) (s : State) : Res := 
  jump (s.pc + immJ off) s fun s => s.setX rd (s.pc + 4)

/-- JALR (R68, R69): checked with label 0 unless it is a return. -/
def execJalr (rd rs1 : Reg) (imm : BitVec 12) (s : State) : Res := 
  jump ((s.x rs1 + imm12 imm) &&& ~~~(1 : Word)) s fun s =>
    let s := s.setX rd (s.pc + 4)
    if isReturn rd rs1 imm then s else s.expectPad 0

/-- BEQ (R68). -/
def execBeq (rs1 rs2 : Reg) (off : BitVec 12) (s : State) : Res := branch (s.x rs1 == s.x rs2) off s

/-- BNE (R68). -/
def execBne (rs1 rs2 : Reg) (off : BitVec 12) (s : State) : Res := branch (s.x rs1 != s.x rs2) off s

/-- BLT (R68). -/
def execBlt (rs1 rs2 : Reg) (off : BitVec 12) (s : State) : Res := branch ((s.x rs1).slt (s.x rs2)) off s

/-- BGE (R68). -/
def execBge (rs1 rs2 : Reg) (off : BitVec 12) (s : State) : Res := branch (!(s.x rs1).slt (s.x rs2)) off s

/-- BLTU (R68). -/
def execBltu (rs1 rs2 : Reg) (off : BitVec 12) (s : State) : Res := branch ((s.x rs1).ult (s.x rs2)) off s

/-- BGEU (R68). -/
def execBgeu (rs1 rs2 : Reg) (off : BitVec 12) (s : State) : Res := branch (!(s.x rs1).ult (s.x rs2)) off s

/-- LB (R70 to R76). -/
def execLb (rd rs1 : Reg) (imm : BitVec 12) (s : State) : Res := s.scalar .load (s.ea rs1 imm) 1 0 (.x rd 1 true)

/-- LH (R70 to R76). -/
def execLh (rd rs1 : Reg) (imm : BitVec 12) (s : State) : Res := s.scalar .load (s.ea rs1 imm) 2 0 (.x rd 2 true)

/-- LW (R70 to R76). -/
def execLw (rd rs1 : Reg) (imm : BitVec 12) (s : State) : Res := s.scalar .load (s.ea rs1 imm) 4 0 (.x rd 4 true)

/-- LD (R70 to R76). -/
def execLd (rd rs1 : Reg) (imm : BitVec 12) (s : State) : Res := s.scalar .load (s.ea rs1 imm) 8 0 (.x rd 8 true)

/-- LBU (R70 to R76). -/
def execLbu (rd rs1 : Reg) (imm : BitVec 12) (s : State) : Res := s.scalar .load (s.ea rs1 imm) 1 0 (.x rd 1 false)

/-- LHU (R70 to R76). -/
def execLhu (rd rs1 : Reg) (imm : BitVec 12) (s : State) : Res := s.scalar .load (s.ea rs1 imm) 2 0 (.x rd 2 false)

/-- LWU (R70 to R76). -/
def execLwu (rd rs1 : Reg) (imm : BitVec 12) (s : State) : Res := s.scalar .load (s.ea rs1 imm) 4 0 (.x rd 4 false)

/-- SB (R70 to R73). -/
def execSb (rs1 rs2 : Reg) (imm : BitVec 12) (s : State) : Res := s.scalar .store (s.ea rs1 imm) 1 (s.x rs2) .none

/-- SH (R70 to R73). -/
def execSh (rs1 rs2 : Reg) (imm : BitVec 12) (s : State) : Res := s.scalar .store (s.ea rs1 imm) 2 (s.x rs2) .none

/-- SW (R70 to R73). -/
def execSw (rs1 rs2 : Reg) (imm : BitVec 12) (s : State) : Res := s.scalar .store (s.ea rs1 imm) 4 (s.x rs2) .none

/-- SD (R70 to R73). -/
def execSd (rs1 rs2 : Reg) (imm : BitVec 12) (s : State) : Res := s.scalar .store (s.ea rs1 imm) 8 (s.x rs2) .none

/-- FLW (R70). -/
def execFlw (rd rs1 : Reg) (imm : BitVec 12) (s : State) : Res := s.scalar .load (s.ea rs1 imm) 4 0 (.f rd)

/-- FSW (R70, R73). -/
def execFsw (rs1 rs2 : Reg) (imm : BitVec 12) (s : State) : Res := s.scalar .store (s.ea rs1 imm) 4 ((s.f rs2).zeroExtend 64) .none

end Sys2Proof.Machine
end

