-- ==== Sys2Proof/Machine/Float.lean ====
section
/-! DEFINITION.
Scalar floating-point instructions (R86 to R91). -/

namespace Sys2Proof.Machine

open Sys2Proof

/-! ## Shared operations -/

/-- The rounding mode of an instruction: its rm field, or FRM for 111; 101, 110 and 111 in FRM are illegal (R87). -/
def State.rnd (s : State) (rm : BitVec 3) : Option Rnd :=
  let code : BitVec 3 := if rm = 7 then fld s.ctx.csr.fcsr 5 3 else rm
  match code.toNat with
  | 0 => some .rne
  | 1 => some .rtz
  | 2 => some .rdn
  | 3 => some .rup
  | 4 => some .rmm
  | _ => none

/-- The value of an f register (R89: subnormals included). -/
def State.fv (s : State) (r : Reg) : Val := decodeFlt fp32 (s.f r).toNat

/-- F[rd] := the rounded value, with its flags (R88). -/
def arith (rd : Reg) (rm : BitVec 3) (f : Bool → Val × Flags) (s : State) : Res :=
  match s.rnd rm with
  | none => illegal s
  | some r =>
    let v := encodeArith fp32 r (f (r = .rdn))
    retire ((s.setF rd (BitVec.ofNat 32 v.1)).fflags v.2)

/-- X[rd] := the integer of F[rs1] in [lo, hi], saturated with NV outside (R90). -/
def fcvtInt (rd rs1 : Reg) (rm : BitVec 3) (lo hi : Int) (out : Int → Word) (s : State) : Res :=
  match s.rnd rm with
  | none => illegal s
  | some r =>
    let res : Int × Flags := match s.fv rs1 with
      | .nan .. => (hi, fNV)
      | .inf n => (if n then lo else hi, fNV)
      | .fin n m e =>
        let q := roundAt r n m e 0
        let v : Int := if n then -(q.1 : Int) else q.1
        if v < lo then (lo, fNV) else if hi < v then (hi, fNV) else (v, if q.2 then fNX else 0)
    retire ((s.setX rd (out res.1)).fflags res.2)

/-- F[rd] := the rounded integer (R88, R89). -/
def fcvtFrom (rd : Reg) (rm : BitVec 3) (v : Int) (s : State) : Res :=
  arith rd rm (fun _ => (Val.ofInt v 0 false, 0)) s

/-- An FP32 number with the sign bit replaced (R88). -/
def withSign (v : BitVec 32) (sign : BitVec 1) : BitVec 32 := sign ++ fld v 0 31

/-- a < b of two numbers that are not NaN, −0 = +0. -/
def Val.lt (a b : Val) : Bool :=
  match a, b with
  | .nan .., _ => false
  | _, .nan .. => false
  | .inf n, .inf k => n && !k
  | .inf n, .fin .. => n
  | .fin .., .inf k => !k
  | .fin n m e, .fin k p q =>
    if m = 0 ∧ p = 0 then false
    else if m = 0 then !k
    else if p = 0 then n
    else if n ≠ k then n
    else if n then cmpMag p q m e = .lt else cmpMag m e p q = .lt

/-- a = b of two numbers that are not NaN, −0 = +0. -/
def Val.eqv (a b : Val) : Bool := !a.isNan && !b.isNan && !(a.lt b) && !(b.lt a)

/-- The smaller of two FP32 numbers, −0 below +0; a NaN gives way to a number (R89). `max`: the larger. -/
def minMax (max : Bool) (a b : BitVec 32) : BitVec 32 × Flags :=
  let x := decodeFlt fp32 a.toNat
  let y := decodeFlt fp32 b.toNat
  let fl := x.sigNan ||| y.sigNan
  if x.isNan ∧ y.isNan then (BitVec.ofNat 32 qnan32, fl)
  else if x.isNan then (b, fl)
  else if y.isNan then (a, fl)
  else if (ord32 a.toNat < ord32 b.toNat) = max then (b, fl) else (a, fl)

/-- A comparison: X[rd] := 0 or 1; `quiet`: only a signalling NaN sets NV (R89). -/
def compareF (rd rs1 rs2 : Reg) (quiet : Bool) (rel : Val → Val → Bool) (s : State) : Res :=
  let a := s.fv rs1
  let b := s.fv rs2
  let fl := a.sigNan ||| b.sigNan ||| (if !quiet && (a.isNan || b.isNan) then fNV else 0)
  retire ((s.setX rd (wBool (rel a b))).fflags fl)

/-- The class of an FP32 number as a bit number (R91). -/
def classBit (v : BitVec 32) : Nat :=
  let neg := fld v 31 1 = 1
  match decodeFlt fp32 v.toNat with
  | .nan s _ => if s then 8 else 9
  | .inf n => if n then 0 else 7
  | .fin _ m _ =>
    if m = 0 then (if neg then 3 else 4)
    else if fld v 23 8 = 0 then (if neg then 2 else 5)
    else if neg then 1 else 6

/-! ## Meanings -/

/-- FMADD.S (R88): one rounding of the exact product and sum. -/
def execFmaddS (rd rs1 rs2 rs3 : Reg) (rm : BitVec 3) (s : State) : Res :=
  arith rd rm (fun rdn => vFma rdn (s.fv rs1) (s.fv rs2) (s.fv rs3)) s

/-- FMSUB.S (R88): one rounding of the exact product and sum. -/
def execFmsubS (rd rs1 rs2 rs3 : Reg) (rm : BitVec 3) (s : State) : Res :=
  arith rd rm (fun rdn => vFma rdn (s.fv rs1) (s.fv rs2) (s.fv rs3).negate) s

/-- FNMSUB.S (R88): one rounding of the exact product and sum. -/
def execFnmsubS (rd rs1 rs2 rs3 : Reg) (rm : BitVec 3) (s : State) : Res :=
  arith rd rm (fun rdn => vFma rdn (s.fv rs1).negate (s.fv rs2) (s.fv rs3)) s

/-- FNMADD.S (R88): one rounding of the exact product and sum. -/
def execFnmaddS (rd rs1 rs2 rs3 : Reg) (rm : BitVec 3) (s : State) : Res :=
  arith rd rm (fun rdn => vFma rdn (s.fv rs1).negate (s.fv rs2) (s.fv rs3).negate) s

/-- FADD.S (R88). -/
def execFaddS (rd rs1 rs2 : Reg) (rm : BitVec 3) (s : State) : Res :=
  arith rd rm (fun rdn => vAdd rdn (s.fv rs1) (s.fv rs2)) s

/-- FSUB.S (R88). -/
def execFsubS (rd rs1 rs2 : Reg) (rm : BitVec 3) (s : State) : Res :=
  arith rd rm (fun rdn => vAdd rdn (s.fv rs1) (s.fv rs2).negate) s

/-- FMUL.S (R88). -/
def execFmulS (rd rs1 rs2 : Reg) (rm : BitVec 3) (s : State) : Res :=
  arith rd rm (fun _ => vMul (s.fv rs1) (s.fv rs2)) s

/-- FDIV.S (R88). -/
def execFdivS (rd rs1 rs2 : Reg) (rm : BitVec 3) (s : State) : Res :=
  arith rd rm (fun _ => vDiv (s.fv rs1) (s.fv rs2)) s

/-- FSQRT.S (R88). -/
def execFsqrtS (rd rs1 : Reg) (rm : BitVec 3) (s : State) : Res :=
  arith rd rm (fun _ => vSqrt (s.fv rs1)) s

/-- FSGNJ.S (R88). -/
def execFsgnjS (rd rs1 rs2 : Reg) (s : State) : Res :=
  retire (s.setF rd (withSign (s.f rs1) (fld (s.f rs2) 31 1)))

/-- FSGNJN.S (R88). -/
def execFsgnjnS (rd rs1 rs2 : Reg) (s : State) : Res :=
  retire (s.setF rd (withSign (s.f rs1) (~~~(fld (s.f rs2) 31 1))))

/-- FSGNJX.S (R88). -/
def execFsgnjxS (rd rs1 rs2 : Reg) (s : State) : Res :=
  retire (s.setF rd (withSign (s.f rs1) (fld (s.f rs1) 31 1 ^^^ fld (s.f rs2) 31 1)))

/-- FMIN.S (R89). -/
def execFminS (rd rs1 rs2 : Reg) (s : State) : Res :=
  let v := minMax false (s.f rs1) (s.f rs2)
  retire ((s.setF rd v.1).fflags v.2)

/-- FMAX.S (R89). -/
def execFmaxS (rd rs1 rs2 : Reg) (s : State) : Res :=
  let v := minMax true (s.f rs1) (s.f rs2)
  retire ((s.setF rd v.1).fflags v.2)

/-- FCVT.W.S (R90). -/
def execFcvtWS (rd rs1 : Reg) (rm : BitVec 3) (s : State) : Res :=
  fcvtInt rd rs1 rm (-2147483648) 2147483647 (fun v => sext32 (BitVec.ofInt 32 v)) s

/-- FCVT.WU.S (R90). -/
def execFcvtWuS (rd rs1 : Reg) (rm : BitVec 3) (s : State) : Res :=
  fcvtInt rd rs1 rm 0 4294967295 (fun v => sext32 (BitVec.ofInt 32 v)) s

/-- FCVT.L.S (R90). -/
def execFcvtLS (rd rs1 : Reg) (rm : BitVec 3) (s : State) : Res :=
  fcvtInt rd rs1 rm (-9223372036854775808) 9223372036854775807 wInt s

/-- FCVT.LU.S (R90). -/
def execFcvtLuS (rd rs1 : Reg) (rm : BitVec 3) (s : State) : Res :=
  fcvtInt rd rs1 rm 0 18446744073709551615 wInt s

/-- FCVT.S.W (R88). -/
def execFcvtSW (rd rs1 : Reg) (rm : BitVec 3) (s : State) : Res :=
  fcvtFrom rd rm (low32 (s.x rs1)).toInt s

/-- FCVT.S.WU (R88). -/
def execFcvtSWu (rd rs1 : Reg) (rm : BitVec 3) (s : State) : Res :=
  fcvtFrom rd rm ((low32 (s.x rs1)).toNat : Int) s

/-- FCVT.S.L (R88). -/
def execFcvtSL (rd rs1 : Reg) (rm : BitVec 3) (s : State) : Res :=
  fcvtFrom rd rm (s.x rs1).toInt s

/-- FCVT.S.LU (R88). -/
def execFcvtSLu (rd rs1 : Reg) (rm : BitVec 3) (s : State) : Res :=
  fcvtFrom rd rm ((s.x rs1).toNat : Int) s

/-- FMV.X.W (R88). -/
def execFmvXW (rd rs1 : Reg) (s : State) : Res :=
  wrX rd (sext32 (s.f rs1)) s

/-- FCLASS.S (R91). -/
def execFclassS (rd rs1 : Reg) (s : State) : Res :=
  wrX rd (w64 (2 ^ classBit (s.f rs1))) s

/-- FEQ.S (R89). -/
def execFeqS (rd rs1 rs2 : Reg) (s : State) : Res :=
  compareF rd rs1 rs2 true Val.eqv s

/-- FLT.S (R89). -/
def execFltS (rd rs1 rs2 : Reg) (s : State) : Res :=
  compareF rd rs1 rs2 false Val.lt s

/-- FLE.S (R89). -/
def execFleS (rd rs1 rs2 : Reg) (s : State) : Res :=
  compareF rd rs1 rs2 false (fun a b => a.lt b || a.eqv b) s

/-- FMV.W.X (R88). -/
def execFmvWX (rd rs1 : Reg) (s : State) : Res :=
  retire (s.setF rd (low32 (s.x rs1)))

end Sys2Proof.Machine
end

