-- ==== Sys2Proof/Machine/Context.lean ====
section
/-! DEFINITION.
Helper contexts (R26 to R28), landing pads and jump tables (R47 to R52), environment calls, breakpoints and KRET
(R81, R82), and the delivery of deferred traps and reported faults (R139, R147, R150). -/

namespace Sys2Proof.Machine

open Sys2Proof

/-! ## Releases -/

/-- The waiting half of a release: the context's buffered entries are sent on; true when everything earlier is performed
(R175, R315). -/
def State.relStep (s : State) : State × Bool :=
  let s := s.cbDrainCtx s.cur.1 s.cur.2
  (s, s.quiet s.cur.1 s.cur.2)

/-- A release that has to wait: the entries are on their way, and the instruction issues again. -/
def stallIn (s : State) : Res := .next { s with out := .stalled }

/-- A context that is not context 0, or a gang member, may not issue the instruction (R25). -/
def State.onlyZero (s : State) : Bool := s.cur.2 != 0 || s.me.gang.g

/-! ## Helpers -/

/-- The state of helper n after HSTART (R26). -/
def startHelper (issuer old : Ctx) (entry arg : Word) : Ctx :=
  let c : Ctx := {
    life := .live, pc := entry, pad := some 0, rep := old.rep, last := old.last
    csr := {
      prv := issuer.csr.prv, tvec := issuer.csr.tvec, scratch := issuer.csr.scratch, gset := issuer.csr.gset
      seed := issuer.csr.seed, dom := issuer.csr.dom } }
  c.wx 10 arg

/-- HSTART (R26). -/
def execHstart (rd rs1 rs2 : Reg) (s : State) : Res :=
  if s.onlyZero then illegal s
  else if s.me.hmax = 0 then trap 24 0 s
  else if (s.x rs1).toNat % 4 ≠ 0 then trap 0 (s.x rs1) s
  else if h : s.me.hnext < 11 then
    let n : Fin 11 := ⟨s.me.hnext, h⟩
    if (s.me.ctx n).alive then wrX rd (BitVec.allOnes 64) s
    else
      let r := s.relStep
      if !r.2 then stallIn r.1
      else
        let s := r.1
        let c := s.me
        let s := s.setMe { c.setCtx n (startHelper s.ctx (c.ctx n) (s.x rs1) (s.x rs2)) with hnext := n.val % c.hmax + 1 }
        wrX rd (w64 n.val) s
  else illegal s

/-- HEXIT (R27): the drain begins; HEXIT_COMPLETE ends it. A quiescence handler is over (R411). -/
def execHexit (rs1 : Reg) (s : State) : Res :=
  let v := s.leaderX rs1
  let s := s.cbDrainCtx s.cur.1 s.cur.2
  let s := s.setCtx { s.ctx with csr := { s.ctx.csr with qActive := false } }
  .next (s.holdOn (.exit v))

/-- A matrix command of a context has not been performed, on its core, on another one or on the way there (R27 step 3). -/
def State.commands (s : State) (ep : Nat) (n : Fin 11) : Bool :=
  (s.cores.any fun c => (c.2.mq.any fun q => q.by_ ep n) || c.2.mrun.any fun d => d.cmd.by_ ep n) ||
    s.net.any fun (m : Msg) => match m with
      | .msend _ q _ => MCmd.by_ q ep n
      | _ => false

/-- The drain of R27 has ended: steps 1 to 4. -/
def State.drained (s : State) (ep : Nat) (n : Fin 11) : Bool :=
  s.quiet ep n && !s.commands ep n && (s.ctxAt ep n).pushed == 0

/-- HWAIT (R28). -/
def execHwait (rd rs1 : Reg) (s : State) : Res :=
  if s.onlyZero then illegal s
  else
    let n := s.x rs1
    if h : n.toNat < 11 then
      if n = 0 then trap 2 n s
      else if s.flushPending s.cur.1 then stall s
      else
        let k : Fin 11 := ⟨n.toNat, h⟩
        if (s.me.ctx k).alive then .next (s.park (.parked (.hwait k)))
        else wrX rd (s.me.ctx k).exitVal s
    else trap 2 n s

/-! ## Landing pads and jump tables -/

/-- LPAD (R47): no effect unless checked; the check of R49 is made when the word is fetched. -/
def execLpad (_label : BitVec 12) (s : State) : Res := retire s

/-- JT (R52). -/
def execJt (rd rs1 tb : Reg) (s : State) : Res :=
  let base := s.x tb
  let i := s.x rs1
  if base.toNat % 8 ≠ 0 then trap 4 base s
  else
    match s.innerRead base 8 with
    | .stop r => r
    | .ok s1 h =>
      let hdr := w64 h
      if fld hdr 44 20 ≠ (0 : BitVec 20) then trap 22 i s1
      else if i.toNat ≥ (fld hdr 0 32 : BitVec 32).toNat then trap 22 i s1
      else
        match s1.innerRead (base + 8 + 4 * i) 4 with
        | .stop r => r
        | .ok s2 e =>
          jump (base + sext32 (BitVec.ofNat 32 e)) s2 fun s =>
            ((s.setX rd (s.pc + 4)).expectPad (fld hdr 32 12))

/-! ## Traps and returns -/

/-- ECALL (R81): cause 8 at app level, 9 at system level. -/
def execEcall (s : State) : Res := trap (if s.ctx.csr.prv then 9 else 8) 0 s

/-- EBREAK (R81): cause 3 with ktval the pc. -/
def execEbreak (s : State) : Res := trap 3 s.pc s

/-- KRET (R82): system-only. -/
def execKret (s : State) : Res :=
  if !s.ctx.csr.prv then illegal s
  else
    let s := s.setCtx s.ctx.leaveTrap
    .next { s with out := .done }

/-- The context is inside an instruction that has performed a part of its effect: no boundary (R139). -/
def Ctx.inside (x : Ctx) : Bool :=
  x.cursor != 0 || (match x.hold with
    | .exact _ => true
    | .gen _ => true
    | .convert .. => true
    | .told .. => true
    | _ => false)

/-- A deferred trap or a report may be taken in a context, and so in every member of its gang (R341): not inside an instruction
(R139), not when frozen (R24, R342). -/
def State.mayTake (s : State) (ep : Nat) (n : Fin 11) : Bool :=
  (s.ctxAt ep n).alive && ((s.core ep).teamCores ep).all fun e =>
    !(s.ctxAt e n).inside && !(s.core e).frozen

/-- A context may issue its next instruction: live, holding nothing, its core neither frozen nor stopped by a thermal trip
(R24, R521); in a gang, every member (R339, R342). -/
def State.ready (s : State) (ep : Nat) (n : Fin 11) : Bool :=
  let one (e : Nat) : Bool :=
    let x := s.ctxAt e n
    x.life == .live && x.hold == .free && !(s.core e).frozen && !((s.core e).team.any fun t => t.stop && x.pad.isNone)
  !s.pkg.ttrip && !(s.core ep).disabled && ((s.core ep).teamCores ep).all one

/-- The waits and holds of a context end, and what it waited for is withdrawn, because a trap comes (R151). A context that
is only live keeps everything. -/
def State.interrupt (s : State) (ep : Nat) (n : Fin 11) : State :=
  let x := s.ctxAt ep n
  if x.life = .live ∧ x.hold = .free then s else s.abandon ep n

/-- A trap comes to a context, or to every member of its gang (R341). -/
def State.interruptAll (s : State) (ep : Nat) (n : Fin 11) : State :=
  ((s.core ep).teamCores ep).foldl (fun (s : State) e => s.interrupt e n) s

/-- The deferred traps of the oldest failing instructions are taken, in a gang of every member that has one (R139, R141, R142,
R341). -/
def State.takeDeferred (s : State) (ep : Nat) (n : Fin 11) : State :=
  let raised := ((s.core ep).teamCores ep).filterMap fun e => ((s.ctxAt e n).deferred.head?).map fun d => (e, d)
  if raised = [] then s
  else
    let t := raised.foldl (fun (t : State) (p : Nat × Deferred) => t.modCtx p.1 n fun x => { x with
      deferred := x.deferred.drop 1
      rep := { x.rep with resume := (s.ctxAt p.1 n).resumeOf p.2, dv := p.2.dv, dkind := p.2.dkind, dreg := p.2.dreg } })
      (s.interruptAll ep n)
    t.takeTraps ep n false false (raised.map fun p => (p.1, p.2.code, p.2.epc, p.2.tval))

/-- DEFERRED_TRAP (R139): at an instruction boundary of a context that does not issue. One that may issue takes the trap at its
next issue, after the immediate trap of the instruction there (R141). -/
def execDeferredTrap (ep : Nat) (ctx : Fin 11) (s : State) : Res :=
  if s.mayTake ep ctx ∧ !s.ready ep ctx then .next (s.takeDeferred ep ctx) else .next s

/-- The order of records that reach one area together: ODEV, OUNIT, ADDR (R148, R149). -/
def recordKey (words : List Word) : Nat :=
  let o := words.getD 2 0
  ((fld o 32 10 : BitVec 10).toNat * 65536 + (fld o 0 16 : BitVec 16).toNat) * 2 ^ 64 + (words.getD 1 0).toNat

/-- The context whose report area a record reaches: that of a retired one is context 0's (R149). -/
def State.area (s : State) (ep n : Nat) : Nat := if h : n < 11 then (if (s.ctxAt ep ⟨n, h⟩).alive then n else 0) else 0

/-- The record on its way to an area that is posted first, with its place and context: the least of them, the earlier of two alike
(R149). -/
def State.firstReport (s : State) (ep area : Nat) : Option (Nat × Nat × List Word) :=
  let mine := s.net.zipIdx.filterMap fun m => match m.1 with
    | .report e c ws => if e = ep ∧ s.area ep c = area then some (m.2, c, ws) else none
    | _ => none
  (sortBy (fun r => recordKey r.2.2) mine).head?

/-- REPORT_POST (R147): the records on their way to a report area arrive there, or are lost when it is full; those of one cycle in the
order of R149. -/
def execReportPost (k : Nat) (s : State) : Res :=
  match s.net[k]? with
  | some (.report ep n _) =>
    (match s.firstReport ep (s.area ep n) with
     | some (j, n, words) =>
       let s := s.take j
       if h : n < 11 then .next (s.deliver ep ⟨n, h⟩ words) else .next s
     | none => .next s)
  | _ => .next s

/-- The global address of the record slot RTAIL mod 16 of a context (R146, R150). -/
def State.slotAddr (s : State) (ep : Nat) (n : Fin 11) (tail : BitVec 32) : Word :=
  winAddr s.dev ep (0x908000 + n.val * 0x800 + 0x40 + 64 * (tail.toNat % 16))

/-- A record is pending in a context's report area (R150). -/
def Ctx.pending (x : Ctx) : Bool := x.rep.head != x.rep.tail

/-- The sample of this cycle may fire the handler of a waiting context, and the handler comes before a report (R414). -/
def State.handlerFirst (s : State) (ep : Nat) (n : Fin 11) : Bool :=
  let x := s.ctxAt ep n
  decide (1024 * (s.det.samples + 1) ≤ s.cycle) && x.life != .live && x.csr.armEntry != 0

/-- A pending record may be delivered (R150), but not between a checked transfer and its check (R50): in a gang the conditions are
the leader's, and a record of any member is the gang's (R341). -/
def State.reportDue (s : State) (ep : Nat) (n : Fin 11) : Bool :=
  let set := (s.core ep).teamCores ep
  let lead := s.ctxAt (set.headD ep) n
  (set.any fun e => (s.ctxAt e n).pending) && (set.all fun e => (s.ctxAt e n).deferred.isEmpty) && !lead.csr.tip && lead.pad.isNone &&
    s.mayTake (set.headD ep) n && !(set.any fun e => s.handlerFirst e n)

/-- The trap that a context's pending record raises: its code, epc and ktval (R150). -/
def State.reportTrap (s : State) (ep : Nat) (n : Fin 11) : Option (Nat × BitVec 6 × Word × Word) :=
  let x := s.ctxAt ep n
  if x.pending then
    some (ep, recordCause (mgetD x.rep.slots (x.rep.tail.toNat % 16) []), x.nextPc, s.slotAddr ep n x.rep.tail)
  else none

/-- A pending record is delivered as an asynchronous trap (R150), in a gang with those of the other members (R341). -/
def State.deliverReport (s : State) (ep : Nat) (n : Fin 11) : State :=
  if s.reportDue ep n then
    (s.interruptAll ep n).takeTraps ep n true false (((s.core ep).teamCores ep).filterMap fun e => s.reportTrap e n)
  else s

/-- REPORT_DELIVERY (R150): to a context that does not issue; one that may issue takes the trap at its next issue (R141). -/
def execReportDelivery (ep : Nat) (ctx : Fin 11) (s : State) : Res :=
  if s.ready ep ctx then .next s else .next (s.deliverReport ep ctx)

/-- RTAIL_WRITE (R147): system-level software consumes records; out of bounds, RTAIL keeps its value. -/
def execRtailWrite (ep : Nat) (ctx : Fin 11) (v : BitVec 32) (s : State) : Res :=
  .next (s.modCtx ep ctx fun x => { x with rep := x.rep.setTail v })

/-! ## The end of HEXIT -/

/-- HEXIT's drain has ended on a core (R27), and no record is to be delivered to the context first (R150, R328). -/
def State.exitDrained (s : State) (ep : Nat) (n : Fin 11) : Bool :=
  let x := s.ctxAt ep n
  (match x.hold with
    | .exit _ => true
    | _ => false) && s.drained ep n && x.deferred.isEmpty && !(s.core ep).frozen && !s.reportDue ep n

/-- HEXIT_COMPLETE (R27): the drain ends, in a gang on every member (R339); a helper retires; context 0 parks until its helpers
are retired, then retires. -/
def execHexitComplete (ep : Nat) (ctx : Fin 11) (s : State) : Res :=
  let x := s.ctxAt ep ctx
  match x.hold with
  | .exit v =>
    if ((s.core ep).teamCores ep).any fun e => !s.exitDrained e ctx then .next s
    else if ctx ≠ 0 then
      let sig := x.sig
      let s := s.retireCtx ep ctx v
      .next (s.modCtx ep 0 fun z => { z with sig := z.sig ||| sig })
    else if ((s.core ep).alive.filter fun n => n ≠ 0) ≠ [] then
      .next (s.modCtx ep 0 fun z => { z with life := .parked .hexit })
    else
      -- the last context of the team: the team is to complete (R434)
      .next (s.endTeam ep 0 v 0 0 0)
  | _ => .next s

end Sys2Proof.Machine
end

