-- ==== Sys2Proof/Machine/LatticeI.lean ====
section
/-! DEFINITION.
Lattice instructions (R100 to R134): joins, exact reads, waits, corks, conversions, releases, acquires and folds,
and the answers that end their waits. -/

namespace Sys2Proof.Machine

open Sys2Proof

/-! ## Scratchpad lists (R108, R112, R271) -/

/-- The scratchpad operand check of R271: the lowest offending offset's global form. -/
def State.padBad (s : State) (o n : Nat) : Option Word :=
  if o + n ≤ s.me.padSize then none else some (s.padAddr (max o s.me.padSize))

/-- Ordinary local reads of `k` doublewords of a list (R108): park or trap on an empty word, cause 24 outside the carve. -/
def State.listWords (s : State) (o : Nat) : Nat → Except Res (List Word)
  | 0 => .ok []
  | k + 1 =>
    match s.padBad o 8 with
    | some a => .error (trap 24 a s)
    | none =>
      match s.winRead s.cur.1 true o 8 255 with
      | .ok v =>
        match s.listWords (o + 8) k with
        | .ok ws => .ok (w64 v :: ws)
        | .error r => .error r
      | .empty w => .error (s.parkWord w)
      | .bad o => .error (trap 24 (s.padAddr o) s)

/-- A list with its count in the low bits of word 0; a header outside 1 to `limit` is cause 2 with ktval the header. -/
def State.readList (s : State) (a : Word) (limit : Nat) : Except Res (List Word) :=
  let o := a.toNat
  if o % 8 ≠ 0 then .error (trap 4 a s)
  else if s.mustWait true [(s.padAddr o, 0, 8)] then .error (stall s)
  else
    match s.listWords o 1 with
    | .error r => .error r
    | .ok ws =>
      let hdr := ws.headD 0
      if hdr.toNat = 0 ∨ hdr.toNat > limit then .error (trap 2 hdr s)
      else if s.mustWait true [(s.padAddr o, 0, 8 * (hdr.toNat + 1))] then .error (stall s)
      else s.listWords (o + 8) hdr.toNat

/-- An instruction that has read a list of n doublewords after its header is performed; words with uncorrectable errors that it read
are reported to its context (R523). -/
def listDone (a : Word) (n : Nat) (s : State) (r : Res) : Res :=
  match r with
  | .next t => .next (if t.out = .done then t.tellPad s.cur.1 s.cur.2 s.cur.1 0 [(a.toNat, 8 * (n + 1))] else t)
  | r => r

/-! ## Joins and exact reads -/

/-- The piece of an element access whose width is not known. -/
def elemChunk (a : Word) : Chunk := (a, 0, 8 - a.toNat % 8)

/-- JOIN (R106). -/
def execJoin (rs1 rs2 : Reg) (s : State) : Res := s.element .join (s.x rs1) ((s.x rs2).zeroExtend 4096) .none

/-- XLD (R109). -/
def execXld (rd rs1 : Reg) (s : State) : Res := s.element .xld (s.x rs1) 0 (.x rd 8 false)

/-- The reason of a portion that is denied at issue (R539, R541, R544). -/
def Where.deniedBy : Where → Option Nat
  | .page .denied => some 6
  | .barred r => some r
  | _ => none

/-- Destinations that are denied at issue for a reason: not held, and listed in one freeze record (R108). -/
def deniedOf (reason : Nat) (ps : List (List Chunk × Where)) : List Word :=
  ps.filterMap fun p => if p.2.deniedBy = some reason then some (p.1.headD (0, 0, 0)).1 else none

/-- The joins of a list of destinations with a value (R108): every destination is an independent join. -/
def State.joinAll (s : State) (dests : List Word) (v : Word) : Res :=
  let ep := s.cur.1
  let cs := dests.map elemChunk
  let s := s.readOlder ep s.cur.2 cs
  if s.lineBusy ep s.cur.2 false cs ∨ s.rangeBusy ep cs ∨ s.acquiring ep s.cur.2 then stall s
  else
    let loc := s.locate ep .join (cs.map fun c => [c])
    let ps := loc.2.filter fun p => p.2.deniedBy = none
    if !s.me.ticketRoom (entriesOf ps) then stall s
    else
      let s1 := ([6, 1] : List Nat).foldl (fun (t : State) reason =>
        match deniedOf reason loc.2 with
        | [] => t
        | a :: rest => t.freeze ep s.cur.2 a reason (a :: rest)) loc.1
      let grp := s1.me.nextAge
      (ps.foldl (fun (s : State) p => s.issuePortion grp .joinm (maskRun 512 0 8) (v.zeroExtend 4096) .none p) s1).endAccess grp

/-- JOINM (R108). -/
def execJoinm (rs1 rs2 : Reg) (s : State) : Res :=
  match s.readList (s.x rs1) 16 with
  | .error r => r
  | .ok dests => listDone (s.x rs1) dests.length s (s.joinAll dests (s.x rs2))

/-! ## Waits -/

/-- A WAIT or ACQ: the context parks from the issue until the answer (R110, R124). -/
def waitOp (form : WaitForm) (rd : Reg) (a : Word) (trig : List Word) (prior : Word) (s : State) : Res :=
  let life : Life := .parked (.wait (form = .acq) rd s.next)
  let s1 := { s.setCtx { s.ctx with life := life } with next := s.next + 1 }
  if s.flushPending s.cur.1 then stall s
  else match s1.access (.wait form trig prior) [elemChunk a] (maskRun 512 0 8) 0 .none with
  | .next t =>
    match t.out with
    | .done => .next (t.setCtx { t.ctx with pc := s.pc })
    | .stalled => .next (t.setCtx { t.ctx with life := .live })
    | .trapped .. => .next t
  | r => r

/-- WAIT.GE, WAIT.HAS, WAIT.FULL and WAIT.CORK (R111). -/
def execWaitGe (rd rs1 rs2 : Reg) (s : State) : Res := waitOp .ge rd (s.x rs1) [s.x rs2] 0 s
def execWaitHas (rd rs1 rs2 : Reg) (s : State) : Res := waitOp .has rd (s.x rs1) [s.x rs2] 0 s
def execWaitFull (rd rs1 : Reg) (s : State) : Res := waitOp .full rd (s.x rs1) [] 0 s
def execWaitCork (rd rs1 : Reg) (s : State) : Res := waitOp .cork rd (s.x rs1) [] 0 s

/-- WAIT.ANY (R112). -/
def execWaitAny (rd rs1 rs2 : Reg) (s : State) : Res :=
  match s.readList (s.x rs2) 8 with
  | .error r => r
  | .ok trig => listDone (s.x rs2) trig.length s (waitOp .any rd (s.x rs1) trig 0 s)

/-- ACQ (R124). -/
def execAcq (rd rs1 rs2 rs3 : Reg) (s : State) : Res := waitOp .acq rd (s.x rs1) [s.x rs2] (s.x rs3) s

/-- The wait of a context ends with a result. -/
def State.endWait (s : State) (ep : Nat) (n : Fin 11) (rd : Reg) (result : Word) : State :=
  let s := s.modCore ep fun c => { c with accs := c.accs.filter fun a =>
    !(a.ctx == n && (match a.op with | .wait .. => true | _ => false)) }
  s.modCtx ep n fun x => { x.wx rd result with life := .live, pc := x.pc + 4 }

/-- WAIT_ANSWER (R110): the press's answer wakes the parked wait that it names; any other answer is discarded. -/
def execWaitAnswer (k : Nat) (s : State) : Res :=
  match s.net[k]? with
  | some (.waitAns ep n id result _) =>
    -- a frozen context keeps its state; the answer waits for it (R24)
    if (s.core ep).frozen then .next s else
    let s := s.take k
    match (s.ctxAt ep n).life with
    | .parked (.wait false rd id') => .next (if id = id' then s.endWait ep n rd result else s)
    | _ => .next s
  | _ => .next s

/-- Invalidate(G) (R125): copies of LAT lines whose both bits are set leave the L1. -/
def Core.invalidate (c : Core) (g : BitVec 1024) : Core :=
  { c with l1 := c.l1.filter fun l => !(l.2.lat && sigHas g (aLine l.2.va)) }

/-- ACQ_ANSWER (R124). -/
def execAcqAnswer (k : Nat) (s : State) : Res :=
  match s.net[k]? with
  | some (.acqAns ep n id result g) =>
    if (s.core ep).frozen then .next s else
    let s := s.take k
    match (s.ctxAt ep n).life with
    | .parked (.wait true rd id') =>
      .next (if id = id' then (s.modCore ep fun c => c.invalidate g).endWait ep n rd result else s)
    | _ => .next s
  | _ => .next s

/-! ## Ranges (R102) -/

/-- The lines of the next page portion of a range: from `a`, `left` lines, on a page of this size. -/
def pageLines (a : Word) (left : Nat) (lg : Bool) : Nat :=
  let size := if lg then 33554432 else 65536
  min left ((size - a.toNat % size) / 128)

/-- A function applied to line numbers and addresses, first line first. -/
def eachLine (f : State → Nat → Word → State) (s : State) (line : Nat) (va : Word) : Nat → State
  | 0 => s
  | k + 1 => eachLine f (f s line va) (line + 1) (va + 128) k

/-- One page of a range has been performed: the next page, or the end of the instruction. -/
def State.nextPage (s : State) (done total : Nat) (finish : State → Res) : Res :=
  if s.ctx.cursor + done ≥ total then finish s
  else .next { s.setCtx { s.ctx with cursor := s.ctx.cursor + done } with out := .done }

/-- The merge entries of a device are sent before a range packet (R548). -/
def State.flushDev (s : State) (dev : BitVec 10) : State :=
  (s.fab.merge.filter fun e => e.2.dst = dev).foldl (fun (s : State) e => s.mergeFlush dev (aLine e.2.addr)) s

/-- Lines of a page portion that an older access of the context has not performed yet, or that come after an acquire: the portion waits
for them at issue (R304, R305, R307). -/
def State.pageHeld (s : State) (a : Word) (lines : Nat) : Bool := s.mustWait false [(a, 0, 128 * lines)]

/-- A page portion of a range instruction: translation, access table, class (R102), then `go` with the entry and the
physical address. `what` as in AccOp.range. A page of another device completes at issue (R547), but the instruction waits for the answer
of one before its next page, because a page that fails ends it (R102; log 133). -/
def rangePage (what : Nat) (target base : Word) (total : Nat) (finish : State → Res)
    (go : State → Tlb → Nat → Word → Nat → Res) (s : State) : Res :=
  let ep := s.cur.1
  let a := base + w64 (128 * s.ctx.cursor)
  let left := total - s.ctx.cursor
  let s := s.readOlder ep s.cur.2 [(a, 0, 128 * pageLines a left false)]
  let acc (st : Stage) (lines : Nat) (w : Nat) : Acc :=
    s.newAcc s.me.nextAge (.range w target base total) [(a, 0, 128 * lines)] (maskRun 512 0 8) 0 .none st
  if s.pageHeld a (pageLines a left false) then stall s
  else if aDev a ≠ s.dev then
    if !s.me.ticketRoom 1 then stall s
    else
      let lines := pageLines a left false
      match (s.flushDev (aDev a)).request ep s.cur.2 ((acc .remote lines what).packet s.dev) with
      | some t =>
        let t := t.addAcc ep (acc .remote lines what)
        if s.ctx.cursor + lines ≥ total then finish t
        else .next ((t.setCtx { t.ctx with cursor := t.ctx.cursor + lines }).holdOn (.replay s.me.nextAge))
      | none => .next ((s.addDenied ep (acc .remote lines (what + 8)) 1).holdOn (.replay s.me.nextAge))
  else if aWin a then trap 17 a s
  else
    let r := s.translate ep .cork a
    match r.2 with
    | .miss k =>
      if r.1.me.ticketRoom 1 then
        .next ((r.1.addMissed ep (acc .remote (pageLines a left false) (what + 8)) k).holdOn (.replay s.me.nextAge))
      else .next { r.1 with out := .stalled }
    | .denied =>
      if r.1.me.ticketRoom 1 then
        .next ((r.1.addDenied ep (acc .remote (pageLines a left false) (what + 8)) 6).holdOn (.replay s.me.nextAge))
      else .next { r.1 with out := .stalled }
    | .ok t pa =>
      let big := a.toNat / 33554432 * 33554432
      if t.lg ∧ (a.toNat ≠ big ∨ left < 262144) then trap 6 (w64 big) s
      else if t.lg ∧ r.1.pageHeld a (pageLines a left true) then stall s
      else go r.1 t pa a (pageLines a left t.lg)

/-- The alignment of a range (R102): base and length are multiples. -/
def rangeOk (base len : Word) (unit : Nat) : Bool := base.toNat % unit == 0 && len.toNat % unit == 0

/-- The context's own buffered entries of a run of lines go to the press (R107). -/
def State.drainLines (s : State) (line lines : Nat) : State :=
  s.cbDrain s.cur.1 fun e => decide (line ≤ e.line ∧ e.line < line + lines) && e.parties.contains s.cur.2

/-- The press operations of a page: corks, or racks on fold pages. -/
def State.pagePress (s : State) (t : Tlb) (pa : Nat) (a : Word) (lines : Nat) (k : PressKind) : State :=
  eachLine (fun (s : State) line va => s.toPress (s.pressOp s.cur.1 s.cur.2 t line va k))
    (s.drainLines (pa / 128) lines) (pa / 128) a lines

/-- A cork or rack range: `fold`: the page has to be a fold page (R131), else it must not be one (R113). -/
def corkRange (what : Nat) (rs1 rs2 : Reg) (fold : Bool) (finish : State → Res) (s : State) : Res :=
  let base := s.x rs1
  let total := (s.x rs2).toNat / 128
  if !rangeOk base (s.x rs2) 128 then trap 6 base s
  else if total = 0 then retire s
  else rangePage what 0 base total finish (fun s t pa a lines =>
    if t.cls ≠ .lat ∨ ((t.typ = 12 ∨ t.typ = 13) ≠ (fold = true)) then trap 17 a s
    else (s.pagePress t pa a lines (if fold then .rack else .cork)).nextPage lines total finish) s

/-- CORK (R113). -/
def execCork (rs1 rs2 : Reg) (s : State) : Res := corkRange 0 rs1 rs2 false retire s

/-- CORKW (R114): after the last page the context parks until every press has acknowledged. -/
def execCorkw (rs1 rs2 : Reg) (s : State) : Res :=
  corkRange 1 rs1 rs2 false (fun s => .next ((s.setCtx { s.ctx with cursor := 0 }).park (.parked .corkw))) s

/-- RACK (R131). -/
def execRack (rs1 rs2 : Reg) (s : State) : Res :=
  corkRange 2 rs1 rs2 true (fun s => .next ((s.setCtx { s.ctx with cursor := 0 }).park (.parked .rack))) s

/-- No cork or rack of the context is on its way. -/
def State.rangeAcked (s : State) (ep : Nat) (n : Fin 11) : Bool :=
  !(s.pressQ.any fun o => o.who == s.party ep n && (o.kind == .cork || o.kind == .rack)) &&
    !((s.core ep).accs.any fun a => a.ctx == n && (match a.op with | .range .. => true | _ => false))

/-- The parked range instruction completes. -/
def State.wakeRange (s : State) (ep : Nat) (n : Fin 11) (why : Park) : State :=
  if (s.ctxAt ep n).life = .parked why ∧ s.rangeAcked ep n ∧ !(s.core ep).frozen ∧ !s.flushPending ep then
    s.modCtx ep n fun x => { x with life := .live, pc := x.pc + 4 }
  else s

/-- CORK_ACK (R114): the last acknowledgement wakes a CORKW. -/
def execCorkAck (ep : Nat) (ctx : Fin 11) (s : State) : Res := .next (s.wakeRange ep ctx .corkw)

/-- RACK_COMPLETE (R131): every line of the range is racked. -/
def execRackComplete (ep : Nat) (ctx : Fin 11) (s : State) : Res := .next (s.wakeRange ep ctx .rack)

/-! ## Conversions (R117 to R119, R375) -/

/-- Dirty bytes of a run of lines that the owner's cores hold go home (R117 step 1). -/
def State.cleanLines (s : State) (owner : BitVec 16) (line lines : Nat) : State :=
  let inRun (l : Nat) : Bool := decide (line ≤ l ∧ l < line + lines)
  let eps := (s.cores.filter fun c => c.2.owner = owner).map (·.1)
  let s := eps.foldl (fun (s : State) e => s.cbDrain e fun b => inRun b.line && !b.lat) s
  s.cores.foldl (fun (t : State) c =>
    (c.2.l1.filter fun l => inRun l.1 && !l.2.lat && l.2.owner == owner).foldl (fun (t : State) l => t.writeBack c.1 l.1) t) s

/-- The MAP doubleword of an entry (R350). -/
def mapWord (ppn : Nat) (cls : Cls) (typ : BitVec 4) (width : BitVec 2) (vint : BitVec 8) (cork : Bool) : Word :=
  BitVec.ofNat 32 ppn ++ (match cls with | .own => 0#2 | .host => 1#2 | .lat => 2#2) ++ typ ++ width ++ vint ++ bit cork ++ 0#15

/-- A page portion asks its conversion of the fault buffer of the cluster (R375): it waits while it cannot get a slot. -/
def State.askConvert (s : State) (what : Nat) (target base : Word) (total : Nat) (a : Word) (lines : Nat) (map ownw : Word) : Res :=
  let ep := s.cur.1
  let cl := clusterOf ep
  let age := s.me.nextAge
  match s.convert cl (s.dev, ep) (aVpn a) lines s.me.owner map ownw (s.party ep s.cur.2, age, target) with
  | none => .next { s with out := .stalled }
  | some c =>
    let k := (allSlots.find? fun k => c.slots[k].who = some (s.party ep s.cur.2, age, target)).getD 0
    let code := ticketCode false cl k (c.slots[k]).gen
    let acc := s.newAcc age (.range what target base total) [(a, 0, 128 * lines)] (maskRun 512 0 8) 0 .none (.ticket s.dev code)
    .next (((s.setCluster cl c).addAcc ep acc).holdOn (.convert age))

/-- BOTTLE (R117). -/
def execBottle (rs1 rs2 : Reg) (s : State) : Res :=
  let base := s.x rs1
  let total := (s.x rs2).toNat / 128
  if !rangeOk base (s.x rs2) 65536 then trap 6 base s
  else if s.ctx.cursor ≥ total then retire s
  else
    let r := s.relStep
    if !r.2 then stallIn r.1
    else if !r.1.me.ticketRoom 1 then stallIn r.1
    else rangePage 3 0 base total retire (fun s t pa a lines =>
      if t.cls ≠ .own ∨ t.owner ≠ s.me.owner ∨ (!t.lg ∧ t.mask ≠ 0) ∨ pa ≥ 2 ^ 40 then trap 17 a s
      else
        let s := s.cleanLines t.owner (pa / 128) lines
        s.askConvert 3 0 base total a lines (mapWord (pa / 65536) .lat 9 3 t.vint true) 0) r.1

/-- A malformed RECYCLE target (R118). -/
def targetBad (t : Word) : Bool :=
  let own := fld t 63 1 = (1 : BitVec 1)
  let typ : BitVec 4 := fld t 4 4
  fld t 32 31 != (0 : BitVec 31) || fld t 8 8 != (0 : BitVec 8) || fld t 2 2 != (0 : BitVec 2) ||
    (if own then typ != 0 || fld t 0 2 != (0 : BitVec 2)
     else fld t 16 16 != (0 : BitVec 16) ||
       (if typ = 0 then fld t 0 2 != (0 : BitVec 2) else !typeOk typ (fld t 0 2)))

/-- The MAP and OWNW words that a RECYCLE of a page installs (R118, R375). -/
def recycleWords (t : Tlb) (pa : Nat) (target : Word) : Word × Word :=
  let own := fld target 63 1 = (1 : BitVec 1)
  let typ : BitVec 4 := if own then 0 else if fld target 4 4 = (0 : BitVec 4) then t.typ else fld target 4 4
  let width : BitVec 2 := if own then 0 else if fld target 4 4 = (0 : BitVec 4) then t.width else fld target 0 2
  (mapWord (pa / 65536) (if own then .own else .lat) typ width (t.vint + 1) false,
    if own then fld target 16 16 ++ 0#48 else 0)

/-- RECYCLE (R118, R119): step 1 corks or racks the page, then the conversion is asked for. -/
def execRecycle (rs1 rs2 rs3 : Reg) (s : State) : Res :=
  let base := s.x rs1
  let target := s.x rs3
  let total := (s.x rs2).toNat / 128
  if targetBad target then trap 2 target s
  else if !rangeOk base (s.x rs2) 65536 then trap 6 base s
  else if s.ctx.cursor ≥ total then retire s
  else
    let r := s.relStep
    if !r.2 then stallIn r.1
    else if !r.1.me.ticketRoom 1 then stallIn r.1
    else rangePage 4 target base total retire (fun s t pa a lines =>
      if t.cls ≠ .lat then trap 17 a s
      else
        let m := recycleWords t pa target
        match s.askConvert 4 target base total a lines m.1 m.2 with
        | .next u => match u.out with
          | .done => .next (u.pagePress t pa a lines (if t.typ = 12 ∨ t.typ = 13 then .rack else .cork))
          | _ => .next u
        | r => r) r.1

/-! ## Releases and folds -/

/-- REL (R121): the wait begins; REL_SEND sends the join with the signature. -/
def execRel (rs1 rs2 : Reg) (s : State) : Res :=
  .next ((s.cbDrainCtx s.cur.1 s.cur.2).holdOn (.rel (s.x rs1) (s.x rs2)))

/-- REL_SEND (R121): everything earlier is performed; the signature is taken and cleared, and the join is sent. -/
def execRelSend (ep : Nat) (ctx : Fin 11) (s : State) : Res :=
  match (s.ctxAt ep ctx).hold with
  | .rel a v =>
    if !s.quiet ep ctx ∨ (s.ctxAt ep ctx).deferred ≠ [] ∨ (s.core ep).frozen then .next s
    else
      let s1 := { s.modCtx ep ctx fun x => { x with hold := .free } with cur := (ep, ctx), out := .done }
      match s1.access (.rel v) [elemChunk a] (maskRun 512 0 8) ((s1.ctx.sig).zeroExtend 4096) .none with
      | .next t =>
        match t.out with
        | .done => .next (t.modCtx ep ctx fun x => { x with sig := 0 })
        | .stalled => .next s
        | .trapped .. => .next t
      | r => r
  | _ => .next s

/-- FOLD.S and FOLD.H (R127): the domain is the one that kdom at the level names. -/
def foldOp (half : Bool) (rs1 rs2 rs3 : Reg) (lvl : BitVec 2) (s : State) : Res :=
  let d := s.ctx.csr.dom[lvl.toNat]'(by have := lvl.isLt; omega)
  let a := s.x rs1
  if !d.v then trap 17 a s
  else s.access (.fold half (low32 (s.x rs2)) (s.f rs3) d.lvl d.dom d.phase) [(a, 0, 4 - a.toNat % 4)] (maskRun 512 0 4) 0 .none

def execFoldS (rs1 rs2 rs3 : Reg) (lvl : BitVec 2) (s : State) : Res := foldOp false rs1 rs2 rs3 lvl s
def execFoldH (rs1 rs2 rs3 : Reg) (lvl : BitVec 2) (s : State) : Res := foldOp true rs1 rs2 rs3 lvl s

end Sys2Proof.Machine
end

