-- ==== Sys2Proof/Machine/Presses.lean ====
section
/-! DEFINITION.
The steps of a press (R115, R128, R463 to R466), the departures from the combining buffer and the routers (R175, R385), and
the return of a load's value (R76). -/

namespace Sys2Proof.Machine

open Sys2Proof

/-- The operation at a place of a press's input is applied when it is the oldest of its line (R463). -/
def State.pressStep (s : State) (k : Nat) (f : State → PressOp → Option State) : Res :=
  match s.pressReady k with
  | some op =>
    match f (s.takePress k) op with
    | some t => .next t
    | none => .next s
  | none => .next s

/-- PRESS_JOIN (R115, R463). -/
def execPressJoin (k : Nat) (s : State) : Res :=
  s.pressStep k fun s op => match op.kind with
    | .join w v d ps h => some (s.pressJoin op w v d ps h)
    | _ => none

/-- PRESS_REL (R121, R122). -/
def execPressRel (k : Nat) (s : State) : Res :=
  s.pressStep k fun s op => match op.kind with
    | .rel off w v g => some (s.pressRel op off w v g)
    | _ => none

/-- PRESS_CORK (R115); a rack of a range takes effect in the same way, at its place in the press order (R131). -/
def execPressCork (k : Nat) (s : State) : Res :=
  s.pressStep k fun s op => match op.kind with
    | .cork => some ((s.pressCork op.line).ackLast op)
    | .rack => some ((s.rackLine op.line fun _ => true).ackLast op)
    | _ => none

/-- PRESS_FOLD_APPEND (R127, R128). -/
def execPressFoldAppend (k : Nat) (s : State) : Res :=
  s.pressStep k fun s op => match op.kind with
    | .fold off r => some (s.pressFold op off r)
    | _ => none

/-- What becomes of an exact read, a wait or an acquire of an old vintage (R105). -/
inductive Vintage where
  /-- it proceeds as it is -/
  | current
  /-- it has gone to another place under its new translation, or has ended -/
  | moved (s : State)
  /-- it has to wait for an entry of the requester's ticket table -/
  | held

/-- The address of the element that an operation names. -/
def PressOp.elemVa (op : PressOp) : Word :=
  match op.kind with
  | .wait off .. => op.va + w64 off
  | _ => op.va

/-- An operation under the entry of its page as it is now: line, type, vintage, and the width and cork that go with it. -/
def PressOp.under (op : PressOp) (t : Tlb) : PressOp :=
  { op with
    line := t.pa op.va / 128, typ := t.typ, vint := t.vint
    kind := match op.kind with
      | .read _ age _ => .read t.width age t.cork
      | .wait off _ form trig prior id => .wait off t.width form trig prior id
      | k => k }

/-- The page accepts the operation (R74, R111). -/
def PressOp.accepted (op : PressOp) (t : Tlb) : Bool :=
  t.cls == .lat && (match op.kind with
    | .wait _ _ form .. => waitAccepts form t.typ t.width
    | _ => true)

/-- The outstanding access that an operation of a core of this device stands for: the portion of an exact read, or a wait, which is
recorded again (R105). -/
def State.opAcc (s : State) (op : PressOp) (n : Fin 11) : State × Option Acc :=
  match op.kind with
  | .read _ age _ => (s, s.findAcc op.who.ep age)
  | .wait _ _ form trig prior id =>
    let age := (s.core op.who.ep).nextAge
    let a : Acc := {
      age := age, grp := age, ctx := n, op := .wait form trig prior, pc := (s.ctxAt op.who.ep n).pc
      va := op.elemVa, len := 8 - op.elemVa.toNat % 8, dst := .none, doff := 0, chunks := [elemChunk op.elemVa]
      mask := maskRun 512 0 8, data := 0, wid := id, ent := age, at_ := s.cycle, stage := .press }
    (s.addAcc op.who.ep a, some a)
  | _ => (s, none)

/-- A read, wait or acquire whose vintage is not the line's is translated again where its page is translated, and goes on (R105): under
the entry that is found, or, where none is, as an access that misses. -/
def State.revintage (s : State) (op : PressOp) : Vintage :=
  if op.vint = (s.line op.line).vint then .current
  else if h : op.who.dev = s.dev ∧ op.who.ep ≠ 1036 ∧ op.who.ctx < 11 then
    let ep := op.who.ep
    match s.look ep op.elemVa with
    | (s, .hit t) =>
      if op.under t = op then .current
      else
        let r := s.opAcc op ⟨op.who.ctx, h.2.2⟩
        .moved (match r.2 with
          | some a => r.1.replayed ep a (r.1.perform ep a t)
          | none => r.1)
    | (s, .miss _) =>
      if !(s.core ep).ticketRoom 1 then .held
      else
        let r := s.opAcc op ⟨op.who.ctx, h.2.2⟩
        .moved (match r.2 with
          | some a => r.1.replayPortion ep a
          | none => r.1)
  else
    match s.lookupL2 none op.elemVa with
    | .hit t =>
      if op.accepted t then (if op.under t = op then .current else .moved (s.toPress (op.under t)))
      else if op.who.ep = 1036 then .current
      else .moved (s.send { blankPacket with
        what := 0x15, dst := op.who.dev, fdom := op.fdom, ep := op.who.ep, ctx := op.who.ctx, tag := op.tag, kind := 1
        addr := op.elemVa, code := 17, value := op.elemVa })
    | .miss k =>
      if op.who.ep = 1036 then .current
      else
        let cl := aVpn op.elemVa % 72
        let r := (s.cluster cl).request cl s.dev (op.who.dev, op.who.ep) (aVpn op.elemVa) k 0 0 0
        .moved ((s.setCluster cl r.1).send { blankPacket with
          what := 0x13, dst := op.who.dev, fdom := op.fdom, ep := op.who.ep, ctx := op.who.ctx, tag := op.tag, kind := 1
          addr := op.elemVa, code := r.2.toNat })

/-- An exact read, a wait or an acquire takes effect at its press when its vintage is the line's (R105). -/
def State.vintaged (s : State) (op : PressOp) (go : State → State) : Option State :=
  match s.revintage op with
  | .current => some (go s)
  | .moved t => some t
  | .held => none

/-- PRESS_WAIT_REGISTER (R465). -/
def execPressWaitRegister (k : Nat) (s : State) : Res :=
  s.pressStep k fun s op => match op.kind with
    | .wait off w form trig prior id => s.vintaged op fun s => s.register op off w form trig prior id
    | _ => none

/-- PRESS_WAIT_RETRY (R465): 1,024 cycles after a retry answer the wait is made again. -/
def execPressWaitRetry (k : Nat) (s : State) : Res :=
  match s.net[k]? with
  | some (.retry at_ op) => if at_ ≤ s.cycle then .next ((s.take k).toPress op) else .next s
  | _ => .next s

/-- The line that a press answers with: a poisoned line gives a free value and cause 36 (R523). -/
def State.pressLine (s : State) (op : PressOp) : State × BitVec 1024 :=
  if s.poisoned.contains op.line then
    let r := mkRecord 36 op.who.ctx 0 op.va s.dev 4 (homeSlice op.line) (Config.freeSyndrome s.free) 0 true
    let s := (s.fresh).reportTo op.who op.fdom r
    (s.fresh, Config.freeElem s.free)
  else (s, lineOf s.mem op.line)

/-- The answer of an exact read at a core of this device: its L1 keeps a copy with the mask (R126, R464), but none of a poisoned line,
whose later reads are reported too (R523); and the portion is back, or fails with cause 16 (R74, R99). -/
def State.exactBack (s : State) (ep : Nat) (line : Nat) (va : Word) (age : Nat) (d : BitVec 1024) (mask : BitVec 128) : State :=
  let s := if s.poisoned.contains line then s else s.modCore ep fun c =>
    match mget c.l1 line with
    | some l => if l.lat then { c with l1 := mput c.l1 line ⟨true, va, 0, mask, d⟩ } else c
    | none => { c with l1 := mput c.l1 line ⟨true, va, 0, mask, d⟩ }
  match s.findAcc ep age with
  | some a =>
    if (lineForm a.chunks a.mask 0).1 &&& ~~~mask = 0 then
      (s.setStage ep age (.back (fromLine a.chunks d))).settle ep a.grp
    else
      (s.failAcc ep age 16 a.va ((s.ctxAt ep a.ctx).hold = .exact a.grp ∨ (s.ctxAt ep a.ctx).hold = .gen a.grp)).settle ep a.grp
  | none => s

/-- A host access completes: a read with its data or poisoned, a write with nothing; an access event names a reason (R513,
R514). -/
def State.hostDone (s : State) (a : HostAcc) (data : Option Nat) (reason : Option Word) : State :=
  let s := match reason with
    | some r => s.tell 4 [r, w64 a.w]
    | none => s
  let s : State := { s with hostAccs := s.hostAccs.filter fun b => b.id ≠ a.id }
  if a.write then s else { s with hostAns := s.hostAns ++ [⟨a.w, data.isNone, a.len, data.getD 0, false⟩] }

/-- The answer of an exact read to the host port: data when every byte is readable, otherwise poisoned with reason 2 (R514); a
poisoned line gives poison (R523). -/
def State.hostBack (s : State) (op : PressOp) (id : Nat) (w : BitVec 2) (all : Bool) : State :=
  match s.hostAccs.find? fun a => a.id = id with
  | none => s
  | some a =>
    let d := lineOf s.mem op.line
    let mask : BitVec 128 := if all then BitVec.allOnes 128 else readMask (s.line op.line) op.typ w d
    let off := (s.pkg.hvBase.toNat + a.w) % 128
    if s.poisoned.contains op.line then s.hostDone a none none
    else if maskRun 128 off a.len &&& ~~~mask = 0 then
      s.hostDone a (some (lineVal ((s.line op.line).shown op.typ w d) off a.len)) none
    else s.hostDone a none (some 2)

/-- PRESS_EXACT_READ (R464): the line with its readability mask, to a core of this device, to the host port (R514) or in an RDR
packet (R546). -/
def execPressExactRead (k : Nat) (s : State) : Res :=
  s.pressStep k fun s op => match op.kind with
    | .read w age all => s.vintaged op fun s =>
      if op.who.dev = s.dev ∧ op.who.ep = 1036 then s.hostBack op age w all else
      let r := s.pressLine op
      let mask : BitVec 128 := if all then BitVec.allOnes 128 else readMask (r.1.line op.line) op.typ w r.2
      let d := (r.1.line op.line).shown op.typ w r.2
      if op.who.dev = s.dev then r.1.exactBack op.who.ep op.line op.va age d mask
      else r.1.send { blankPacket with
        what := 0x11, dst := op.who.dev, fdom := op.fdom, ep := op.who.ep, ctx := op.who.ctx, tag := age
        addr := op.va, len := 128, typ := op.typ, width := w, data := d.zeroExtend 4096, mask := mask.zeroExtend 512 }
    | _ => none

/-- COMBINING_BUFFER_LEAVE (R175): the hold time of an entry has ended, 4 cycles for a cold line and 64 for a hot one. -/
def execCombiningBufferLeave (ep : Nat) (k : Nat) (s : State) : Res :=
  match (s.core ep).cb[k]? with
  | some e =>
    let hold := if (s.core ep).heat e.line ≥ 2 then 64 else 4
    if e.since + hold ≤ s.cycle then
      .next ((s.modCore ep fun c => { c with cb := dropAt c.cb k }).cbGo ep e)
    else .next s
  | none => .next s

/-- ROUTER_COMBINE_LEAVE (R385): the 16 cycles of an entry at an input port have ended. -/
def execRouterCombineLeave (k : Nat) (s : State) : Res :=
  match s.routers[k]? with
  | some e => if e.since + 16 ≤ s.cycle then .next (s.leavePort e) else .next s
  | none => .next s

/-- LOAD_VALUE_RETURN (R76, R226): the value of one portion returns; the last one writes the register. -/
def execLoadValueReturn (ep : Nat) (k : Nat) (s : State) : Res :=
  match (s.core ep).accs[k]? with
  | some a =>
    -- reads of one line return in program order (R304)
    if a.returns ∧ !((s.core ep).accs.any fun b => b.ctx == a.ctx && decide (b.age < a.age) && b.unread && meets b.chunks a.chunks) then
      .next ((s.returnAcc ep a).finishLoad ep a.grp)
    else .next s
  | none => .next s

end Sys2Proof.Machine
end

