-- ==== Sys2Proof/Machine/Elements.lean ====
section
/-! DEFINITION.
Elements of vector registers (R179, R204), element operations (R211 to R213), and the way of a vector instruction to its
registers: the governing mask (R206), bound stream registers (R235), the broadcast value (R207). -/

namespace Sys2Proof.Machine

open Sys2Proof

/-! ## Elements (R204) -/

/-- w of an element type. -/
def elemBits : ElemT → Nat
  | .f32 => 32 | .bf16 => 16 | .f16 => 16 | .i32 => 32 | .i16 => 16 | .i8 => 8

/-- n of an element type. -/
def elemCount (t : ElemT) : Nat := 4096 / elemBits t

/-- The float format of an element type. -/
def elemFlt : ElemT → Option FltFmt
  | .f32 => some fp32 | .bf16 => some bf16 | .f16 => some fp16 | _ => none

/-- The number format of an element type. -/
def elemFmt (t : ElemT) : NumFmt :=
  match elemFlt t with
  | some f => .flt f
  | none => .int (elemBits t)

def isFltT (t : ElemT) : Bool := (elemFlt t).isSome

/-- The first n elements of w bits of a little-endian bit string (R179). -/
def elemsOf (w : Nat) (v : Nat) : Nat → List Nat
  | 0 => []
  | n + 1 => v % 2 ^ w :: elemsOf w (v / 2 ^ w) n

/-- A bit string of elements of w bits. -/
def packElems (w : Nat) : List Nat → Nat
  | [] => 0
  | x :: xs => x % 2 ^ w + 2 ^ w * packElems w xs

/-- A vector register of elements. -/
def vOf (w : Nat) (l : List Nat) : BitVec 4096 := BitVec.ofNat 4096 (packElems w l)

/-- The bytes that hold a bit of an active element of w bits; `A`: active elements as bits. -/
def actBytes (w A : Nat) : BitVec 512 :=
  BitVec.ofNat 512 ((List.range 512).foldl (fun (m : Nat) b =>
    let lo := 8 * b / w
    let hi := (8 * b + 7) / w
    if A / 2 ^ lo % 2 ^ (hi - lo + 1) ≠ 0 then m + 2 ^ b else m) 0)

/-- Every element operation over lists; `A` holds the active elements as bits; an inactive one keeps `d` (R206, R210). -/
def mapElems (f : Nat → Nat → Nat → Nat × Flags) : Nat → List Nat → List Nat → List Nat → List Nat × Flags
  | A, a :: as, c :: cs, d :: ds =>
    let r := mapElems f (A / 2) as cs ds
    if A % 2 = 1 then
      let y := f a c d
      (y.1 :: r.1, y.2 ||| r.2)
    else (d :: r.1, r.2)
  | _, _, _, _ => ([], 0)

/-! ## Correctly rounded functions (R213) -/

/-- ⌊ln 2 · 2^256⌋. -/
def ln2Fix : Nat := 0xb17217f7d1cf79abc9e3b39803f2f6af40f343267298b62d8a0d175b8baafa2b

/-- The exponential series in fixed point with 256 fraction bits. -/
def expSeries (x term k : Nat) : Nat → Nat
  | 0 => 0
  | fuel + 1 => term + expSeries x (term * x / (k * 2 ^ 256)) (k + 1) fuel

/-- The series of artanh z in fixed point with 256 fraction bits; `z2` is z². -/
def artanhSeries (z2 term k : Nat) : Nat → Nat
  | 0 => 0
  | fuel + 1 => term / k + artanhSeries z2 (term * z2 / 2 ^ 256) (k + 2) fuel

/-- 2^a of a finite a: exact for an integral a; otherwise 250 bits and a sticky bit, enough for one rounding (log 18). -/
def exp2Val (neg : Bool) (m : Nat) (e : Int) : Val :=
  if m = 0 then .fin false 1 0
  else if topExp m e ≥ 12 then .fin false 1 (if neg then -4096 else 4096)
  else
    let a : Int := shiftInt m (256 + e)
    let x : Int := if neg then -a else a
    let i := x / 2 ^ 256
    let f := (x % 2 ^ 256).toNat
    if f = 0 then .fin false 1 i
    else .fin false (2 * expSeries (f * ln2Fix / 2 ^ 256) (2 ^ 256) 1 70 + 1) (i - 257)

/-- log₂ of a positive finite value: exact for a power of two; otherwise 250 bits and a sticky bit (log 18). -/
def log2Val (m : Nat) (e : Int) : Val :=
  let k := Nat.log2 m
  if m = 2 ^ k then Val.ofInt (e + k) 0 false
  else
    let z := (m - 2 ^ k) * 2 ^ 256 / (m + 2 ^ k)
    let l := 2 * artanhSeries (z * z / 2 ^ 256) z 1 90
    let t : Int := (e + k) * 2 ^ 256 + (l * 2 ^ 256 / ln2Fix : Nat)
    Val.ofInt (2 * t + 1) (-257) false

/-- 1/√(m·2^e), m > 0, with a sticky last bit. -/
def rsqVal (m : Nat) (e : Int) : Val :=
  let m1 := if e % 2 = 0 then m else 2 * m
  let e1 := if e % 2 = 0 then e else e - 1
  let r := isqrt (2 ^ 200 / m1)
  .fin false (2 * r + (if r * r * m1 = 2 ^ 200 then 0 else 1)) (-101 - e1 / 2)

/-- VEXP2. -/
def vExp2 : Val → Val × Flags
  | .nan s _ => (.qnan, if s then fNV else 0)
  | .inf n => (if n then .fin false 0 0 else .inf false, 0)
  | .fin n m e => (exp2Val n m e, 0)

/-- VRCP. -/
def vRcp (a : Val) : Val × Flags := vDiv (.fin false 1 0) a

/-- VRSQ. -/
def vRsq : Val → Val × Flags
  | .nan s _ => (.qnan, if s then fNV else 0)
  | .inf n => if n then (.qnan, fNV) else (.fin false 0 0, 0)
  | .fin n m e => if m = 0 then (.inf n, fDZ) else if n then (.qnan, fNV) else (rsqVal m e, 0)

/-- VLOG2. -/
def vLog2 : Val → Val × Flags
  | .nan s _ => (.qnan, if s then fNV else 0)
  | .inf n => if n then (.qnan, fNV) else (.inf false, 0)
  | .fin n m e => if m = 0 then (.inf true, fDZ) else if n then (.qnan, fNV) else (log2Val m e, 0)

/-! ## Element operations -/

/-- FP numbers in numeric order with −0 below +0. -/
def ordFlt (f : FltFmt) (b : Nat) : Nat := if b ≥ 2 ^ (f.w - 1) then 2 ^ f.w - 1 - b else b + 2 ^ (f.w - 1)

/-- FMAX and FMIN of any element format (R89, R211). -/
def maxFlt (f : FltFmt) (max : Bool) (a c : Nat) : Nat × Flags :=
  let x := decodeFlt f a
  let y := decodeFlt f c
  let fl := x.sigNan ||| y.sigNan
  if x.isNan ∧ y.isNan then (nanCode f, fl)
  else if x.isNan then (c, fl)
  else if y.isNan then (a, fl)
  else if (ordFlt f a < ordFlt f c) = max then (c, fl) else (a, fl)

/-- The maximum and the minimum of any element type. -/
def maxElem (t : ElemT) (max : Bool) (a c : Nat) : Nat × Flags :=
  match elemFlt t with
  | some f => maxFlt f max a c
  | none => (if (signedOf (elemBits t) a < signedOf (elemBits t) c) = max then c else a, 0)

/-- An operation with one form for FP types and one for integers modulo 2^w (R211, R212). -/
def arithElem (t : ElemT) (fl : Val → Val → Val → Val × Flags) (int : Int → Int → Int → Int) (a c d : Nat) : Nat × Flags :=
  match elemFlt t with
  | some f => encodeArith f .rne (fl (decodeFlt f a) (decodeFlt f c) (decodeFlt f d))
  | none =>
    let w := elemBits t
    ((int (signedOf w a) (signedOf w c) (signedOf w d) % (2 ^ w : Nat)).toNat, 0)

/-- a < c or a = c of two elements (R214). -/
def cmpElem (t : ElemT) (lt : Bool) (a c : Nat) : Bool × Flags :=
  match elemFlt t with
  | some f =>
    let x := decodeFlt f a
    let y := decodeFlt f c
    if x.isNan ∨ y.isNan then (false, if lt then fNV else x.sigNan ||| y.sigNan)
    else
      let zero := x.isZero && y.isZero
      (if lt then !zero && decide (ordFlt f a < ordFlt f c) else zero || a == c, 0)
  | none =>
    let w := elemBits t
    (if lt then decide (signedOf w a < signedOf w c) else a == c, 0)

/-! ## The way to the registers -/

/-- The active elements of a type, as bits (R206). -/
def Ctx.active (x : Ctx) (n : Nat) : Nat :=
  if x.csr.men then (x.rm x.csr.midx).toNat % 2 ^ n else 2 ^ n - 1

/-- The active bytes of a memory-group instruction (R206). -/
def Ctx.byteMask (x : Ctx) : BitVec 512 := if x.csr.men then x.rm x.csr.midx else BitVec.allOnes 512

/-- The broadcast value of R207, with the flags of its conversion. -/
def State.bcast (s : State) (t : ElemT) (r : Reg) : Nat × Flags :=
  match t with
  | .f32 => ((s.f r).toNat, 0)
  | .bf16 => encodeNum (.flt bf16) .rne (decodeFlt fp32 (s.f r).toNat)
  | .f16 => encodeNum (.flt fp16) .rne (decodeFlt fp32 (s.f r).toNat)
  | _ => ((s.x r).toNat % 2 ^ elemBits t, 0)

/-- A vector register as a source: its contents, a block of a read generator or a channel's head (R235). -/
def State.vsrc (s : State) (r : Reg) : Except Res (BitVec 4096) :=
  match s.ctx.bound r with
  | none => .ok (s.ctx.rv r)
  | some b =>
    if b.kind = 3 then
      match (s.me.chans[b.base % 8]'(Nat.mod_lt _ (by decide))).head? with
      | some e => .ok e
      | none => .error (stall s)
    else if b.k = b.count then .error (trap 24 0 s)
    else
      match s.me.blockIn b with
      | none => .error (trap 24 (s.win s.cur.1 + wInt b.block) s)
      | some off =>
        let all := 2 ^ 512 - 1
        -- a read of synchronised words is an acquire, at its place in program order (R304, R307, R322)
        if s.mustWait true [(s.padAddr off, 0, 512)] then .error (stall s)
        else
          match (if b.fe then (maskWords off 512 all).find? fun w => !s.me.isSync w else none) with
          | some w => .error (trap 24 (s.padAddr w) s)
          | none =>
            match s.me.emptyWord off 512 all with
            | some w => .error (s.parkWord w)
            | none => .ok (BitVec.ofNat 4096 (readNat s.me.pad off 512))

def State.vsrcs (s : State) : List Reg → Except Res (List (BitVec 4096))
  | [] => .ok []
  | r :: rest =>
    match s.vsrc r with
    | .error e => .error e
    | .ok v =>
      match s.vsrcs rest with
      | .error e => .error e
      | .ok vs => .ok (v :: vs)

/-- A bound register is named more than once, read as a write generator, or written as another kind (R235). -/
def State.misuse (s : State) (srcs dsts fields : List Reg) : Bool :=
  let kind (r : Reg) : Option (BitVec 2) := (s.ctx.bound r).map (·.kind)
  (fields.any fun r => (kind r).isSome && decide (fields.count r > 1)) ||
    (srcs.any fun r => kind r == some 2) ||
    (dsts.any fun r => (kind r).isSome && kind r != some 2)

/-- What the destination holds before: the register, or the block that a write generator is to write. -/
def State.vold (s : State) (r : Reg) : BitVec 4096 :=
  match s.ctx.bound r with
  | none => s.ctx.rv r
  | some b => match s.me.blockIn b with
    | some off => BitVec.ofNat 4096 (readNat s.me.pad off 512)
    | none => 0

/-- The write of a result does not take place: a write generator's block waits for older accesses and for a command that holds it (R296,
R304), or is refused (R235). -/
def State.vrefuse (s : State) (r : Reg) (bytes : BitVec 512) : Option Res :=
  match s.ctx.bound r with
  | none => none
  | some b =>
    if b.k ≠ b.count ∧ (s.me.blockIn b).any fun off => s.mustWait false [(s.padAddr off, 0, 512)] then some (stall s)
    else (s.me.genBad (s.win s.cur.1) b bytes).map fun t => trap t.1 t.2 s

/-- A result enters its register or its block; `v` holds the old bits where nothing is written. -/
def State.vput (s : State) (r : Reg) (v : BitVec 4096) (bytes : BitVec 512) : State :=
  match s.ctx.bound r with
  | none => s.setV r v
  | some b => s.genPut s.cur.1 s.cur.2 r b v bytes

/-- The bound registers that an instruction has read take their next entry or block. -/
def State.consumeAll (s : State) (srcs : List Reg) : State :=
  srcs.foldl (fun (s : State) r => s.consume s.cur.1 s.cur.2 r) s

/-- What a vector instruction gives: the destination's new value, the bytes written, and what else it does. -/
structure VOut where
  val : BitVec 4096
  bytes : BitVec 512
  post : State → State

/-- A vector arithmetic instruction: its v sources, its v destination, and its function of their values and of the
destination's old value. It completes in full or has no effect (R209). -/
def vrun (srcs dsts : List Reg) (s : State) (go : List (BitVec 4096) → BitVec 4096 → VOut) : Res :=
  if s.misuse srcs dsts (srcs ++ dsts) then illegal s
  else
    match s.vsrcs srcs with
    | .error r => r
    | .ok vs =>
      match dsts with
      | [] => retire ((go vs 0).post (s.consumeAll srcs))
      | rd :: _ =>
        let o := go vs (s.vold rd)
        match s.vrefuse rd o.bytes with
        | some r => r
        | none => retire ((o.post (s.consumeAll srcs)).vput rd o.val o.bytes)

/-- The source lists of an instruction whose rs2 may be the broadcast value. -/
def vSrcs (bc : BitVec 1) (rs1 rs2 : Reg) : List Reg := if bc = 1 then [rs1] else [rs1, rs2]

/-- The elements of the second source. -/
def State.second (s : State) (bc : BitVec 1) (t : ElemT) (rs2 : Reg) (vs : List (BitVec 4096)) : List Nat × Flags :=
  if bc = 1 then
    let b := s.bcast t rs2
    (List.replicate (elemCount t) b.1, b.2)
  else (elemsOf (elemBits t) (vs.getD 1 0).toNat (elemCount t), 0)

/-- An elementwise instruction (R210). -/
def velem (bc : BitVec 1) (t : ElemT) (rd rs1 rs2 : Reg) (f : Nat → Nat → Nat → Nat × Flags) (s : State) : Res :=
  vrun (vSrcs bc rs1 rs2) [rd] s fun vs old =>
    let w := elemBits t
    let n := elemCount t
    let c := s.second bc t rs2 vs
    let A := s.ctx.active n
    let r := mapElems f A (elemsOf w (vs.headD 0).toNat n) c.1 (elemsOf w old.toNat n)
    ⟨vOf w r.1, actBytes w A, fun s => s.vflags (r.2 ||| c.2)⟩

/-- An elementwise instruction of one source. -/
def vunary (t : ElemT) (rd rs1 : Reg) (f : Nat → Nat × Flags) (s : State) : Res :=
  vrun [rs1] [rd] s fun vs old =>
    let w := elemBits t
    let n := elemCount t
    let as := elemsOf w (vs.headD 0).toNat n
    let A := s.ctx.active n
    let r := mapElems (fun a _ _ => f a) A as as (elemsOf w old.toNat n)
    ⟨vOf w r.1, actBytes w A, fun s => s.vflags r.2⟩

end Sys2Proof.Machine
end

