-- ==== Sys2Proof/Machine/Vector.lean ====
section
/-! DEFINITION.
Vector arithmetic instructions (R207 to R223). -/

namespace Sys2Proof.Machine

open Sys2Proof

/-! ## Elementwise arithmetic (R210 to R212) -/

/-- VADD. -/
def execVadd (bc : BitVec 1) (t : ElemT) (rd rs1 rs2 : Reg) (s : State) : Res :=
  velem bc t rd rs1 rs2 (arithElem t (fun a c _ => vAdd false a c) (fun a c _ => a + c)) s

/-- VSUB. -/
def execVsub (bc : BitVec 1) (t : ElemT) (rd rs1 rs2 : Reg) (s : State) : Res :=
  velem bc t rd rs1 rs2 (arithElem t (fun a c _ => vAdd false a c.negate) (fun a c _ => a - c)) s

/-- VMUL. -/
def execVmul (bc : BitVec 1) (t : ElemT) (rd rs1 rs2 : Reg) (s : State) : Res :=
  velem bc t rd rs1 rs2 (arithElem t (fun a c _ => vMul a c) (fun a c _ => a * c)) s

/-- VFMA: rd is also a source, so a bound rd is misused whichever its kind (R235). -/
def execVfma (bc : BitVec 1) (t : ElemT) (rd rs1 rs2 : Reg) (s : State) : Res :=
  if (s.ctx.bound rd).isSome then illegal s
  else velem bc t rd rs1 rs2 (arithElem t (fun a c d => vFma false a c d) (fun a c d => a * c + d)) s

/-- VMAX. -/
def execVmax (bc : BitVec 1) (t : ElemT) (rd rs1 rs2 : Reg) (s : State) : Res :=
  velem bc t rd rs1 rs2 (fun a c _ => maxElem t true a c) s

/-- VMIN. -/
def execVmin (bc : BitVec 1) (t : ElemT) (rd rs1 rs2 : Reg) (s : State) : Res :=
  velem bc t rd rs1 rs2 (fun a c _ => maxElem t false a c) s

/-- VABS: the sign bit of an FP element cleared; |a| modulo 2^w of an integer. -/
def execVabs (t : ElemT) (rd rs1 : Reg) (s : State) : Res :=
  let w := elemBits t
  vunary t rd rs1 (fun a =>
    (if isFltT t then a % 2 ^ (w - 1) else (signedOf w a).natAbs % 2 ^ w, 0)) s

/-- VNEG: the sign bit of an FP element inverted; −a modulo 2^w of an integer. -/
def execVneg (t : ElemT) (rd rs1 : Reg) (s : State) : Res :=
  let w := elemBits t
  vunary t rd rs1 (fun a => (if isFltT t then (a + 2 ^ (w - 1)) % 2 ^ w else (2 ^ w - a) % 2 ^ w, 0)) s

/-! ## Functions (R213) -/

/-- A function of FP types; integer types are illegal (R208). -/
def vfun (f : Val → Val × Flags) (t : ElemT) (rd rs1 : Reg) (s : State) : Res :=
  match elemFlt t with
  | none => illegal s
  | some g => vunary t rd rs1 (fun a => encodeArith g .rne (f (decodeFlt g a))) s

/-- VEXP2. -/
def execVexp2 (t : ElemT) (rd rs1 : Reg) (s : State) : Res := vfun vExp2 t rd rs1 s

/-- VRCP. -/
def execVrcp (t : ElemT) (rd rs1 : Reg) (s : State) : Res := vfun vRcp t rd rs1 s

/-- VRSQ. -/
def execVrsq (t : ElemT) (rd rs1 : Reg) (s : State) : Res := vfun vRsq t rd rs1 s

/-- VLOG2. -/
def execVlog2 (t : ElemT) (rd rs1 : Reg) (s : State) : Res := vfun vLog2 t rd rs1 s

/-! ## Logic and shifts (R212) -/

/-- An operation of integer types; FP types are illegal (R208). -/
def vint (bc : BitVec 1) (t : ElemT) (rd rs1 rs2 : Reg) (f : Nat → Nat → Nat → Nat) (s : State) : Res :=
  if isFltT t then illegal s
  else velem bc t rd rs1 rs2 (fun a c _ => (f (elemBits t) a c, 0)) s

/-- VAND. -/
def execVand (bc : BitVec 1) (t : ElemT) (rd rs1 rs2 : Reg) (s : State) : Res := vint bc t rd rs1 rs2 (fun _ a c => a &&& c) s

/-- VOR. -/
def execVor (bc : BitVec 1) (t : ElemT) (rd rs1 rs2 : Reg) (s : State) : Res := vint bc t rd rs1 rs2 (fun _ a c => a ||| c) s

/-- VXOR. -/
def execVxor (bc : BitVec 1) (t : ElemT) (rd rs1 rs2 : Reg) (s : State) : Res := vint bc t rd rs1 rs2 (fun _ a c => a ^^^ c) s

/-- VSHL. -/
def execVshl (bc : BitVec 1) (t : ElemT) (rd rs1 rs2 : Reg) (s : State) : Res :=
  vint bc t rd rs1 rs2 (fun w a c => a * 2 ^ (c % w) % 2 ^ w) s

/-- VSHRA. -/
def execVshra (bc : BitVec 1) (t : ElemT) (rd rs1 rs2 : Reg) (s : State) : Res :=
  vint bc t rd rs1 rs2 (fun w a c => (signedOf w a / (2 ^ (c % w) : Nat) % (2 ^ w : Nat)).toNat) s

/-- VSHRL. -/
def execVshrl (bc : BitVec 1) (t : ElemT) (rd rs1 rs2 : Reg) (s : State) : Res :=
  vint bc t rd rs1 rs2 (fun w a c => a / 2 ^ (c % w)) s

/-! ## Compares, selection and mask moves (R214 to R217) -/

/-- The new mask bits of a compare: an inactive element keeps its bit. -/
def cmpBits (f : Nat → Nat → Bool × Flags) : Nat → Nat → List Nat → List Nat → Nat × Flags
  | A, old, a :: as, c :: cs =>
    let r := cmpBits f (A / 2) (old / 2) as cs
    if A % 2 = 1 then
      let y := f a c
      ((if y.1 then 1 else 0) + 2 * r.1, y.2 ||| r.2)
    else (old % 2 + 2 * r.1, r.2)
  | _, _, _, _ => (0, 0)

/-- VCMPLT and VCMPEQ (R214). -/
def vcompare (lt : Bool) (bc : BitVec 1) (t : ElemT) (rd rs1 rs2 : Reg) (s : State) : Res :=
  if rd.toNat > 7 then illegal s
  else
    vrun (vSrcs bc rs1 rs2) [] s fun vs _ =>
      let n := elemCount t
      let c := s.second bc t rs2 vs
      let k : BitVec 3 := fld rd 0 3
      let r := cmpBits (cmpElem t lt) (s.ctx.active n) (s.ctx.rm k).toNat (elemsOf (elemBits t) (vs.headD 0).toNat n) c.1
      ⟨0, 0, fun s => (s.setM k (BitVec.ofNat 512 r.1)).vflags (r.2 ||| c.2)⟩

/-- VCMPLT. -/
def execVcmplt (bc : BitVec 1) (t : ElemT) (rd rs1 rs2 : Reg) (s : State) : Res := vcompare true bc t rd rs1 rs2 s

/-- VCMPEQ. -/
def execVcmpeq (bc : BitVec 1) (t : ElemT) (rd rs1 rs2 : Reg) (s : State) : Res := vcompare false bc t rd rs1 rs2 s

/-- VSEL (R215): not governed; its selector is M[kvmask.MIDX]. -/
def execVsel (bc : BitVec 1) (t : ElemT) (rd rs1 rs2 : Reg) (s : State) : Res :=
  vrun (vSrcs bc rs1 rs2) [rd] s fun vs _ =>
    let w := elemBits t
    let n := elemCount t
    let c := s.second bc t rs2 vs
    let r := mapElems (fun a _ _ => (a, 0)) (s.ctx.rm s.ctx.csr.midx).toNat (elemsOf w (vs.headD 0).toNat n) c.1 c.1
    ⟨vOf w r.1, BitVec.allOnes 512, fun s => s.vflags c.2⟩

/-- One of an element type: 1, or 1.0 (R217). -/
def oneElem (t : ElemT) : Nat :=
  match t with
  | .f32 => 0x3F800000 | .bf16 => 0x3F80 | .f16 => 0x3C00 | _ => 1

/-- The mask of nonzero elements; FP ±0 counts as zero (R217). -/
def nonzeroBits (t : ElemT) : List Nat → Nat
  | [] => 0
  | a :: as =>
    let z := if isFltT t then a % 2 ^ (elemBits t - 1) = 0 else a = 0
    (if z then 0 else 1) + 2 * nonzeroBits t as

/-- VMOVM (R217): not governed. -/
def execVmovm (t : ElemT) (rd rs1 : Reg) (subop : BitVec 5) (s : State) : Res :=
  let w := elemBits t
  let n := elemCount t
  let md : BitVec 3 := fld rd 0 3
  let ms := s.ctx.rm (fld rs1 0 3)
  let old := s.ctx.rm md
  let two (v : BitVec 512) : Res := if rd.toNat > 7 ∨ rs1.toNat > 7 then illegal s else retire (s.setM md v)
  match subop.toNat with
  | 0 =>
    if rd.toNat > 7 then illegal s
    else vrun [rs1] [] s fun vs _ =>
      ⟨0, 0, fun s => s.setM md (BitVec.ofNat 512 (nonzeroBits t (elemsOf w (vs.headD 0).toNat n)))⟩
  | 1 =>
    if rs1.toNat > 7 then illegal s
    else vrun [] [rd] s fun _ _ =>
      ⟨vOf w ((List.range n).map fun e => if ms.getLsbD e then oneElem t else 0), BitVec.allOnes 512, id⟩
  | 2 => two (old &&& ms)
  | 3 => two (old ||| ms)
  | 4 => two (old ^^^ ms)
  | 5 => two (~~~ms)
  | _ => illegal s

/-! ## Reductions (R218, R219, R221) -/

/-- Elements with the inactive ones replaced. -/
def withIdle {α : Type} (idle : α) : Nat → List α → List α
  | _, [] => []
  | A, a :: as => (if A % 2 = 1 then a else idle) :: withIdle idle (A / 2) as

/-- VREDSUM in the order of R202. -/
def redSum (t : ElemT) (A : Nat) (as : List Nat) : Nat × Flags :=
  match elemFlt t with
  | some f =>
    let p := termPairs (withIdle (Val.fin true 0 0) A (as.map (decodeFlt f)))
    let r := addTree p.1 (if f.w = 32 then 6 else 7)
    let y := encodeNum (.flt f) .rne (decodeFlt fp32 (r.1.headD 0))
    (y.1, p.2 ||| r.2 ||| y.2)
  | none => ((withIdle 0 A as).foldl (fun (x : Nat) a => x + a) 0 % 2 ^ elemBits t, 0)

/-- VREDMAX. -/
def redMax (t : ElemT) (A : Nat) (as : List Nat) : Nat × Flags :=
  let w := elemBits t
  let idle := match elemFlt t with
    | some f => 2 ^ (w - 1) + f.top + 1
    | none => 2 ^ (w - 1)
  match withIdle idle A as with
  | [] => (0, 0)
  | x :: xs => xs.foldl (fun (r : Nat × Flags) a =>
      let y := maxElem t true r.1 a
      (y.1, r.2 ||| y.2)) (x, 0)

/-- A reduction writes element 0; the other elements become zero. -/
def vreduce (f : ElemT → Nat → List Nat → Nat × Flags) (t : ElemT) (rd rs1 : Reg) (s : State) : Res :=
  vrun [rs1] [rd] s fun vs _ =>
    let n := elemCount t
    let r := f t (s.ctx.active n) (elemsOf (elemBits t) (vs.headD 0).toNat n)
    ⟨BitVec.ofNat 4096 r.1, BitVec.allOnes 512, fun s => s.vflags r.2⟩

/-- VREDSUM. -/
def execVredsum (t : ElemT) (rd rs1 : Reg) (s : State) : Res := vreduce redSum t rd rs1 s

/-- VREDMAX. -/
def execVredmax (t : ElemT) (rd rs1 : Reg) (s : State) : Res := vreduce redMax t rd rs1 s

/-- Candidates of source values offered to an amax register of a core (R196, R265). -/
def Core.offer (c : Core) (idx : BitVec 4) (isInt : Bool) (vs : List Val) : Core :=
  let old := mgetD c.amax idx.toNat 0
  let new := vs.foldl (fun (r : BitVec 33) v => amaxJoin r (amaxOf isInt v)) old
  { c with amax := if new = 0 then mdel c.amax idx.toNat else mput c.amax idx.toNat new }

def NumFmt.isInt : NumFmt → Bool
  | .int _ => true
  | _ => false

/-- The values of the active elements. -/
def activeVals (f : NumFmt) (A : Nat) (as : List Nat) : List Val :=
  ((as.zipIdx).filter fun p => A.testBit p.2).map fun p => decodeNum f p.1

/-- VAMAX (R221). -/
def execVamax (t : ElemT) (rs1 : Reg) (s : State) : Res :=
  vrun [rs1] [] s fun vs _ =>
    let n := elemCount t
    let f := elemFmt t
    let cand := activeVals f (s.ctx.active n) (elemsOf (elemBits t) (vs.headD 0).toNat n)
    ⟨0, 0, fun s => s.setMe (s.me.offer s.ctx.csr.amaxIdx f.isInt cand)⟩

/-! ## Conversions (R220) -/

/-- A format that VCVT accepts: not a block format, not code 15. -/
def cvtFmt (code : BitVec 4) : Option NumFmt := if fmtBlock code ≠ 0 then none else fmtOf code

/-- The converted elements where active, with the bit address of element i at `at_ + i·w` (R190, R220), and the old bits
elsewhere; flags of active elements only. -/
def cvtMerge (src dst : NumFmt) (rnd : BitVec 2) (seed : Word) (at_ : Nat) : Nat → List Nat → List Nat → List Nat × Flags
  | A, a :: as, d :: ds =>
    let r := cvtMerge src dst rnd seed (at_ + dst.w) (A / 2) as ds
    if A % 2 = 1 then
      let y := encodeNum dst (cvtRnd rnd seed at_) (decodeNum src a)
      (y.1 :: r.1, y.2 ||| r.2)
    else (d :: r.1, r.2)
  | _, _, _ => ([], 0)

/-- The core-window bit address of a register image (R164, R190). -/
def State.imageBit (s : State) (r : Reg) : Nat := 8 * (0x400000 + s.cur.2.val * 0x4000 + r.toNat * 0x200)

/-- VCVT. -/
def execVcvt (bc : BitVec 1) (t : ElemT) (rd rs1 : Reg) (fmt : BitVec 4) (s : State) : Res :=
  match cvtFmt fmt with
  | none => illegal s
  | some g =>
    let src := if bc = 1 then g else elemFmt t
    let dst := if bc = 1 then elemFmt t else g
    let csr := s.ctx.csr
    if csr.rnd = 3 then illegal s
    else
      vrun [rs1] [rd] s fun vs old =>
        let n := 4096 / max src.w dst.w
        let A := s.ctx.active n
        let as := elemsOf src.w (vs.headD 0).toNat n
        let r := cvtMerge src dst csr.rnd csr.seed (s.imageBit rd) A as (elemsOf dst.w old.toNat n)
        let used := n * dst.w
        let tail : BitVec 512 := maskRun 512 ((used + 7) / 8) (512 - (used + 7) / 8)
        ⟨vOf dst.w r.1, actBytes dst.w A ||| tail, fun s =>
          let s := s.vflags r.2
          if csr.amaxEn then s.setMe (s.me.offer csr.amaxIdx src.isInt (activeVals src A as)) else s⟩

/-! ## Moves of elements (R222, R223) -/

/-- VBCAST. -/
def execVbcast (bc : BitVec 1) (t : ElemT) (rd rs1 rs2 : Reg) (s : State) : Res :=
  let w := elemBits t
  let n := elemCount t
  if bc = 1 ∧ rs1 ≠ 0 then illegal s
  else
    vrun (if bc = 1 then [] else [rs2]) [rd] s fun vs old =>
      let b : Nat × Flags := if bc = 1 then s.bcast t rs2
        else ((elemsOf w (vs.headD 0).toNat n).getD ((s.x rs1).toNat % n) 0, 0)
      let olds := elemsOf w old.toNat n
      let A := s.ctx.active n
      let r := mapElems (fun _ _ _ => (b.1, 0)) A olds olds olds
      ⟨vOf w r.1, actBytes w A, fun s => s.vflags b.2⟩

/-- An instruction that moves bits of elements: `pick` gives the new element e. -/
def vmove (srcs : List Reg) (t : ElemT) (rd : Reg) (s : State) (pick : List (List Nat) → Nat → Nat) : Res :=
  vrun srcs [rd] s fun vs old =>
    let w := elemBits t
    let n := elemCount t
    let els := vs.map fun v => elemsOf w v.toNat n
    let olds := elemsOf w old.toNat n
    let A := s.ctx.active n
    let new := (List.range n).map (pick els)
    let r := mapElems (fun a _ _ => (a, 0)) A new olds olds
    ⟨vOf w r.1, actBytes w A, id⟩

/-- VPERM. -/
def execVperm (t : ElemT) (rd rs1 rs2 : Reg) (s : State) : Res :=
  vmove [rs1, rs2] t rd s fun els e =>
    (els.headD []).getD ((els.getD 1 []).getD e 0 % elemCount t) 0

/-- VSLIDE by X[rs2], or by F[rs2] as an integer for FP types. -/
def execVslide (t : ElemT) (rd rs1 rs2 : Reg) (s : State) : Res :=
  let k : Int := if isFltT t then (s.f rs2).toInt else (s.x rs2).toInt
  vmove [rs1] t rd s fun els e =>
    let j : Int := e + k
    if 0 ≤ j ∧ j < elemCount t then (els.headD []).getD j.toNat 0 else 0

/-- VTRN. -/
def execVtrn (t : ElemT) (rd rs1 rs2 : Reg) (s : State) : Res :=
  vmove [rs1, rs2] t rd s fun els e =>
    if e % 2 = 0 then (els.headD []).getD e 0 else (els.getD 1 []).getD (e - 1) 0

end Sys2Proof.Machine
end

