-- ==== Sys2Proof/Machine/VectorMem.lean ====
section
/-! DEFINITION.
Vector memory instructions and stream bindings (R224 to R236), and the wake of a context parked on an empty word (R277). -/

namespace Sys2Proof.Machine

open Sys2Proof

/-! ## Pieces -/

/-- A run of bytes cut at line boundaries; it spans fewer lines than `fuel`. -/
def cutLines (a : Word) (off n : Nat) : Nat → List Chunk
  | 0 => []
  | fuel + 1 =>
    if n = 0 then []
    else
      let m := min n (128 - a.toNat % 128)
      (a, off, m) :: cutLines (a + w64 m) (off + m) (n - m) fuel

/-- The pieces of a contiguous access (R225). -/
def blockChunks (a : Word) : List Chunk := cutLines a 0 512 6

/-- Bits 4j of a byte mask spread over the 4 bytes of lane j (R230, R231). -/
def laneMask (m : BitVec 512) : BitVec 512 :=
  BitVec.ofNat 512 (packElems 4 ((elemsOf 4 m.toNat 128).map fun x => if x % 2 = 1 then 15 else 0))

/-! ## Loads and stores of a register (R226, R235) -/

/-- The portions of the instruction were issued: it is complete, or the context waits for them. -/
def loadTail (t : State) (rd : Reg) (src : Option Reg) (grp : Nat) (pc : Word) (mask : BitVec 512) : Res :=
  if t.out ≠ .done then .next t
  else
    let t := match src with
      | some r =>
        if t.ctx.pc ≠ pc then t.consume t.cur.1 t.cur.2 r
        else t.setCtx { t.ctx with took := if t.ctx.hold = Hold.exact grp then some r else none }
      | none => t
    match t.ctx.bound rd with
    | none => .next t
    | some _ =>
      if t.ctx.hold = Hold.exact grp then .next (t.setCtx { t.ctx with hold := .gen grp })
      else if t.ctx.pc = pc then .next t
      else if (t.group t.cur.1 grp) ≠ [] then .next (t.setCtx { t.ctx with pc := pc, hold := .gen grp })
      else if mask = 0 then
        if !t.me.gang.g then .next ((t.setCtx { t.ctx with pc := pc }).genFinish t.cur.1 t.cur.2 rd 0 0)
        else
          -- it ends with the loads of the other members (R341)
          let a := t.newAcc grp .load [] 0 0 (.v rd) (.back 0)
          .next ((t.setCtx { t.ctx with pc := pc, hold := .gen grp }).addAcc t.cur.1 { a with pc := pc })
      else .next t

/-- A load form: its pieces and active bytes; `idx`: a bound register that gives its offsets. -/
def vload (op : AccOp) (rd : Reg) (idx : Option Reg) (cs : List Chunk) (mask : BitVec 512) (s : State) : Res :=
  match (match s.ctx.bound rd with
    | none => none
    | some b => (s.me.genBad (s.win s.cur.1) b 0)) with
  | some (c, v) => trap c v s
  | none =>
    -- a command in flight holds the block of a write generator (R296)
    if s.genHeld s.cur.1 s.cur.2 rd then stall s
    else match s.access op cs mask 0 (.v rd) with
    | .next t => loadTail t rd (idx.filter fun r => (s.ctx.bound r).isSome) s.me.nextAge s.pc mask
    | r => r

/-- A store form: the bound registers that it read take their next block when it completes. -/
def vstore (op : AccOp) (srcs : List Reg) (cs : List Chunk) (mask : BitVec 512) (data : BitVec 4096) (s : State) : Res :=
  match s.access op cs mask data .none with
  | .next t => .next (if t.out = .done ∧ t.ctx.pc ≠ s.pc then t.consumeAll srcs else t)
  | r => r

/-- A contiguous load (R225). -/
def vldBlock (op : AccOp) (rd rs1 : Reg) (s : State) : Res :=
  let a := s.x rs1
  if s.misuse [] [rd] [rd] then illegal s
  else if a.toNat % 64 ≠ 0 then trap 4 a s
  else vload op rd none (blockChunks a) s.ctx.byteMask s

/-- A contiguous store (R225). -/
def vstBlock (op : AccOp) (rd rs1 : Reg) (s : State) : Res :=
  let a := s.x rs1
  if s.misuse [rd] [] [rd] then illegal s
  else if a.toNat % 64 ≠ 0 then trap 6 a s
  else
    match s.vsrc rd with
    | .error r => r
    | .ok v => vstore op [rd] (blockChunks a) s.ctx.byteMask v s

/-- VLD (R227). -/
def execVld (rd rs1 : Reg) (s : State) : Res := vldBlock (.vload false false) rd rs1 s

/-- VST (R227). -/
def execVst (rd rs1 : Reg) (s : State) : Res := vstBlock (.vstore false false) rd rs1 s

/-- VXLD (R227). -/
def execVxld (rd rs1 : Reg) (s : State) : Res := vldBlock (.vload true false) rd rs1 s

/-- VJOIN (R227). -/
def execVjoin (rd rs1 : Reg) (s : State) : Res := vstBlock (.vstore true false) rd rs1 s

/-! ## Segments (R229) -/

/-- The start of segment j. -/
def segAddr (a d : Word) (j : Nat) : Word := a + w64 j * (fld d 0 48 : BitVec 48).signExtend 64

/-- The pieces of the segments, in ascending j. -/
def segChunks (a d : Word) : List Chunk :=
  let n := 2 ^ (fld d 60 4).toNat
  (List.range (512 / n)).flatMap fun j => cutLines (segAddr a d j) (j * n) n 6

/-- The cause and ktval of a refused descriptor, or of the lowest misaligned segment, for which `mis` is the cause. -/
def segBad (mis : BitVec 6) (a d : Word) : Option (BitVec 6 × Word) :=
  let seg := (fld d 60 4).toNat
  if seg > 9 then some (2, d)
  else if fld d 48 12 ≠ (0 : BitVec 12) then some (2, 0)
  else
    ((List.range (512 / 2 ^ seg)).find? fun j => (segAddr a d j).toNat % min (2 ^ seg) 64 ≠ 0).map
      fun j => (mis, segAddr a d j)

/-- VLDS. -/
def execVlds (rd rs1 rs2 : Reg) (s : State) : Res :=
  if s.misuse [] [rd] [rd] then illegal s
  else
    match segBad 4 (s.x rs1) (s.x rs2) with
    | some (c, v) => trap c v s
    | none => vload (.vload false false) rd none (segChunks (s.x rs1) (s.x rs2)) s.ctx.byteMask s

/-- VSTS. -/
def execVsts (rd rs1 rs2 : Reg) (s : State) : Res :=
  if s.misuse [rd] [] [rd] then illegal s
  else
    match segBad 6 (s.x rs1) (s.x rs2) with
    | some (c, v) => trap c v s
    | none =>
      match s.vsrc rd with
      | .error r => r
      | .ok v => vstore (.vstore false false) [rd] (segChunks (s.x rs1) (s.x rs2)) s.ctx.byteMask v s

/-! ## Gather and scatter (R230) -/

/-- The pieces of the 128 elements: element j at base + offset j. -/
def laneChunks (a : Word) (offs : BitVec 4096) : List Chunk :=
  ((elemsOf 32 offs.toNat 128).zipIdx).map fun (o, j) => (a + w64 o, 4 * j, 4)

/-- The lowest active element that is misaligned. -/
def laneBad (cs : List Chunk) (mask : BitVec 512) : Option Word :=
  (cs.find? fun c => mask.getLsbD c.2.1 && c.1.toNat % 4 ≠ 0).map (·.1)

/-- VLDX. -/
def execVldx (rd rs1 rs2 : Reg) (s : State) : Res :=
  if s.misuse [rs2] [rd] [rs2, rd] then illegal s
  else
    match s.vsrc rs2 with
    | .error r => r
    | .ok o =>
      let cs := laneChunks (s.x rs1) o
      let mask := laneMask s.ctx.byteMask
      match laneBad cs mask with
      | some a => trap 4 a s
      | none => vload (.vload false true) rd (some rs2) cs mask s

/-- VSTX. -/
def execVstx (rd rs1 rs2 : Reg) (s : State) : Res :=
  if s.misuse [rs2, rd] [] [rs2, rd] then illegal s
  else
    match s.vsrcs [rs2, rd] with
    | .error r => r
    | .ok vs =>
      let cs := laneChunks (s.x rs1) (vs.headD 0)
      let mask := laneMask s.ctx.byteMask
      match laneBad cs mask with
      | some a => trap 6 a s
      | none => vstore (.vstore false true) [rs2, rd] cs mask (vs.getD 1 0) s

/-! ## Folds (R231) -/

/-- VFOLD. -/
def execVfold (rd rs1 rs2 : Reg) (s : State) : Res :=
  let a := s.x rs1
  let k := s.x rs2
  if s.misuse [rd] [] [rd] then illegal s
  else if fld k 34 30 ≠ (0 : BitVec 30) then illegal s
  else if a.toNat % 4 ≠ 0 then trap 6 a s
  else
    let lvl : BitVec 2 := fld k 32 2
    let d := s.ctx.csr.dom[lvl.toNat]'(by have := lvl.isLt; omega)
    if !d.v then trap 17 a s
    else
      match s.vsrc rd with
      | .error r => r
      | .ok v =>
        vstore (.vfold (fld k 0 32) d.lvl d.dom d.phase) [rd]
          ((List.range 128).map fun e => (a + w64 (4 * e), 4 * e, 4)) (laneMask s.ctx.byteMask) v s

/-! ## Blocks of synchronised scratchpad (R232, R233) -/

/-- VLDF (R232): the active words are read and emptied as one step; a word is an element, active by its lowest byte (R206). It is an
acquire, performed at its place in program order (R304, R307, R322). -/
def execVldf (rd rs1 : Reg) (s : State) : Res :=
  let a := s.x rs1
  let o := a.toNat
  let mask := laneMask s.ctx.byteMask
  let words := maskWords o 512 mask.toNat
  if s.misuse [] [rd] [rd] then illegal s
  else if o % 64 ≠ 0 then trap 4 a s
  else if s.mustWait true (words.map fun w => (s.padAddr w, 0, 4)) then stall s
  else
    match words.find? fun w => !decide (w + 4 ≤ s.me.padSize) || !s.me.isSync w with
    | some w => trap 24 (s.padAddr w) s
    | none =>
      match s.me.emptyWord o 512 mask.toNat with
      | some w => s.parkWord w
      | none =>
        let data := mergeV (s.vold rd) (BitVec.ofNat 4096 (readNat s.me.pad o 512)) mask
        match s.vrefuse rd mask with
        | some r => r
        | none =>
          let t := s.tellPad s.cur.1 s.cur.2 s.cur.1 0 (words.map fun w => (w, 4))
          retire ((t.setMe (t.me.emptyWords words)).vput rd data mask)

/-- VSTF (R233): through the window of a core, this one's operand form included. An address with an active word that lies in no
endpoint window is cause 24 (log 116). -/
def execVstf (rd rs1 : Reg) (s : State) : Res :=
  let a := s.x rs1
  let mask := laneMask s.ctx.byteMask
  if s.misuse [rd] [] [rd] then illegal s
  else if a.toNat % 64 ≠ 0 then trap 6 a s
  else if !aWin a ∧ mask ≠ 0 then trap 24 a s
  else
    match s.vsrc rd with
    | .error r => r
    | .ok v => vstore .vstf [rd] [(a, 0, 512)] mask v s

/-! ## Streams (R234) -/

/-- The descriptor of a generator is within its limits. -/
def genOk (d g : Word) : Bool :=
  fld d 54 7 = (0 : BitVec 7) && fld d 32 22 != (0 : BitVec 22) && d.toNat % 64 = 0 &&
    fld g 48 16 != (0 : BitVec 16) && (fld g 24 24 : BitVec 24).toNat % 64 = 0 && (fld g 0 24 : BitVec 24).toNat % 64 = 0

/-- The binding that a descriptor and a shape describe. -/
def streamOf (d g : Word) : Stream where
  kind := fld d 62 2
  fe := fld d 61 1 = 1
  count := (fld d 32 22).toNat
  base := (fld d 0 32).toNat
  inner := (fld g 48 16).toNat
  ostr := (fld g 24 24).toInt
  istr := (fld g 0 24).toInt
  k := 0

/-- A channel is bound to a stream register of the team other than this one (R168). -/
def State.chanTaken (s : State) (rd : Reg) (ch : Nat) : Bool :=
  allCtx.any fun n => (s.me.ctx n).streams.any fun b =>
    b.2.kind == 3 && b.2.base % 8 == ch && !(n == s.cur.2 && b.1 == rd.toNat)

/-- A register is bound anew. -/
def State.bind (s : State) (rd : Reg) (b : Stream) : State :=
  s.setCtx { s.ctx.wv rd 0 with streams := mput s.ctx.streams rd.toNat b }

/-- SBIND. BASE is a scratchpad operand (R271), so that it has to lie in the carve (log 117). -/
def execSbind (rd rs1 rs2 : Reg) (s : State) : Res :=
  let d := s.x rs1
  let kind : BitVec 2 := fld d 62 2
  if rd.toNat < 24 then illegal s
  else if kind = 0 then trap 2 d s
  else if kind = 3 then
    if rs2 ≠ 0 ∨ fld d 32 30 ≠ (0 : BitVec 30) ∨ fld d 3 29 ≠ (0 : BitVec 29) then trap 2 d s
    else if s.me.aqb = 0 ∨ s.chanTaken rd (d.toNat % 8) then trap 24 0 s
    else retire (s.bind rd (streamOf d 0))
  else if !genOk d (s.x rs2) then trap 2 d s
  else if (streamOf d 0).base ≥ s.me.padSize then trap 24 (s.padAddr (streamOf d 0).base) s
  else retire (s.bind rd (streamOf d (s.x rs2)))

/-- SUNBIND. -/
def execSunbind (rd : Reg) (s : State) : Res :=
  if rd.toNat < 24 then illegal s
  else retire (s.setCtx { s.ctx.wv rd 0 with streams := mdel s.ctx.streams rd.toNat })

/-! ## Wakes (R277) -/

/-- EMPTY_WORD_READ_WAKE: the word on which a context is parked is full, and its read issues again. -/
def execEmptyWordReadWake (ep : Nat) (ctx : Fin 11) (s : State) : Res :=
  match (s.ctxAt ep ctx).life with
  | .parked (.word off) =>
    if (s.core ep).isFull off ∧ !(s.core ep).frozen then .next (s.modCtx ep ctx fun x => { x with life := .live }) else .next s
  | _ => .next s

end Sys2Proof.Machine
end

