-- ==== Sys2Proof/Machine/Convert.lean ====
section
/-! DEFINITION.
Block formats: decoding with a block scale (R183, R184) and conversion of blocks (R194, R195). -/

namespace Sys2Proof.Machine

open Sys2Proof

/-- The element format of a code, as a number format (R178); code 15 has none. -/
def numFmt (code : BitVec 4) : NumFmt := (fmtOf code).getD (.int 8)

/-- A value with its exponent moved. -/
def Val.scale (v : Val) (k : Int) : Val :=
  match v with
  | .fin n m e => .fin n m (e + k)
  | v => v

/-- DecodeMX (R183). -/
def decodeMx (f : NumFmt) (x p : Nat) : Val := if x = 255 then .qnan else (decodeNum f p).scale ((x : Int) - 127)

/-- DecodeSF4 (R184). -/
def decodeSf4 (sc p : Nat) : Val :=
  match decodeFlt e2m1 p with
  | .fin n m e => if sc = 0 then .fin n 0 0 else
    (match decodeSf8 sc with
     | .fin _ k j => .fin n (m * k) (e + j)
     | v => v)
  | v => v

/-- An element of a format code under its block's scale byte. -/
def decodeScaled (code : BitVec 4) (sc p : Nat) : Val :=
  if fmtBlock code = 32 then decodeMx (numFmt code) sc p
  else if fmtBlock code = 16 then decodeSf4 sc p
  else decodeNum (numFmt code) p

/-- The magnitude of a finite value is greater. -/
def magGt (a b : Val) : Bool :=
  match a, b with
  | .fin _ m e, .fin _ k j => cmpMag m e k j == .gt
  | _, _ => false

/-- The value of largest magnitude among finite ones, or zero. -/
def largest (vs : List Val) : Val :=
  vs.foldl (fun (a : Val) v => if magGt v a then v else a) (.fin false 0 0)

/-- emax of the element formats of R194. -/
def mxEmax (code : BitVec 4) : Int :=
  match code.toNat with
  | 7 => 8
  | 8 => 4
  | _ => 2

/-- Elements encoded one by one; `rnd i` rounds the element at place i of the row. -/
def encElems (f : NumFmt) (rnd : Nat → Rnd) : Nat → List Val → List Nat × Flags
  | _, [] => ([], 0)
  | i, v :: vs =>
    let y := encodeNum f (rnd i) v
    let r := encElems f rnd (i + 1) vs
    (y.1 :: r.1, y.2 ||| r.2)

/-- An MX block: its scale, its elements and flags (R194). -/
def encMx (code : BitVec 4) (rnd : Nat → Rnd) (i : Nat) (vs : List Val) : Nat × List Nat × Flags :=
  let f := numFmt code
  if vs.any fun v => v.isNan || v.isInf then (255, vs.map fun _ => 0, fNV)
  else
    match largest vs with
    | .fin _ m e =>
      if m = 0 then
        let r := encElems f rnd i vs
        (0, r.1, r.2)
      else
        let x := max (-127) (min 127 (topExp m e - mxEmax code))
        let r := encElems f rnd i (vs.map fun v => v.scale (-x))
        ((x + 127).toNat, r.1, r.2)
    | _ => (0, [], 0)

/-- NaN and infinities replaced by ±737,280, with their flags (R195). -/
def sf4Clean (v : Val) : Val × Flags :=
  match v with
  | .nan _ n => (.fin n 737280 0, fNV)
  | .inf n => (.fin n 737280 0, fOF)
  | v => (v, 0)

/-- The smallest SF8 code whose value is at least A / 6, or 255 (R195). -/
def sf8For (a : Val) : Nat :=
  match a with
  | .fin _ m e =>
    ((List.range 256).find? fun c => match decodeSf8 c with
      | .fin _ k j => cmpMag (6 * k) j m e != .lt
      | _ => false).getD 255
  | _ => 255

/-- An SF4 block (R195). -/
def encSf4 (rnd : Nat → Rnd) (i : Nat) (vs : List Val) : Nat × List Nat × Flags :=
  let cl := vs.map sf4Clean
  let fl := cl.foldl (fun (f : Flags) p => f ||| p.2) 0
  let us := cl.map (·.1)
  let a := largest us
  if a.isZero then (0, us.map fun v => signBit 4 v.neg, fl)
  else
    let sc := sf8For a
    let q (v : Val) : Val := match v, decodeSf8 sc with
      | .fin n m e, .fin _ k j => if m = 0 then .fin n 0 0 else
        let x := quotient m e k j 100
        .fin n x.1 x.2
      | v, _ => v
    let r := encElems (.flt e2m1) rnd i (us.map q)
    (sc, r.1, fl ||| r.2)

/-- The blocks of a row, from place i; at most `fuel` of them: scales, elements, flags. -/
def encBlocks (code : BitVec 4) (rnd : Nat → Rnd) (i : Nat) (vs : List Val) : Nat → List Nat × List Nat × Flags
  | 0 => ([], [], 0)
  | fuel + 1 =>
    if vs.isEmpty then ([], [], 0)
    else
      let n := fmtBlock code
      let b := if n = 16 then encSf4 rnd i (vs.take 16) else encMx code rnd i (vs.take 32)
      let r := encBlocks code rnd (i + n) (vs.drop n) fuel
      (b.1 :: r.1, b.2.1 ++ r.2.1, b.2.2 ||| r.2.2)

/-- A row converted into a format: scales (none without blocks), element codes and flags (R191 to R195). -/
def encRow (code : BitVec 4) (rnd : Nat → Rnd) (vs : List Val) : List Nat × List Nat × Flags :=
  if fmtBlock code = 0 then
    let r := encElems (numFmt code) rnd 0 vs
    ([], r.1, r.2)
  else encBlocks code rnd 0 vs (vs.length + 1)

/-- The rounding of the elements of a row whose first bit has the address `at_`; of the byte address of an element only bits [41:0]
count (R188, R190). -/
def rowRnd (rnd : BitVec 2) (seed : Word) (code : BitVec 4) (at_ : Nat) (i : Nat) : Rnd :=
  cvtRnd rnd seed ((at_ + i * fmtWidth code) % 2 ^ 45)

end Sys2Proof.Machine
end

