-- ==== Sys2Proof/Machine/Matrix.lean ====
section
/-! DEFINITION.
Matrix instructions (R239 to R270): the checks and the push of each command, its execution by the matrix engine, completions,
and the amax registers. -/

namespace Sys2Proof.Machine

open Sys2Proof

/-! ## Formats and descriptors (R241, R246) -/

/-- The operand formats of a pair code, as codes of R178; none for code 15. -/
def pairFmt (sparse : Bool) (p : Nat) : Option (BitVec 4 × BitVec 4) :=
  if sparse then
    match p with
    | 0 => some (3, 3)
    | 1 => some (12, 12)
    | 2 => some (10, 10)
    | 3 => some (11, 11)
    | _ => none
  else
    match p with
    | 0 => some (1, 1)
    | 1 => some (2, 2)
    | 2 => some (3, 3)
    | 3 => some (3, 4)
    | 4 => some (4, 3)
    | 5 => some (4, 4)
    | 6 => some (5, 5)
    | 7 => some (6, 6)
    | 8 => some (7, 7)
    | 9 => some (8, 8)
    | 10 => some (9, 9)
    | 11 => some (10, 10)
    | 12 => some (11, 11)
    | 13 => some (12, 12)
    | 14 => some (1, 3)
    | _ => none

/-- N of xN. -/
def xnN (b : Word) : Nat := (fld b 0 10).toNat

/-- xN is no reserved combination (R247). -/
def xnOk (sparse : Bool) (b : Word) : Bool :=
  fld b 48 16 == (0 : BitVec 16) && (sparse || fld b 32 16 == (0 : BitVec 16)) && fld b 10 6 == (0 : BitVec 6) &&
    decide (xnN b % 16 = 0 ∧ 16 ≤ xnN b ∧ xnN b ≤ 512)

/-- Scales per 64 elements of a format, or 0. -/
def scalesPer (code : BitVec 4) (k : Nat) : Nat := if fmtBlock code = 0 then 0 else k / fmtBlock code

/-- The multiply that a command describes: sparse, pair code, transposes. -/
structure Mul where
  sparse : Bool
  pair : Nat
  ta : Bool
  tb : Bool

/-- Bytes of operand A with its scale plane (R242). -/
def aSize (fa : BitVec 4) : Nat := 512 * fmtWidth fa + 64 * scalesPer fa 64

/-- Bytes of the data of operand B (R244). -/
def bData (fb : BitVec 4) (kb n : Nat) (tb : Bool) : Nat :=
  if tb then n * kb * fmtWidth fb / 8 else kb / 64 * ((n * fmtWidth fb + 4095) / 4096) * 32768

/-- The lowest offset of [o, o + n) outside [0, lim). -/
def outside (o n lim : Nat) : Option Nat := if n = 0 ∨ o + n ≤ lim then none else some (max o lim)

/-- The lower of two offsets. -/
def lower (a b : Option Nat) : Option Nat :=
  match a, b with
  | some x, some y => some (min x y)
  | some x, none => some x
  | none, b => b

/-- The checks of MMA and MMAS in order (R247): cause and ktval; `word` the instruction word. -/
def mulCheck (c : Core) (win : Word) (m : Mul) (a b word : Word) : Option (BitVec 6 × Word) :=
  match pairFmt m.sparse m.pair with
  | none => some (19, word)
  | some (fa, fb) =>
    if !xnOk m.sparse b ∨ (m.sparse ∧ m.ta) then some (19, word)
    else if !c.mx then some (24, 0)
    else if a.toNat % 64 ≠ 0 then some (4, win + a)
    else
      let md := if m.sparse then outside (64 * (fld b 32 16).toNat) 1024 c.padSize else none
      match lower (outside a.toNat (aSize fa) c.padSize) md with
      | some o => some (24, win + w64 o)
      | none =>
        let kb := if m.sparse then 128 else 64
        let base := 512 * (fld b 16 16).toNat
        let size := bData fb kb (xnN b) m.tb + xnN b * scalesPer fb kb
        if base + size ≤ 1048576 then none else some (24, w64 base)

/-- The fields of an MCVTST descriptor (R254). -/
structure Cvt where
  pitch : Nat
  col0 : Nat
  n : Nat
  dst : Bool
  sint : Bool
  aidx : BitVec 4
  aen : Bool
  tr : Bool
  rnd : BitVec 2
  fmt : BitVec 4

def cvtOf (b : Word) : Cvt where
  pitch := (fld b 48 16).toNat
  col0 := (fld b 32 10).toNat
  n := (fld b 16 10).toNat
  dst := fld b 14 1 = 1
  sint := fld b 12 1 = 1
  aidx := fld b 8 4
  aen := fld b 7 1 = 1
  tr := fld b 6 1 = 1
  rnd := fld b 4 2
  fmt := fld b 0 4

/-- Rows and elements per row of the output (R255). -/
def Cvt.rows (d : Cvt) : Nat := if d.tr then d.n else 64
def Cvt.len (d : Cvt) : Nat := if d.tr then 64 else d.n
/-- Bytes of a row, the pitch in force and the scale bytes of a row. -/
def Cvt.rowBytes (d : Cvt) : Nat := (d.len * fmtWidth d.fmt + 7) / 8
def Cvt.step (d : Cvt) : Nat := if d.pitch = 0 then (d.len * fmtWidth d.fmt + 127) / 128 * 16 else d.pitch
def Cvt.scales (d : Cvt) : Nat := scalesPer d.fmt d.len

/-- A descriptor is a reserved combination (R256). -/
def Cvt.reserved (d : Cvt) (b : Word) : Bool :=
  d.fmt == 15 || d.rnd == 3 || decide (d.n % 16 ≠ 0 ∨ d.n < 16 ∨ d.n > 512 ∨ d.col0 % 16 ≠ 0 ∨ d.col0 + d.n > 512) ||
    fld b 42 6 != (0 : BitVec 6) || fld b 26 6 != (0 : BitVec 6) || fld b 15 1 != (0 : BitVec 1) ||
    fld b 13 1 != (0 : BitVec 1) ||
    decide (d.pitch ≠ 0 ∧ (d.pitch < d.rowBytes ∨ d.pitch % 16 ≠ 0)) ||
    decide (fmtBlock d.fmt = 32 ∧ d.len % 32 ≠ 0)

/-- The byte ranges of the output from offset xd: the rows, then the scale plane. -/
def Cvt.ranges (d : Cvt) (xd : Nat) : List (Nat × Nat) :=
  ((List.range d.rows).map fun r => (xd + r * d.step, d.rowBytes)) ++ [(xd + d.rows * d.step, d.rows * d.scales)]

/-- The checks of MCVTST in order (R252, R256). DESIGN CHOICE (log 118): with PITCH = 0 and DST = 1 the compact pitch in force
(R254) is what has to be a multiple of 128. -/
def cvtCheck (c : Core) (win : Word) (zs : Reg) (a b word : Word) : Option (BitVec 6 × Word) :=
  let d := cvtOf b
  if zs.toNat > 3 then some (2, 0)
  else if d.reserved b then some (19, word)
  else if !c.mx then some (24, 0)
  else if (!d.dst ∧ a.toNat % 16 ≠ 0) ∨ (d.dst ∧ (a.toNat % 128 ≠ 0 ∨ d.step % 128 ≠ 0)) then some (6, a)
  else if d.dst then none
  else
    ((d.ranges a.toNat).foldl (fun (o : Option Nat) r => lower o (outside r.1 r.2 c.padSize)) none).map
      fun o => (24, win + w64 o)

/-- The checks of CNLD in order (R259). -/
def cnldCheck (c : Core) (win : Word) (a b word : Word) : Option (BitVec 6 × Word) :=
  let len := (fld b 16 16).toNat
  let cu := (fld b 0 16).toNat
  let src := fld b 32 1 = (1 : BitVec 1)
  if fld b 33 31 ≠ (0 : BitVec 31) ∨ len > 2048 ∨ cu + len > 2048 then some (19, word)
  else if !c.mx then some (24, 0)
  else if a.toNat % 64 ≠ 0 then some (4, if src then a else win + a)
  else if src then none
  else (outside a.toNat (512 * len) c.padSize).map fun o => (24, win + w64 o)

/-- The word of an instruction, as ktval of cause 19. -/
def wordOf (i : Instr) : Word := ((encode i).getD 0).zeroExtend 64

/-- The multiply of a command word. -/
def mulOf : Instr → Option (Mul × BitVec 2 × Bool)
  | .mma zd acc tb ta pair _ _ _ => some (⟨false, pair.toNat, ta = 1, tb = 1⟩, zd, acc = 1)
  | .mmas zd acc tb pair _ _ _ => some (⟨true, pair.toNat, false, tb = 1⟩, zd, acc = 1)
  | _ => none

/-- The checks of a command against the carve of the core that executes it. -/
def MCmd.check (q : MCmd) (c : Core) (win : Word) : Option (BitVec 6 × Word) :=
  let word := wordOf q.instr
  if q.bad then some (19, word)
  else
    match mulOf q.instr with
    | some (m, _, _) => mulCheck c win m q.a q.b word
    | none =>
      match q.instr with
      | .mcvtst zs _ _ => cvtCheck c win zs q.a q.b word
      | .cnld _ _ => cnldCheck c win q.a q.b word
      | .mzero zd => if zd.toNat > 3 then some (2, 0) else if !c.mx then some (24, 0) else none
      | _ => none

/-! ## Pushes (R171, R172) -/

/-- A command produces a completion (R250). -/
def completes : Instr → Bool
  | .mzero _ => false
  | .mrd .. => false
  | .mwr .. => false
  | _ => true

/-- A command of the context at hand. -/
def State.mcmd (s : State) (i : Instr) (a b : Word) (sigma : BitVec 32) (row : BitVec 4096) : MCmd where
  instr := i
  a := a
  b := b
  sigma := sigma
  rnd := s.ctx.csr.rnd
  amaxEn := s.ctx.csr.amaxEn
  amaxIdx := s.ctx.csr.amaxIdx
  seed := s.ctx.csr.seed
  pc := s.pc
  ep := s.cur.1
  ctx := s.cur.2
  seq := s.ctx.nPush
  age := s.me.nextAge
  row := row
  lead := s.cur.1
  tag := 0
  bad := false
  sent := false
  orphan := false

/-- Entries of the engine queue in use. -/
def Core.engineUse (c : Core) : Nat := c.mq.length + (if c.mrun.isSome then 1 else 0)

/-- A push: the combining-buffer entries of the pusher are sent on, and the command enters the queue (R172). -/
def State.push (s : State) (q : MCmd) : State :=
  let s := s.cbDrainCtx s.cur.1 s.cur.2
  let s := s.setMe { s.me with mq := s.me.mq ++ [q], nextAge := s.me.nextAge + 1 }
  if completes q.instr then s.setCtx { s.ctx with nPush := s.ctx.nPush + 1, pushed := s.ctx.pushed + 1 } else s

/-- A push waits for the older fault tickets of its context (R305), and for the acquires before it (R307). -/
def State.pushHeld (s : State) : Bool := !s.ticketFree s.cur.1 s.cur.2 || s.acquiring s.cur.1 s.cur.2

/-- A command of the issuing core's own engine: its checks, then the push; a full queue stalls (R171). -/
def pushCmd (q : MCmd) (s : State) : Res :=
  match q.check s.me (s.win s.cur.1) with
  | some (cause, tval) => trap cause tval s
  | none => if s.me.engineUse ≥ 2 ∨ s.pushHeld then stall s else retire (s.push q)

/-- MMA (R245 to R248). -/
def execMma (zd : BitVec 2) (acc tb ta : BitVec 1) (pair : BitVec 4) (rs1 rs2 rs3 : Reg) (s : State) : Res :=
  pushCmd (s.mcmd (.mma zd acc tb ta pair rs1 rs2 rs3) (s.x rs1) (s.x rs2) (s.f rs3) 0) s

/-- MMAS (R243, R245). -/
def execMmas (zd : BitVec 2) (acc tb : BitVec 1) (pair : BitVec 2) (rs1 rs2 rs3 : Reg) (s : State) : Res :=
  pushCmd (s.mcmd (.mmas zd acc tb pair rs1 rs2 rs3) (s.x rs1) (s.x rs2) (s.f rs3) 0) s

/-- MZERO (R252, R253). -/
def execMzero (rd : Reg) (s : State) : Res := pushCmd (s.mcmd (.mzero rd) 0 0 0 0) s

/-- MCVTST (R254 to R258). -/
def execMcvtst (rd rs1 rs2 : Reg) (s : State) : Res :=
  pushCmd (s.mcmd (.mcvtst rd rs1 rs2) (s.x rs1) (s.x rs2) 0 0) s

/-- CNLD (R259); in a gang the leader's operands, and one command number for every member (R339). -/
def execCnld (rs1 rs2 : Reg) (s : State) : Res :=
  let q := s.mcmd (.cnld rs1 rs2) (s.leaderX rs1) (s.leaderX rs2) 0 0
  if s.me.gang.g then
    let lead := s.me.gang.set.headD s.cur.1
    if lead = s.cur.1 then pushCmd { q with tag := s.next + 1 } { s with next := s.next + 1 }
    else pushCmd { q with lead := lead, tag := s.next } s
  else pushCmd q s

/-- The row selector is refused (R252). -/
def rowBad (v : Word) : Bool := fld v 8 56 != (0 : BitVec 56)

/-- MRD (R252, R253): the zs field, then MX = 0 (R239), then the row selector, then the rules of a bound register (R235). -/
def execMrd (rd rs1 rs2 : Reg) (s : State) : Res :=
  let v := s.x rs1
  if rs2.toNat > 3 then illegal s
  else if !s.me.mx then trap 24 0 s
  else if rowBad v then trap 2 v s
  else if s.misuse [] [rd] [rd] then illegal s
  else
    match s.vrefuse rd (BitVec.allOnes 512) with
    | some r => r
    | none => pushCmd (s.mcmd (.mrd rd rs1 rs2) v 0 0 0) s

/-- MWR (R252, R253), checked as MRD is: V[rs2] is read at the push. -/
def execMwr (rd rs1 rs2 : Reg) (s : State) : Res :=
  let v := s.x rs1
  if rd.toNat > 3 then illegal s
  else if !s.me.mx then trap 24 0 s
  else if rowBad v then trap 2 v s
  else if s.misuse [rs2] [] [rs2] then illegal s
  else
    match s.vsrc rs2 with
    | .error r => r
    | .ok row =>
      if s.me.engineUse ≥ 2 ∨ s.pushHeld then stall s
      else retire ((s.push (s.mcmd (.mwr rd rs1 rs2) v 0 0 row)).consume s.cur.1 s.cur.2 rs2)

/-! ## Accumulators -/

/-- The word of row i and column j of an accumulator in the table of its core. -/
def zKey (z i j : Nat) : Nat := z * 32768 + i * 512 + j

/-- Words lo to lo + n − 1 of a row. -/
def Core.zRow (c : Core) (z i lo n : Nat) : List (BitVec 32) :=
  let r := mrange c.z (zKey z i lo) n
  (List.range n).map fun k => mgetD r (zKey z i lo + k) 0

/-- Words of a row written. -/
def Core.putRow (c : Core) (z i lo : Nat) (ws : List (BitVec 32)) : Core :=
  { c with z := mmerge (c.z.length + ws.length + 1) ((ws.zipIdx).map fun p => (zKey z i lo + p.2, p.1)) c.z }

/-! ## Execution of MMA and MMAS (R248) -/

/-- Element number e of a packed array. -/
def codeAt (data w e : Nat) : Nat := data / 2 ^ (w * e) % 2 ^ w

/-- The decoded rows of operand A: 64 rows of 64 elements (R242). -/
def Core.aRows (c : Core) (m : Mul) (fa : BitVec 4) (xa : Nat) : List (List Val) :=
  let w := fmtWidth fa
  let data := readRange c.pad xa (512 * w)
  let nb := scalesPer fa 64
  let plane := readRange c.pad (xa + 512 * w) (64 * nb)
  (List.range 64).map fun i =>
    (List.range 64).map fun k =>
      let code := codeAt data w (if m.ta then k * 64 + i else i * 64 + k)
      let b := k / max 1 (fmtBlock fa)
      let sc := if nb = 0 then 0 else codeAt plane 8 (if m.ta then b * 64 + i else i * nb + b)
      decodeScaled fa sc code

/-- The decoded columns of operand B: N columns of KB elements (R244). -/
def Core.bCols (c : Core) (m : Mul) (fb : BitVec 4) (base n kb : Nat) : List (List Val) :=
  let w := fmtWidth fb
  let size := bData fb kb n m.tb
  let data := readRange c.canopy base size
  let nb := scalesPer fb kb
  let plane := readRange c.canopy (base + size) (n * nb)
  let cs := (n * w + 4095) / 4096
  (List.range n).map fun j =>
    (List.range kb).map fun k =>
      let code :=
        if m.tb then codeAt data w (j * kb + k)
        else
          let bitNo := j * w
          data / 2 ^ (8 * (((k / 64) * cs + bitNo / 4096) * 32768 + k % 64 * 512) + bitNo % 4096) % 2 ^ w
      let sc := if nb = 0 then 0 else codeAt plane 8 (k / max 1 (fmtBlock fb) * n + j)
      decodeScaled fb sc code

/-- The logical K of the stored elements of row i (R243). -/
def Core.kIndex (c : Core) (md i : Nat) : List Nat :=
  let v := readRange c.pad (md + 16 * i) 16
  (List.range 64).map fun k => 4 * (k / 2) + v / 2 ^ (2 * k) % 4

/-- IntSum (R201). -/
def intSum (terms : List Val) : Nat × Flags :=
  let v := terms.foldl (fun (a : Int) t => match t with
    | .fin n m e => a + (if n then -(shiftInt m e : Int) else (shiftInt m e : Int))
    | _ => a) 0
  let lim : Int := 2 ^ 31
  if v < -lim then (2 ^ 31, fOF) else if lim ≤ v then (2 ^ 31 - 1, fOF) else ((v % 2 ^ 32).toNat, 0)

/-- One output element: the products of a row and a column, and the old word when accumulating. -/
def dotElem (int : Bool) (sigma : Val) (row col : List Val) (old : Option (BitVec 32)) : Nat × Flags :=
  let prods := (row.zip col).map fun p =>
    let x := (vMul p.1 p.2).1
    if int then x else (vMul x sigma).1
  if int then
    intSum (match old with | some z => Val.ofInt z.toInt 0 false :: prods | none => prods)
  else
    alignSum (match old with | some z => decodeFlt fp32 z.toNat :: prods | none => prods)

/-- MMA and MMAS executed on the core's own operands: the core and the flags. -/
def Core.multiply (c : Core) (m : Mul) (z : Nat) (acc : Bool) (a b : Word) (sigma : BitVec 32) : Core × Flags :=
  match pairFmt m.sparse m.pair with
  | none => (c, 0)
  | some (fa, fb) =>
    let n := xnN b
    let kb := if m.sparse then 128 else 64
    let int := fa = 12
    let rows := c.aRows m fa a.toNat
    let cols := c.bCols m fb (512 * (fld b 16 16).toNat) n kb
    let sg := decodeFlt fp32 sigma.toNat
    (rows.zipIdx).foldl (fun (r : Core × Flags) p =>
      let i := p.2
      let ks := if m.sparse then c.kIndex (64 * (fld b 32 16).toNat) i else []
      let olds := c.zRow z i 0 n
      let out := (cols.zip olds).map fun q =>
        let col := if m.sparse then ks.map fun k => q.1.getD k (.fin false 0 0) else q.1
        dotElem int sg p.1 col (if acc then some q.2 else none)
      (r.1.putRow z i 0 (out.map fun o => BitVec.ofNat 32 o.1), out.foldl (fun (f : Flags) o => f ||| o.2) r.2)) (c, 0)

/-! ## Execution of MCVTST (R255 to R258) -/

/-- The source values of output row r. -/
def Core.cvtSrc (c : Core) (z : Nat) (d : Cvt) (r : Nat) : List Val :=
  let ws := if d.tr then (List.range 64).map fun i => (c.zRow z i (d.col0 + r) 1).headD 0 else c.zRow z r d.col0 d.n
  ws.map fun w => if d.sint then Val.ofInt w.toInt 0 false else decodeFlt fp32 w.toNat

/-- The converted rows: bytes of each as a number, scale bytes, flags; `at_` is the bit address of the output (R190). -/
def Core.cvtRows (c : Core) (z : Nat) (d : Cvt) (seed : Word) (at_ : Nat) : List (Nat × List Nat × Flags) :=
  (List.range d.rows).map fun r =>
    let y := encRow d.fmt (rowRnd d.rnd seed d.fmt (at_ + 8 * r * d.step)) (c.cvtSrc z d r)
    (packElems (fmtWidth d.fmt) y.2.1, y.1, y.2.2)

/-- Every source value of the command. -/
def Core.cvtVals (c : Core) (z : Nat) (d : Cvt) : List Val := (List.range d.rows).flatMap fun r => c.cvtSrc z d r

/-- The output as runs of bytes: offset from the destination, length, value. -/
def cvtRuns (d : Cvt) (rows : List (Nat × List Nat × Flags)) : List (Nat × Nat × Nat) :=
  ((rows.zipIdx).map fun p => (p.2 * d.step, d.rowBytes, p.1.1)) ++
    [(d.rows * d.step, d.rows * d.scales, packElems 8 (rows.flatMap fun p => p.2.1))]

/-- The lowest full word of synchronised banks that the output touches (R257). -/
def Core.fullUnder (c : Core) (ranges : List (Nat × Nat)) : Option Nat :=
  (ranges.foldl (fun (o : Option Nat) r =>
    lower o ((maskWords r.1 r.2 (2 ^ r.2 - 1)).find? fun w => c.isSync w && c.isFull w)) none)

/-- Runs of bytes written into the scratchpad. -/
def Core.padRuns (c : Core) (o : Nat) (runs : List (Nat × Nat × Nat)) : Core :=
  (runs.foldl (fun (c : Core) r =>
    { c with pad := writeRange c.pad (o + r.1) r.2.1 r.2.2 }.fillWords (maskWords (o + r.1) r.2.1 (2 ^ r.2.1 - 1))) c).mendPad
      (runs.map fun r => (o + r.1, r.2.1))

/-- The 128-byte lines that runs of bytes touch, by number from the destination; bytes without output are zero (R258). -/
def stageRuns (runs : List (Nat × Nat × Nat)) : SMap (BitVec 1024) :=
  let mem := runs.foldl (fun (m : List Host.Cell) r => writeRange m r.1 r.2.1 r.2.2) []
  let ls := (runs.filter fun r => r.2.1 ≠ 0).flatMap fun r =>
    (List.range ((r.1 + r.2.1 - 1) / 128 + 1 - r.1 / 128)).map fun k => r.1 / 128 + k
  (ls.foldl insertNat []).map fun l => (l, lineOf mem l)

/-! ## The engine (R248, R249, R263, R264) -/

/-- The words that a command awaits: of its scratchpad source, by offset and length. -/
def MCmd.awaited (q : MCmd) : List (Nat × Nat) :=
  match mulOf q.instr with
  | some (m, _, _) =>
    (match pairFmt m.sparse m.pair with
     | some (fa, _) => (q.a.toNat, aSize fa) :: (if m.sparse then [(64 * (fld q.b 32 16).toNat, 1024)] else [])
     | none => [])
  | none =>
    match q.instr with
    | .cnld _ _ => if fld q.b 32 1 = (0 : BitVec 1) then [(q.a.toNat, 512 * (fld q.b 16 16).toNat)] else []
    | _ => []

/-- Every awaited word of a synchronised bank is full. -/
def Core.allFull (c : Core) (ranges : List (Nat × Nat)) : Bool :=
  ranges.all fun r => (c.emptyWord r.1 r.2 (2 ^ r.2 - 1)).isNone

/-- An access of a copy command, or a line kept for the instruction that reads it. -/
def Acc.engine (a : Acc) : Bool := a.heldLine || a.op.isCopy

/-- What the pusher issued before the push is performed (R172, R306): its outstanding accesses, and its cask commands on its own
core, on another one or on the way there. -/
def State.pushSeen (s : State) (ep : Nat) (n : Fin 11) (age : Nat) : Bool :=
  let mine (k : Cask) : Bool := k.ep == ep && k.ctx == n && decide (k.age < age)
  !((s.core ep).accs.any fun a => a.ctx == n && decide (a.age < age) && !a.engine) &&
    !(s.cores.any fun k => k.2.casks.any mine) &&
    !(s.net.any fun (m : Msg) => match m with
      | .cask _ k => mine k
      | _ => false)

/-- A local command of a gang's CNLD at another member than the leader, whose stripes the leader writes. -/
def MCmd.follows (q : MCmd) (ep : Nat) : Bool := q.tag != 0 && q.lead != ep

/-- The CNLD of a gang may fill the canopies of a list of cores: each of their engines has come to it (R171, R339). -/
def State.gangReached (s : State) (tag : Nat) (eps : List Nat) : Bool :=
  eps.all fun e => (s.core e).mrun.isNone && (match (s.core e).mq with | k :: _ => k.tag == tag | [] => false)

/-- The team of a core is stopped for a pre-emption: its engine starts no further command (R269). -/
def Core.engineStopped (c : Core) : Bool := match c.team with | some t => t.stop | none => false

/-- The engine may start a command: its pusher has a place for the completion, its inputs are there, and no thermal trip has stopped the
device (R521). -/
def State.mayStart (s : State) (ep : Nat) (q : MCmd) : Bool :=
  let c := s.core ep
  let x := s.ctxAt q.ep q.ctx
  let same (k : MCmd) : Bool := k.tag == q.tag
  !c.engineStopped && !s.pkg.ttrip &&
    (q.sent || q.orphan || decide (x.done.length + x.sentOut < 8)) &&
    (q.sent || s.pushSeen ep q.ctx q.age) &&
    (if q.follows ep then
      let l := s.core q.lead
      !(l.mq.any same) && !(match l.mrun with | some d => same d.cmd && d.copying.isSome | none => false)
    else
      (q.tag == 0 || s.gangReached q.tag (c.teamCores ep)) &&
        ((q.check c (s.win ep)).isSome || c.allFull q.awaited))

/-- The reason that a remote command is rejected for at its start (R264); `none`: it executes. DESIGN CHOICE (log 119): the
cause 19 fields of R259 are reserved combinations (R270), so a CNLD with one of them has reason 4. -/
def MCmd.refused (q : MCmd) (c : Core) (win : Word) : Option (BitVec 4) :=
  if !q.sent then none
  else if !c.mx then some 3
  else
    let copying := match q.instr with
      | .mcvtst _ _ _ => (cvtOf q.b).dst
      | .cnld _ _ => fld q.b 32 1 = (1 : BitVec 1)
      | _ => false
    match q.check c win with
    | some (cause, _) => if cause = 19 ∨ cause = 2 then some 4 else if copying then some 4 else some 5
    | none => if copying then some 4 else none

/-- A finished command without flags. -/
def MCmd.plain (q : MCmd) : MDone := ⟨q, 0, 0, 0, 0, none⟩

/-- The copy path of a command (R258, R259). -/
def MCmd.copy (q : MCmd) (kind : Nat) (dst src : Word) (len : Nat) (staged : SMap (BitVec 1024)) : Copy where
  kind := kind
  dst := dst
  src := src
  len := len
  at_ := 0
  ctx := q.ctx
  pc := q.pc
  rd := 0
  seq := q.seq
  staged := staged
  failed := false
  age := q.age
  orphan := q.orphan

/-- Stripes written into the canopy of each core of a list (R339). -/
def State.putCanopy (s : State) (eps : List Nat) (o n v : Nat) : State :=
  eps.foldl (fun (s : State) e => s.modCore e fun c => c.putCanopy o n v) s

/-- The cores whose canopies a CNLD fills. -/
def State.cnldCores (s : State) (ep : Nat) (q : MCmd) : List Nat :=
  if q.tag ≠ 0 then (s.core ep).teamCores ep else [ep]

/-- CNLD at its start (R259). -/
def State.runCnld (s : State) (ep : Nat) (q : MCmd) : State × MDone :=
  let n := 512 * (fld q.b 16 16).toNat
  let dst := 512 * (fld q.b 0 16).toNat
  if q.follows ep ∨ n = 0 then (s, q.plain)
  else if fld q.b 32 1 = (1 : BitVec 1) then
    (s, { q.plain with copying := some (q.copy 5 (w64 dst) q.a n []) })
  else (s.putCanopy (s.cnldCores ep q) dst n (readRange (s.core ep).pad q.a.toNat n), q.plain)

/-- MCVTST at its start (R255 to R258). -/
def State.runCvt (s : State) (ep : Nat) (q : MCmd) (z : Nat) : State × MDone :=
  let d := cvtOf q.b
  let c := s.core ep
  match (if d.dst then none else c.fullUnder (d.ranges q.a.toNat)) with
  | some w => (s, { q.plain with status := 2, detail := BitVec.ofNat 24 w })
  | none =>
    let rows := c.cvtRows z d q.seed (8 * q.a.toNat)
    let fl := rows.foldl (fun (f : Flags) r => f ||| r.2.2) 0
    let c1 := if d.aen then c.offer d.aidx d.sint (c.cvtVals z d) else c
    let runs := cvtRuns d rows
    if d.dst then
      (s.setCore ep c1, { q.plain with flags := fl, copying := some (q.copy 4 q.a 0 0 (stageRuns runs)) })
    else (s.setCore ep (c1.padRuns q.a.toNat runs), { q.plain with flags := fl })

/-- A command is executed (R248, R253). -/
def State.runCmd (s : State) (ep : Nat) (q : MCmd) : State × MDone :=
  let c := s.core ep
  match mulOf q.instr with
  | some (m, zd, acc) =>
    let r := c.multiply m zd.toNat acc q.a q.b q.sigma
    (s.setCore ep r.1, { q.plain with flags := r.2 })
  | none =>
    let i := (fld q.a 0 6).toNat
    let lo := 128 * (fld q.a 6 2).toNat
    match q.instr with
    | .mzero zd => (s.setCore ep { c with z := c.z.filter fun e => e.1 / 32768 ≠ zd.toNat }, q.plain)
    | .mrd rd _ zs =>
      let v := vOf 32 ((c.zRow zs.toNat i lo 128).map BitVec.toNat)
      let s := if q.orphan then s else match (s.ctxAt ep q.ctx).bound rd with
        | none => s.modCtx ep q.ctx fun x => x.wv rd v
        | some b =>
          match c.genBad (s.win ep) b (BitVec.allOnes 512) with
          | some (cause, tval) => s.defer ep q.ctx q.age cause q.pc tval .none
          | none => s.genPut ep q.ctx rd b v (BitVec.allOnes 512)
      (s, q.plain)
    | .mwr zd _ _ => (s.setCore ep (c.putRow zd.toNat i lo ((elemsOf 32 q.row.toNat 128).map (BitVec.ofNat 32))), q.plain)
    | .mcvtst zs _ _ => s.runCvt ep q zs.toNat
    | .cnld _ _ => s.runCnld ep q
    | _ => (s, q.plain)

/-- The canopy bytes that a command reads: offset and length (R244). -/
def MCmd.canopyRead (q : MCmd) : Option (Nat × Nat) :=
  (mulOf q.instr).bind fun m => (pairFmt m.1.sparse m.1.pair).map fun f =>
    let n := xnN q.b
    let kb := if m.1.sparse then 128 else 64
    (512 * (fld q.b 16 16).toNat, bData f.2 kb n m.1.tb + n * scalesPer f.2 kb)

/-- Words with uncorrectable errors that a command reads are reported to its pusher (R523): of the scratchpad, and of the canopy, whose
words have no global address and no OKIND of their own (log 124). -/
def State.tellOperands (s : State) (ep : Nat) (q : MCmd) : State :=
  if q.orphan then s
  else
    let s := s.tellPad q.ep q.ctx ep 0 q.awaited
    match q.canopyRead.bind fun r => (s.core ep).canErr.find? fun w => overlap w 4 r.1 r.2 with
    | some _ => (s.fresh).post (.report q.ep q.ctx (mkRecord 36 q.ctx 0 0 s.dev 4 ep (Config.freeSyndrome s.free) 0 true))
    | none => s

/-- ENGINE_COMMAND_START (R248, R249): the oldest queued command is executed, or rejected. DESIGN CHOICE (log 21): it reads and
writes all its operands in this one step, so of the mixed outcomes that R268 allows only the whole ones occur. -/
def execEngineCommandStart (ep : Nat) (s : State) : Res :=
  let c := s.core ep
  match c.mrun, c.mq with
  | none, q :: rest =>
    if !s.mayStart ep q then .next s
    else
      let s := s.setCore ep { c with mq := rest }
      let r := match q.refused c (s.win ep) with
        | some reason => (s, { q.plain with status := 1, reason := reason })
        | none => (s.tellOperands ep q).runCmd ep q
      .next (r.1.modCore ep fun c => { c with mrun := some r.2 })
  | _, _ => .next s

/-- CMD of a token (R250). -/
def cmdCode : Instr → BitVec 7
  | .mma .. => 0x10
  | .mmas .. => 0x11
  | .mcvtst .. => 1
  | .cnld .. => 2
  | _ => 0

/-- The token of a finished command (R250). -/
def MDone.token (d : MDone) (ep : Nat) : Word :=
  let detail : BitVec 24 :=
    if d.status = 1 then BitVec.ofNat 11 ep ++ 0#9 ++ d.reason
    else if d.status = 2 then 0#2 ++ fld d.detail 0 22 else 0
  detail ++ d.cmd.seq ++ 0#4 ++ d.status ++ 0#3 ++ d.flags ++ bit d.cmd.sent ++ cmdCode d.cmd.instr

/-- A completion reaches its pusher, if that has not retired. -/
def State.giveDone (s : State) (ep : Nat) (d : MDone) : State :=
    let remote := d.cmd.sent
    if (!remote ∧ !completes d.cmd.instr) ∨ d.cmd.orphan then s
    else s.modCtx d.cmd.ep d.cmd.ctx fun x => { x with
      done := x.done ++ [⟨d.token ep, d.flags, ep⟩]
      pushed := x.pushed - 1
      sentOut := if remote then x.sentOut - 1 else x.sentOut }

/-- ENGINE_COMMAND_COMPLETE (R249, R250): after the last portion of its copy path. -/
def execEngineCommandComplete (ep : Nat) (s : State) : Res :=
  match (s.core ep).mrun with
  | some d =>
    if d.copying.isSome then .next s
    else .next ((s.modCore ep fun c => { c with mrun := none }).giveDone ep d)
  | none => .next s

/-! ## MPOP (R251) -/

/-- SEQ of the oldest command that is pushed and not popped. -/
def Ctx.oldestSeq (x : Ctx) : BitVec 16 := x.nPush - BitVec.ofNat 16 (x.pushed + x.done.length)

/-- The oldest completion leaves, and its flags accrue. -/
def State.popDone (s : State) (ep : Nat) (n : Fin 11) : State :=
  let x := s.ctxAt ep n
  match x.done.find? fun c => fld c.token 24 16 = x.oldestSeq with
  | none => s
  | some c => (s.modCtx ep n fun x => { x with done := x.done.filter fun d => d ≠ c }).vflagsAt ep n c.flags

/-- MPOP, which needs MX = 1 (R239): a completion that traps is removed all the same. The acquire waits for the flush of a migrated
team (R322). -/
def execMpop (rd : Reg) (s : State) : Res :=
  let x := s.ctx
  if !s.me.mx then trap 24 0 s
  else if x.pushed + x.done.length = 0 then wrX rd 0x00000000000F0000 s
  else
    match x.done.find? fun c => fld c.token 24 16 = x.oldestSeq with
    | none => stall s
    | some c =>
      if s.flushPending s.cur.1 then stall s else
      let s := s.popDone s.cur.1 s.cur.2
      let st : BitVec 4 := fld c.token 16 4
      if st = 1 then trap 23 c.token s
      else if st = 2 then trap 25 (winAddr s.dev c.ep (fld c.token 40 22).toNat) s
      else wrX rd c.token s

/-! ## MSEND (R260 to R264) -/

/-- Word 0 of a command block names a command that MSEND carries, whatever its register fields (R261): those that MZERO and CNLD
require to be zero as instructions are ignored. The flag marks MMAS with transA. -/
def sendInstr (w : BitVec 32) : Option (Instr × Bool) :=
  let pick (w : BitVec 32) (bad : Bool) : Option (Instr × Bool) :=
    match decode w with
    | .ok (.mma a b c d e f g h) => some (.mma a b c d e f g h, bad)
    | .ok (.mmas a b c d e f g) => some (.mmas a b c d e f g, bad)
    | .ok (.mzero a) => some (.mzero a, bad)
    | .ok (.mcvtst a b c) => some (.mcvtst a b c, bad)
    | .ok (.cnld a b) => some (.cnld a b, bad)
    | _ =>
      match decode (w &&& 0xFE007FFF), decode (w &&& 0xFFFFF07F) with
      | .ok (.mzero a), _ => some (.mzero a, bad)
      | _, .ok (.cnld a b) => some (.cnld a b, bad)
      | _, _ => none
  if w &&& 0x727F = 0x425B then pick (w &&& 0xFFFFFDFF) true else pick w false

/-- A field of a command block that is to be zero is not (R260). -/
def blockBad (ws : List Word) : Bool :=
  let w (k : Nat) : Word := ws.getD k 0
  fld (w 0) 32 32 != (0 : BitVec 32) || fld (w 3) 32 32 != (0 : BitVec 32) || fld (w 4) 0 32 != (0 : BitVec 32) ||
    w 5 != 0 || w 6 != 0 || w 7 != 0

/-- Completions of the context at hand that are there, or whose places are taken: by a command sent, or by the one that the engine
executes (R171). -/
def State.donePlaces (s : State) : Nat :=
  s.ctx.done.length + s.ctx.sentOut +
    (match s.me.mrun with
     | some d => if d.cmd.by_ s.cur.1 s.cur.2 && !d.cmd.sent && completes d.cmd.instr then 1 else 0
     | none => 0)

/-- MSEND, which needs MX = 1 (R239). -/
def execMsend (rs1 rs2 : Reg) (s : State) : Res :=
  let t := s.x rs1
  let o := s.x rs2
  if !s.me.mx then trap 24 0 s
  else if aDev t ≠ s.dev ∨ !aWin t ∨ !isCompute (aEp t) ∨ !s.coreOn (aEp t) ∨ aOff t ≠ 0 then trap 24 t s
  else if o.toNat % 64 ≠ 0 then trap 4 (s.win s.cur.1 + o) s
  else if o.toNat + 64 > s.me.padSize then trap 24 (s.win s.cur.1 + o) s
  else if s.rangeBusy s.cur.1 [(s.padAddr o.toNat, 0, 64)] then stall s
  else
    match s.listWords o.toNat 8 with
    | .error r => r
    | .ok ws =>
      let w0 := ws.headD 0
      match sendInstr (fld w0 0 32) with
      | none => trap 2 w0 s
      | some (i, bad) =>
        if blockBad ws then trap 2 w0 s
        else if s.donePlaces ≥ 8 then stall s
        else
          let r := s.relStep
          if !r.2 then stallIn r.1
          else
            let s := r.1
            let q := { s.mcmd i (ws.getD 1 0) (ws.getD 2 0) (fld (ws.getD 3 0) 0 32) 0 with bad := bad, sent := true }
            let s := s.post (.msend (aEp t) q (fld (ws.getD 4 0) 32 32))
            listDone o 7 s (retire (s.setCtx { s.ctx with
              nPush := s.ctx.nPush + 1, pushed := s.ctx.pushed + 1, sentOut := s.ctx.sentOut + 1 }))

/-- The bit of kmcap.ALLOW that a command needs (R262). -/
def allowBit : Instr → Nat
  | .mzero _ => 1
  | .mcvtst .. => 2
  | .cnld .. => 3
  | _ => 0

/-- MSEND_ARRIVAL (R263, R264): the commands of one core reach a target in the order of their sending; the target's access table,
room in its queue, and its capability. -/
def execMsendArrival (k : Nat) (s : State) : Res :=
  match s.net[k]? with
  | some (.msend to_ q key) =>
    let before : Bool := (s.net.take k).any fun m => match m with
      | .msend t p _ => t == to_ && p.ep == q.ep
      | _ => false
    if before then .next s
    else if !s.admitted (s.master q.ep) kCore to_ rCommand then
      .next (if (s.core q.ep).frozen then s else s.freeze q.ep q.ctx (winAddr s.dev to_ 0) 6 [])
    else if (s.core to_).engineUse ≥ 2 then .next s
    else
      let s := s.take k
      let cap := (s.core to_).kmcap
      if !cap.getLsbD 4 ∨ fld cap 32 32 ≠ key then .next (s.giveDone to_ { q.plain with status := 1, reason := 1 })
      else if !cap.getLsbD (allowBit q.instr) then .next (s.giveDone to_ { q.plain with status := 1, reason := 2 })
      else .next (s.modCore to_ fun c => { c with mq := c.mq ++ [q] })
  | _ => .next s

/-! ## Amax registers (R265, R266) -/

/-- An earlier command of the context has candidates still to offer (R266). -/
def State.offersPending (s : State) : Bool :=
  let ep := s.cur.1
  let n := s.cur.2
  let mcv (q : MCmd) : Bool := q.by_ ep n && (match q.instr with | .mcvtst .. => true | _ => false)
  let ck (k : Cask) : Bool := k.by_ ep n && (k.kind == 5 || k.kind == 6)
  (s.cores.any fun c => c.2.mq.any mcv || c.2.casks.any ck) ||
    s.net.any fun m => match m with
      | .msend _ q _ => mcv q
      | .cask _ k => ck k
      | _ => false

/-- The index of an amax instruction: checked, and then the wait for earlier offers. -/
def withAmax (r : Reg) (s : State) (go : Nat → Res) : Res :=
  let i := s.x r
  if i.toNat ≥ 16 then trap 2 i s
  else if s.offersPending then stall s
  else go i.toNat

/-- AMXRD. -/
def execAmxrd (rd rs1 : Reg) (s : State) : Res :=
  withAmax rs1 s fun i => wrX rd ((mgetD s.me.amax i 0).zeroExtend 64) s

/-- AMXCLR. -/
def execAmxclr (rs1 : Reg) (s : State) : Res :=
  withAmax rs1 s fun i => retire (s.setMe { s.me with amax := mdel s.me.amax i })

/-- AMXJOIN. -/
def execAmxjoin (rs1 rs2 : Reg) (s : State) : Res :=
  withAmax rs2 s fun i =>
    let v := mgetD s.me.amax i 0
    let b : BitVec 32 := if v.getLsbD 32 then 0x7FC00000 else fld v 0 32
    s.element .amxjoin (s.x rs1) (b.zeroExtend 4096) .none

end Sys2Proof.Machine
end

