-- ==== Sys2Proof/Machine/Copy.lean ====
section
/-! DEFINITION.
The copy engine (R291 to R299): CP, CPX, CPJ and CPFILL, their portions, and the copy paths of MCVTST and CNLD (R258, R259). -/

namespace Sys2Proof.Machine

open Sys2Proof

/-! ## Issue (R292, R294, R295) -/

/-- The token of a copy (R294). -/
def copyToken (seq : BitVec 16) (kind : Nat) : Word := 0#24 ++ seq ++ 0#17 ++ BitVec.ofNat 7 (0x20 + kind)

/-- A copy instruction of a kind: 0 CP, 1 CPX, 2 CPJ, 3 CPFILL; a push waits as the matrix engine's do (R172, R305). DESIGN CHOICE
(log 122): a copy of length 0 counts as a push for SEQ. -/
def copyOp (kind : Nat) (rd rs1 rs2 rs3 : Reg) (s : State) : Res :=
  let dst := s.x rs1
  let src := s.x rs2
  let len := s.x rs3
  let seq := s.ctx.nCopy
  if fld len 32 32 ≠ (0 : BitVec 32) then trap 2 len s
  else if dst.toNat % 4 ≠ 0 then trap 6 dst s
  else if src.toNat % 4 ≠ 0 then trap 4 src s
  else if len.toNat % 4 ≠ 0 then trap 6 len s
  else if len = 0 then retire ((s.setCtx { s.ctx with nCopy := seq + 1 }).setX rd (copyToken seq kind))
  else if s.me.cq.length ≥ 2 ∨ s.me.held.length + 2 > Config.nRanges ∨ s.pushHeld then stall s
  else
    let s := s.cbDrainCtx s.cur.1 s.cur.2
    let age := s.me.nextAge
    let q : Copy := ⟨kind, dst, src, len.toNat, 0, s.cur.2, s.pc, rd, seq, [], false, age, false⟩
    let s := s.setMe { s.me with
      cq := s.me.cq ++ [q], nextAge := age + 1
      held := s.me.held ++ [⟨dst, len.toNat, age⟩, ⟨src, len.toNat, age⟩] }
    retire (s.setCtx { s.ctx with nCopy := seq + 1, busyX := if rd = 0 then s.ctx.busyX else rd :: s.ctx.busyX })

/-- CP. -/
def execCp (rd rs1 rs2 rs3 : Reg) (s : State) : Res := copyOp 0 rd rs1 rs2 rs3 s

/-- CPX. -/
def execCpx (rd rs1 rs2 rs3 : Reg) (s : State) : Res := copyOp 1 rd rs1 rs2 rs3 s

/-- CPJ. -/
def execCpj (rd rs1 rs2 rs3 : Reg) (s : State) : Res := copyOp 2 rd rs1 rs2 rs3 s

/-- CPFILL. -/
def execCpfill (rd rs1 rs2 rs3 : Reg) (s : State) : Res := copyOp 3 rd rs1 rs2 rs3 s

/-! ## Portions (R293) -/

/-- What a step of a portion gives. -/
inductive Part where
  /-- nothing can be done yet -/
  | wait (s : State)
  /-- the source bytes, as a number -/
  | got (s : State) (v : Nat)
  /-- the portion is performed -/
  | done (s : State)
  /-- a portion of it is outstanding: a ticket, a freeze or a request to another device -/
  | out (s : State)
  | fail (s : State) (cause : BitVec 6) (tval : Word)

/-- The access record of a portion: the destination's side or the source's. -/
def State.copyAcc (s : State) (ep : Nat) (q : Copy) (dstSide : Bool) (a : Word) (n : Nat) : Acc where
  age := (s.core ep).nextAge
  grp := q.age
  ctx := q.ctx
  op := .copy dstSide
  pc := q.pc
  va := a
  len := n
  dst := if q.kind < 4 ∧ q.rd ≠ 0 then .tok q.rd else .none
  doff := 0
  src := if q.kind = 4 then 0 else if dstSide then q.src + w64 q.at_ else a
  chunks := [(a, 0, n)]
  mask := maskRun 512 0 n
  data := 0
  stage := .remote

/-- A portion that misses takes a ticket when the table has room. -/
def State.copyMiss (s : State) (ep : Nat) (a : Acc) (k : BitVec 2) : Part :=
  if (s.core ep).ticketRoom 1 then .out (s.addMissed ep a k) else .wait s

/-- A portion that an access table denies takes an entry when the table has room, and freezes its master (R177, R545). -/
def State.copyDenied (s : State) (ep : Nat) (a : Acc) : Part :=
  if (s.core ep).ticketRoom 1 then .out (s.addDenied ep a 6) else .wait s

/-- A read of another device by the copy engine: at most 64 are outstanding. -/
def State.copyRemote (s : State) (ep : Nat) (a : Acc) (p : Packet) (read : Bool) : Part :=
  let mine := (s.core ep).accs.filter fun x => x.stage = .remote && (match x.op with | .copy d => !d | _ => false)
  if !(s.core ep).ticketRoom 1 ∨ (read ∧ mine.length ≥ 64) then .wait s
  else
    match s.request ep a.ctx p with
    | some s => .out (s.addAcc ep a)
    | none => .out (s.addDenied ep a 1)

/-- Source bytes from a window of this device, after the access table and then the class rules (R293): an engine's read of an empty
word waits (R274). -/
def State.copyWinRead (s : State) (ep : Nat) (q : Copy) (a : Word) (n : Nat) : Part :=
  let tgt := aEp a
  if tgt ≤ 1036 ∧ !s.admitted (s.master ep) (winKind tgt) tgt rRead then s.copyDenied ep (s.copyAcc ep q false a n)
  else if q.kind = 1 then .fail s 17 a
  else
    match s.winRead tgt (s.sysLevel ep q.ctx) (aOff a) n (2 ^ n - 1) with
    | .ok v => .got (s.tellPad ep q.ctx tgt 0 [(aOff a, n)]) v
    | .empty _ => .wait s
    | .bad o => .fail s 24 (winAddr s.dev tgt o)

/-- Source bytes of a LAT line as an exact read gives them, after the pusher's own earlier joins of the line. -/
def State.copyLatRead (s : State) (ep : Nat) (q : Copy) (t : Tlb) (a : Word) (n : Nat) : Part :=
  let line := t.pa a / 128
  let who := s.party ep q.ctx
  let mine (o : PressOp) : Bool :=
    o.line == line && (o.who == who || (match o.kind with | .join _ _ _ ps _ => ps.contains who | _ => false))
  if q.kind = 1 ∧ a.toNat % wBytes t.width ≠ 0 then .fail s 4 a
  else if (s.pressQ.any mine) || (s.routers.any fun e => mine e.op) then .wait s
  else
    let r := s.pressLine (s.pressOp ep q.ctx t line a .cork)
    let v : BitVec 128 := maskRun 128 (a.toNat % 128) n
    if t.cork ∨ v &&& ~~~(readMask (s.line line) t.typ t.width r.2) = 0 then
      .got r.1 (lineVal ((s.line line).shown t.typ t.width r.2) (a.toNat % 128) n)
    else .fail s 16 a

/-- The source bytes of a portion. -/
def State.copyRead (s : State) (ep : Nat) (q : Copy) (a : Word) (n : Nat) : Part :=
  let acc := s.copyAcc ep q false a n
  -- the stripes of CNLD: a LAT page as CPX reads it, any other page as CP (R259)
  let anyCls := decide (q.kind = 3 ∨ q.kind = 5)
  if aDev a ≠ s.dev then
    s.copyRemote ep acc { blankPacket with
      what := 0x01, dst := aDev a, tag := acc.age, addr := a, len := n
      words := chunkWords [(a, 0, n)], mask := maskRun 512 0 n
      -- 7: exact, in elements of the page; 5: an OWN or HOST page or a window; 2: any page
      kind := if q.kind = 1 then 7 else if q.kind = 0 ∨ q.kind = 2 then 5 else 2 } true
  else if aWin a then s.copyWinRead ep q a n
  else
    let r := s.translate ep .read a
    match r.2 with
    | .miss k => r.1.copyMiss ep acc k
    | .denied => r.1.copyDenied ep acc
    | .ok t pa =>
      let s := r.1
      let line := pa / 128
      if t.cls = .lat then
        if q.kind = 1 ∨ anyCls then s.copyLatRead ep q t a n else .fail s 17 a
      else if q.kind = 1 then .fail s 17 a
      else
        match (if t.cls = .host then s.heldSectors line (maskRun 128 (pa % 128) n) false else []) with
        | [] =>
          let p := s.readPlain ep q.ctx t.cls line a (maskRun 128 (pa % 128) n)
          .got p.1 (lineVal p.2 (pa % 128) n)
        | secs => .wait (s.sendSnoops ep q.ctx secs)

/-- Destination bytes in a window of this device (R275, R293). -/
def State.copyWinWrite (s : State) (ep : Nat) (q : Copy) (a : Word) (n v : Nat) : Part :=
  let tgt := aEp a
  let sys := s.sysLevel ep q.ctx
  let joins := decide (q.kind = 2 ∨ q.kind = 4)
  if tgt ≤ 1036 ∧ !s.admitted (s.master ep) (winKind tgt) tgt (if joins then rJoin else rWrite) then
    s.copyDenied ep (s.copyAcc ep q true a n)
  else if joins then .fail s 17 a
  else
    let plain := if q.kind = 3 then
        (if isCompute tgt ∧ s.coreOn tgt ∧ aOff a + n ≤ (s.core tgt).padSize then
          (maskWords (aOff a) n (2 ^ n - 1)).find? fun w => !(s.core tgt).isSync w
        else some (aOff a)) else none
    match plain with
    | some w => .fail s 24 (winAddr s.dev tgt w)
    | none =>
      match s.winPut tgt sys (is960 ep) (aOff a) n v (2 ^ n - 1) with
      | .ok s => .done s
      | .bad w => .fail s 24 (winAddr s.dev tgt w)
      | .full w => .fail s 25 (winAddr s.dev tgt w)
      | .busy => .wait s

/-- Destination bytes joined to a LAT line, without the combining buffer (R293). -/
def State.copyJoin (s : State) (ep : Nat) (q : Copy) (t : Tlb) (a : Word) (n v : Nat) : Part :=
  let line := t.pa a / 128
  let o := a.toNat % 128
  if t.typ = 12 ∨ t.typ = 13 ∨ (q.kind = 4 ∧ t.typ ≠ 10) then .fail s 17 a
  else if t.typ = 10 ∧ (o ≠ 0 ∨ n ≠ 128) then .fail s 6 a
  else if t.typ ≠ 10 ∧ (o % wBytes t.width ≠ 0 ∨ n % wBytes t.width ≠ 0) then .fail s 6 a
  else
    let whole := if t.typ = 10 then BitVec.allOnes 128 else wholeElems t.width (maskRun 128 o n)
    let s := s.toPress (s.pressOp ep q.ctx t line a
      (.join t.width whole (BitVec.ofNat 1024 (v * 2 ^ (8 * o))) [s.party ep q.ctx] false))
    .done (if t.typ = 9 ∨ t.typ = 10 then s.signLine ep q.ctx a else s)

/-- An OWN line written by the copy engine: the bytes are dirty in this core alone (R301). -/
def State.copyOwn (s : State) (ep : Nat) (n : Fin 11) (line : Nat) (a : Word) (valid : BitVec 128) (data : BitVec 1024) : State :=
  let o := (s.core ep).owner
  let s := s.cbDrain ep fun e => e.line = line && !e.lat
  let s := s.ownErase ep o line valid
  (s.modCore ep fun c => c.l1Put line (lineVa a) o valid data).signLine ep n a

/-- The destination bytes of a portion. -/
def State.copyWrite (s : State) (ep : Nat) (q : Copy) (a : Word) (n v : Nat) : Part :=
  let acc := s.copyAcc ep q true a n
  let o := a.toNat % 128
  let valid : BitVec 128 := maskRun 128 o n
  let data : BitVec 1024 := BitVec.ofNat 1024 (v * 2 ^ (8 * o))
  if aDev a ≠ s.dev then
    s.copyRemote ep acc { blankPacket with
      what := if q.kind = 3 ∨ (aWin a ∧ q.kind < 2) then 0x07 else 0x02
      dst := aDev a, tag := acc.age, addr := a, len := n
      -- 7: a plain copy; 8: a joining copy; 9: CPFILL; 10: the rows of MCVTST
      kind := if q.kind = 3 then 9 else if q.kind = 2 then 8 else if q.kind = 4 then 10 else 7
      words := chunkWords [(a, 0, n)], data := BitVec.ofNat 4096 v, mask := maskRun 512 0 n } false
  else if aWin a then s.copyWinWrite ep q a n v
  else
    -- CPJ needs join whatever the class of the page (R542)
    let r := s.translate ep (if q.kind = 2 then .join else .write) a
    match r.2 with
    | .miss k => r.1.copyMiss ep acc k
    | .denied => r.1.copyDenied ep acc
    | .ok t pa =>
      let s := r.1
      let line := pa / 128
      let joins := decide (q.kind = 2 ∨ q.kind = 4)
      if q.kind = 3 then .fail s 17 a else
      match t.cls with
      | .lat => if joins then s.copyJoin ep q t a n v else .fail s 17 a
      | .own => if joins then .fail s 17 a else .done (s.copyOwn ep q.ctx line a valid data)
      | .host =>
        if joins then .fail s 17 a
        else
          match s.heldSectors line valid true with
          | [] => .done (s.storeHost ep q.ctx line a valid data)
          | secs => .wait (s.sendSnoops ep q.ctx secs)

/-- The portion at hand is performed as far as it can be; the source's bytes may have returned from another device. -/
def State.copyStep (s : State) (ep : Nat) (q : Copy) (back : Option Nat) : Part :=
  let n := q.portion
  match (match q.kind, q.stagedFrom with
    | 4, some l => Part.got s l.2.toNat
    | _, _ => match back with
      | some v => Part.got s v
      | none => s.copyRead ep q (q.src + w64 q.at_) n) with
  | .got s v =>
    if q.kind = 5 then
      let d := match (s.core ep).mrun with | some d => s.cnldCores ep d.cmd | none => [ep]
      .done (s.putCanopy d (q.dst.toNat + q.at_) n v)
    else
      let at_ := match q.kind, q.stagedFrom with | 4, some l => 128 * l.1 | _, _ => q.at_
      s.copyWrite ep q (q.dst + w64 at_) n v
  | r => r

/-- The portion of a copy that is outstanding. -/
def State.copyOut (s : State) (ep : Nat) (q : Copy) : Option Acc :=
  (s.core ep).accs.find? fun a => a.grp = q.age && (match a.op with | .copy _ => true | _ => false)

/-- A copy has to wait for earlier work: the pusher's stores, and earlier commands with overlapping ranges (R172, R287). -/
def State.copyHeld (s : State) (ep : Nat) (q : Copy) : Bool :=
  !s.pushSeen ep q.ctx q.age ||
    (s.core ep).held.any fun h => decide (h.age < q.age) &&
      (overlap h.base.toNat h.len q.dst.toNat q.len || overlap h.base.toNat h.len q.src.toNat q.len)

/-- A portion's trap is deferred, unless its context has retired. -/
def State.copyTrap (s : State) (ep : Nat) (q : Copy) (cause : BitVec 6) (tval : Word) : State :=
  if q.orphan then s else s.defer ep q.ctx q.age cause q.pc tval (s.copyAcc ep q false 0 0).dst

/-- A source portion that found an empty word of another device's scratchpad: the engine waits, and asks again (R274). -/
def Acc.emptySource (a : Acc) : Bool :=
  match a.op, a.stage with
  | .copy false, .failed c _ => c == 16 && aWin a.va
  | _, _ => false

/-- One portion of a copy; `put` stores the copy back. A failing portion gives a deferred trap, and the copy performs nothing
more (log 19). None where nothing can be performed. -/
def State.copyTurn (s : State) (ep : Nat) (q : Copy) (put : State → Copy → State) : Option State :=
  if q.over then none
  else
    let out := s.copyOut ep q
    match out with
    | some a =>
      (match a.stage with
       | .back v =>
         let s1 := s.dropAcc ep a.age
         (match a.op with
          | .copy true => some (put s1 q.next)
          | _ =>
            match s1.copyStep ep q (some v.toNat) with
            | .done t => some (put t q.next)
            | .out t => some t
            | .fail t c v => some (put (t.copyTrap ep q c v) { q with failed := true })
            -- the source's bytes stay where they are while the destination waits, for the host's sectors as for a word (R515)
            | .wait t =>
              let t := t.modCore ep fun k => { k with accs := (s.core ep).accs }
              if t = s then none else some t
            | .got .. => none)
       | .failed c _ =>
         let s1 := s.dropAcc ep a.age
         some (if a.emptySource then s1 else put (s1.copyTrap ep q c a.failVal) { q with failed := true })
       | _ => none)
    | none =>
      match s.copyStep ep q none with
      | .done t => some (put t q.next)
      | .out t => some t
      | .fail t c v => some (put (t.copyTrap ep q c v) { q with failed := true })
      | .wait t => if t = s then none else some t
      | .got .. => none

/-- The head of the copy engine's queue stored back. -/
def putHead (ep : Nat) (s : State) (q : Copy) : State :=
  s.modCore ep fun c => { c with cq := setAt c.cq 0 q }

/-- The copy path of the running matrix command stored back; at its end the command is finished. -/
def putPath (ep : Nat) (s : State) (q : Copy) : State :=
  s.modCore ep fun c => { c with mrun := c.mrun.map fun d => { d with copying := if q.over then none else some q } }

/-- COPY_PORTION (R293): of the copy at the head of the queue, else of the running matrix command's copy path. -/
def execCopyPortion (ep : Nat) (s : State) : Res :=
  let c := s.core ep
  let first := match c.cq with
    | q :: _ => if s.copyHeld ep q then none else s.copyTurn ep q (putHead ep)
    | [] => none
  match first with
  | some t => .next t
  | none =>
    match c.mrun with
    | some d =>
      (match d.copying with
       | some q => .next ((s.copyTurn ep q (putPath ep)).getD s)
       | none => .next s)
    | none => .next s

/-- COPY_COMPLETE (R294): the token is written, and the ranges are released. -/
def execCopyComplete (ep : Nat) (s : State) : Res :=
  let c := s.core ep
  match c.cq with
  | q :: rest =>
    if !q.over ∨ (s.copyOut ep q).isSome then .next s
    else
      let s := s.setCore ep { c with cq := rest, held := c.held.filter fun h => h.age ≠ q.age }
      .next (if q.orphan then s else s.modCtx ep q.ctx fun x =>
        let x := { x with busyX := x.busyX.filter fun r => r ≠ q.rd }
        if q.failed then x else x.wx q.rd (copyToken q.seq q.kind))
  | [] => .next s

end Sys2Proof.Machine
end

