-- ==== Sys2Proof/Machine/Cask.lean ====
section
/-! DEFINITION.
Cask commands (R272, R278 to R290): checks, queues, execution, and commands for the casks of another core. -/

namespace Sys2Proof.Machine

open Sys2Proof

/-! ## Ranges (R279, R280) -/

/-- B(L, w). -/
def arrayBytes (len w : Nat) : Nat := 4 * ((len * w + 31) / 32)

/-- Bytes of the scale plane of CK.CVT. -/
def Cask.plane (k : Cask) : Nat := if k.kind = 6 ∧ fmtBlock k.fmt ≠ 0 then k.len / fmtBlock k.fmt else 0

/-- The P range: its bytes. -/
def Cask.pBytes (k : Cask) : Nat :=
  match k.kind with
  | 2 => 4
  | 9 => 4
  | 8 => 4 * k.len
  | _ => arrayBytes k.len (fmtWidth k.fmt) + k.plane

/-- The Q ranges. -/
def Cask.qRanges (k : Cask) : List (Nat × Nat) :=
  let w := fmtWidth k.fmt
  let b := arrayBytes k.len w
  match k.kind with
  | 0 => [(k.q, b)]
  | 3 => [(k.q, b)]
  | 9 => [(k.q, b)]
  | 2 => [(k.q, b), (k.q + 64 * ((k.len * w + 511) / 512), b)]
  | 4 => [(k.q, 16)]
  | 6 => [(k.q, 4 * k.len)]
  | _ => []

/-- Every range of the command. -/
def Cask.ranges (k : Cask) : List (Nat × Nat) := (k.p, k.pBytes) :: k.qRanges

/-- Every range with a byte in it. DESIGN CHOICE (log 146): a range of no bytes is not recorded and takes none of the 32 places (R295). -/
def Cask.live (k : Cask) : List (Nat × Nat) := k.ranges.filter fun r => r.2 ≠ 0

/-- The ranges that are read, read-modify-write words included, and the write-only ranges (R280). -/
def Cask.reads (k : Cask) : List (Nat × Nat) :=
  match k.kind with
  | 2 => if k.acc then k.ranges else k.qRanges
  | 9 => if k.acc then k.ranges else k.qRanges
  | 4 => [(k.p, k.pBytes), (k.q, 12)]
  | 6 => k.qRanges
  | 7 => []
  | 8 => []
  | _ => k.ranges

def Cask.writes (k : Cask) : List (Nat × Nat) :=
  match k.kind with
  | 2 => if k.acc then [] else [(k.p, 4)]
  | 9 => if k.acc then [] else [(k.p, 4)]
  | 6 => [(k.p, k.pBytes)]
  | 7 => [(k.p, k.pBytes)]
  | _ => []

/-- Banks that a command reaches. -/
def Cask.banks (k : Cask) : List Nat :=
  (k.live.flatMap fun r => (List.range ((r.1 + r.2 - 1) / 65536 + 1 - r.1 / 65536)).map fun i => r.1 / 65536 + i).eraseDups

/-! ## Checks (R281) -/

/-- FMT is allowed for a command (R280). -/
def caskFmt (kind : Nat) (fmt : BitVec 4) : Bool :=
  if kind = 6 then fmt != 15 else if kind = 8 then fmt == 0 else decide (fmt.toNat ≤ 2)

/-- Steps 1 and 2: the instruction, the address word, the descriptor and the CSRs; the ktval of the failure. -/
def caskBad (kind : Nat) (rd : Reg) (pw d : Word) (rnd : BitVec 2) : Option Word :=
  let scalar := kind = 0 ∨ kind = 1 ∨ kind = 4 ∨ kind = 6 ∨ kind = 7
  let hasQ := ¬ (kind = 1 ∨ kind = 5 ∨ kind = 7 ∨ kind = 8)
  let fmt : BitVec 4 := fld d 16 4
  let len := (fld d 0 16).toNat
  if ¬ scalar ∧ rd ≠ 0 then some 0
  else if fld pw 54 9 ≠ (0 : BitVec 9) ∨ (fld pw 63 1 = (1 : BitVec 1) ∧ kind ≠ 2 ∧ kind ≠ 9) ∨
      (!aWin pw ∧ aEp pw ≠ 0) then some pw
  else if fld d 48 16 ≠ (0 : BitVec 16) ∨ !caskFmt kind fmt ∨ (¬ hasQ ∧ fld d 20 28 ≠ (0 : BitVec 28)) ∨
      (kind = 6 ∧ rnd = 3) ∨ (kind = 6 ∧ fmtBlock fmt ≠ 0 ∧ len % max 1 (fmtBlock fmt) ≠ 0) then some d
  else none

/-- Steps 3 to 7 against the carve of the executing core, whose window base is `win` (R281). -/
def Cask.check (k : Cask) (c : Core) (win d : Word) : Option (BitVec 6 × Word) :=
  match k.ranges.foldl (fun (o : Option Nat) r => lower o (outside r.1 r.2 c.padSize)) none with
  | some o => some (24, win + w64 o)
  | none =>
    let same := (k.kind = 0 ∨ k.kind = 3) ∧ k.p = k.q
    if k.p % 4 ≠ 0 then some (6, win + w64 k.p)
    else if k.q % 4 ≠ 0 ∨ (k.kind = 4 ∧ k.q % 16 ≠ 0) then some (4, win + w64 k.q)
    else if !same ∧ k.qRanges.any (fun r => overlap k.p k.pBytes r.1 r.2) then some (2, d)
    else if k.kind = 8 then
      ((maskWords k.p k.pBytes (2 ^ k.pBytes - 1)).find? fun w => !c.isSync w).map fun w => (24, win + w64 w)
    else none

/-- Banks in whose queues a command has a part: before it starts every bank that it reaches, then those that still write (R286). -/
def Cask.parts (k : Cask) : List Nat :=
  if k.started then ((k.out.map fun (r : Nat × Nat × Nat) => r.1 / 65536) ++ k.fill.map fun o => o / 65536).eraseDups else k.banks

/-- Every bank that a command reaches has a free entry of its four (R287). -/
def Core.caskRoom (c : Core) (k : Cask) : Bool :=
  k.banks.all fun b => decide ((c.casks.filter fun q => q.parts.contains b).length < 4)

/-- The descriptor word of a command, as ktval. -/
def Cask.desc (k : Cask) : Word := 0#16 ++ BitVec.ofNat 28 k.q ++ k.fmt ++ BitVec.ofNat 16 k.len

/-! ## Issue -/

/-- A cask command of a kind. -/
def caskOp (kind : Nat) (rd rs1 rs2 : Reg) (s : State) : Res :=
  let pw := s.x rs1
  let d := s.x rs2
  let csr := s.ctx.csr
  match caskBad kind rd pw d csr.rnd with
  | some v => trap 2 v s
  | none =>
    let ep := s.cur.1
    let k : Cask := {
      kind := kind, acc := fld pw 63 1 = 1, p := aOff pw, q := (fld d 20 28).toNat, fmt := fld d 16 4
      len := (fld d 0 16).toNat, a := s.f rd, rnd := csr.rnd, amaxEn := csr.amaxEn, amaxIdx := csr.amaxIdx
      seed := csr.seed, ep := ep, ctx := s.cur.2, pc := s.pc, age := s.me.nextAge }
    let hold (s : State) (tgt : Nat) : State := s.setMe { s.me with
      nextAge := s.me.nextAge + 1
      held := s.me.held ++ k.live.map fun r => ⟨winAddr s.dev tgt r.1, r.2, k.age⟩ }
    let room := decide (s.me.held.length + k.live.length ≤ Config.nRanges)
    if aWin pw then
      let tgt := aEp pw
      if !isCompute tgt ∨ !s.coreOn tgt ∨ tgt = ep then trap 24 pw s
      else if !room then stall s
      else
        let r := s.relStep
        if !r.2 then stallIn r.1 else retire ((hold r.1 tgt).post (.cask tgt k))
    else
      match k.check s.me (s.win ep) d with
      | some (cause, tval) => trap cause tval s
      | none =>
        if !room ∨ !s.me.caskRoom k ∨ s.acquiring ep s.cur.2 then stall s
        else
          let s := hold s ep
          retire (s.setMe { s.me with casks := s.me.casks ++ [k] })

/-- CK.AXPY. -/
def execCkAxpy (rd rs1 rs2 : Reg) (s : State) : Res := caskOp 0 rd rs1 rs2 s

/-- CK.SCAL. -/
def execCkScal (rd rs1 rs2 : Reg) (s : State) : Res := caskOp 1 rd rs1 rs2 s

/-- CK.DOT. -/
def execCkDot (rs1 rs2 : Reg) (s : State) : Res := caskOp 2 0 rs1 rs2 s

/-- CK.MAX. -/
def execCkMax (rs1 rs2 : Reg) (s : State) : Res := caskOp 3 0 rs1 rs2 s

/-- CK.SMX. -/
def execCkSmx (rd rs1 rs2 : Reg) (s : State) : Res := caskOp 4 rd rs1 rs2 s

/-- CK.AMAX. -/
def execCkAmax (rs1 rs2 : Reg) (s : State) : Res := caskOp 5 0 rs1 rs2 s

/-- CK.CVT. -/
def execCkCvt (rd rs1 rs2 : Reg) (s : State) : Res := caskOp 6 rd rs1 rs2 s

/-- CK.FILL. -/
def execCkFill (rd rs1 rs2 : Reg) (s : State) : Res := caskOp 7 rd rs1 rs2 s

/-- CK.EMPTY. -/
def execCkEmpty (rs1 rs2 : Reg) (s : State) : Res := caskOp 8 0 rs1 rs2 s

/-- CK.SUM. -/
def execCkSum (rs1 rs2 : Reg) (s : State) : Res := caskOp 9 0 rs1 rs2 s

/-! ## Execution (R282 to R286) -/

/-- The codes of an array of the command's format. -/
def Core.array (c : Core) (o len w : Nat) : List Nat := elemsOf w (readRange c.pad o (arrayBytes len w)) len

/-- An array written over the low bits of its words; the bits beyond it keep their values (R283). -/
def Core.putArray (c : Core) (o w : Nat) (codes : List Nat) : Core :=
  let b := arrayBytes codes.length w
  let n := codes.length * w
  let old := readRange c.pad o b
  { c with pad := writeRange c.pad o b (old / 2 ^ n * 2 ^ n + packElems w codes) }

def Core.word32 (c : Core) (o : Nat) : Nat := readNat c.pad o 4
def Core.putWord32 (c : Core) (o v : Nat) : Core := { c with pad := writeNat c.pad o 4 v }

/-- The first part that each uncorrectable word ends (R290): the part's bank, the word, and the first element that the part does not
perform. -/
abbrev Stops : Type := List (Nat × Nat × Nat)

/-- The bank of the part that performs an element: that of P, and for CK.DOT and CK.SUM that of Q (R286). -/
def Cask.partOf (k : Cask) (i : Nat) : Nat :=
  ((if k.kind = 2 ∨ k.kind = 9 then k.q else k.p) + i * fmtWidth k.fmt / 8) / 65536

/-- An element is performed: no part has ended before it or, in a block format, before an element of its block (R290). -/
def Cask.ok (k : Cask) (stops : Stops) (i : Nat) : Bool :=
  let b := max 1 (fmtBlock k.fmt)
  stops.isEmpty || (List.range b).all fun j =>
    let e := i / b * b + j
    !(stops.any fun t => t.1 == k.partOf e && decide (t.2.2 ≤ e))

/-- The new elements where they are performed, and the old ones elsewhere (R290). -/
def keepOk (ok : Nat → Bool) (new old : List Nat) : List Nat :=
  ((new.zip old).zipIdx).map fun p => if ok p.2 then p.1.1 else p.1.2

/-- One FP32 result of a function of values. -/
def f32of (f : Val × Flags) : Nat × Flags := encodeArith fp32 .rne f

/-- CK.SMX (R285): the chunk, the state words m, l and c, and flags; a signalling NaN raises NV in a chunk of one element too. -/
def smx (f : FltFmt) (a : Val) (xs : List Nat) (m l c : Nat) : List Nat × Nat × Nat × Nat × Flags :=
  match xs with
  | [] => ([], m, l, c, 0)
  | x :: rest =>
    let mc := rest.foldl (fun (r : Nat × Flags) y => let z := maxFlt f true r.1 y; (z.1, r.2 ||| z.2)) (x, 0)
    let wide := f32of (decodeFlt f mc.1, 0)
    let mn := maxFlt fp32 true m wide.1
    let f0 := (decodeFlt f x).sigNan ||| mc.2 ||| mn.2
    let v32 (b : Nat) : Val := decodeFlt fp32 b
    if mn.1 = 0xFF800000 then (xs.map fun _ => 0, m, l, 0x3F800000, f0)
    else
      let expOf (v : Val) : Nat × Flags :=
        let d := f32of (vAdd false v (v32 mn.1).negate)
        let p := f32of (vMul a (v32 d.1))
        let e := f32of (vExp2 (v32 p.1))
        (e.1, d.2 ||| p.2 ||| e.2)
      let ps := xs.map fun x => expOf (decodeFlt f x)
      let outs := ps.map fun p => encodeNum (.flt f) .rne (v32 p.1)
      let s := caskSum (ps.map fun p => v32 p.1)
      let cc := expOf (v32 m)
      let lc := f32of (vMul (v32 l) (v32 cc.1))
      let ln := add32 lc.1 s.1
      let fl := (ps.map (·.2) ++ outs.map (·.2)).foldl (fun (g : Flags) h => g ||| h) 0
      (outs.map (·.1), mn.1, ln.1, cc.1, f0 ||| fl ||| s.2 ||| cc.2 ||| lc.2 ||| ln.2)

/-- Flags of a list of results. -/
def orFlags (l : List (Nat × Flags)) : Flags := l.foldl (fun (f : Flags) p => f ||| p.2) 0

/-- The effect of a command on the core that executes it (R283 to R285), and its flags; `stops`: the parts that uncorrectable words
end. CK.SUM, CK.DOT and CK.SMX with such a word are `Cask.halted`. -/
def Cask.run (k : Cask) (c : Core) (stops : Stops) : Core × Flags :=
  let w := fmtWidth k.fmt
  let f : FltFmt := match fmtOf k.fmt with | some (.flt f) => f | _ => fp32
  let a := decodeFlt fp32 k.a.toNat
  let ps := c.array k.p k.len w
  let qs := c.array k.q k.len w
  let val (x : Nat) : Val := decodeFlt f x
  let ok := k.ok stops
  let elementwise (new : List (Nat × Flags)) : Core × Flags :=
    (c.putArray k.p w (if stops.isEmpty then new.map (·.1) else keepOk ok (new.map (·.1)) ps),
      orFlags (if stops.isEmpty then new else (new.zipIdx.filter fun p => ok p.2).map (·.1)))
  let sum (t : List Val) (fl : Flags) : Core × Flags :=
    if !stops.isEmpty then (c, 0)
    else if k.len = 0 then (if k.acc then (c, 0) else (c.putWord32 k.p 0, 0))
    else
      let r := caskSum t
      let y := if k.acc then add32 (c.word32 k.p) r.1 else (r.1, 0)
      (c.putWord32 k.p y.1, fl ||| r.2 ||| y.2)
  match k.kind with
  | 0 => elementwise ((ps.zip qs).map fun p => encodeArith f .rne (vFma false a (val p.2) (val p.1)))
  | 1 => elementwise (ps.map fun p => encodeArith f .rne (vMul a (val p)))
  | 2 =>
    let ys := c.array (k.q + 64 * ((k.len * w + 511) / 512)) k.len w
    let prods := (qs.zip ys).map fun p => vMul (val p.1) (val p.2)
    sum (prods.map (·.1)) (prods.foldl (fun (g : Flags) p => g ||| p.2) 0)
  | 3 => elementwise ((ps.zip qs).map fun p => maxFlt f true p.1 p.2)
  | 4 =>
    if !stops.isEmpty then (c, 0)
    else
      let r := smx f a ps (c.word32 k.q) (c.word32 (k.q + 4)) (c.word32 (k.q + 8))
      if k.len = 0 then (c, 0)
      else
        ((((c.putArray k.p w r.1).putWord32 k.q r.2.1).putWord32 (k.q + 4) r.2.2.1).putWord32 (k.q + 8) r.2.2.2.1,
          r.2.2.2.2)
  | 5 => (c.offer k.amaxIdx false (((ps.zipIdx).filter fun p => ok p.2).map fun p => val p.1), 0)
  | 6 =>
    let src := c.array k.q k.len 32
    -- an element that is not performed converts as a zero, which raises nothing, and is kept as it was
    let vs := (src.zipIdx).map fun p => if ok p.2 then vMul a (decodeFlt fp32 p.1) else (.fin false 0 0, 0)
    let r := encRow k.fmt (rowRnd k.rnd k.seed k.fmt (8 * k.p)) (vs.map (·.1))
    let o := k.p + arrayBytes k.len w
    let c1 := c.putArray k.p w (if stops.isEmpty then r.2.1 else keepOk ok r.2.1 ps)
    let scales := if stops.isEmpty then r.1
      else keepOk (fun b => ok (b * fmtBlock k.fmt)) r.1 (elemsOf 8 (readRange c.pad o k.plane) k.plane)
    let c2 := if k.plane = 0 then c1 else { c1 with pad := writeRange c1.pad o k.plane (packElems 8 scales) }
    let c3 := if k.amaxEn then c2.offer k.amaxIdx false (((vs.zipIdx).filter fun p => ok p.2).map fun p => p.1.1) else c2
    (c3, vs.foldl (fun (g : Flags) p => g ||| p.2) r.2.2)
  | 7 =>
    let v := encodeNum (.flt f) .rne a
    (c.putArray k.p w (List.replicate k.len v.1), if k.len = 0 then 0 else v.2)
  | 8 => (c.emptyWords (maskWords k.p k.pBytes (2 ^ k.pBytes - 1)), 0)
  | _ => sum (qs.map val) 0

/-- A free code of `w` bits. -/
def freeCode (free w : Nat) : Nat := (Config.freeElem free).toNat % 2 ^ w

/-- CK.SUM, CK.DOT and CK.SMX with a part that an uncorrectable word ends (R290): the other parts complete, so what they write is
written, with free values, because no rule gives the result of a part of a reduction; the flags are free too (log 120). -/
def Cask.halted (k : Cask) (c : Core) (stops : Stops) (free : Nat) : Core × Flags :=
  let runs (o : Nat) : Bool := !stops.any fun t => t.1 == o / 65536
  let w := fmtWidth k.fmt
  let fl : Flags := BitVec.ofNat 5 (freeCode (free + 3) 5)
  if k.kind = 4 then
    let c := c.putArray k.p w (((c.array k.p k.len w).zipIdx).map fun p => if k.ok stops p.2 then freeCode (free + 4 + p.2) w else p.1)
    (if runs k.q then
      ((c.putWord32 k.q (freeCode free 32)).putWord32 (k.q + 4) (freeCode (free + 1) 32)).putWord32 (k.q + 8) (freeCode (free + 2) 32)
    else c, fl)
  else (if runs k.p then c.putWord32 k.p (freeCode free 32) else c, fl)

/-- The results of a command as far as its parts complete (R283 to R285, R290), and its flags. -/
def Cask.ran (k : Cask) (c : Core) (stops : Stops) (free : Nat) : Core × Flags :=
  if stops.isEmpty ∨ !(k.kind = 2 ∨ k.kind = 4 ∨ k.kind = 9) then k.run c stops else k.halted c stops free

/-- The words of ranges. -/
def wordsOf (ranges : List (Nat × Nat)) : List Nat := ranges.flatMap fun r => maskWords r.1 r.2 (2 ^ r.2 - 1)

/-- Every element of a word of P, and every scale byte of a word of its scale plane, is performed. -/
def Cask.wordOk (k : Cask) (stops : Stops) (o : Nat) : Bool :=
  let w := max 1 (fmtWidth k.fmt)
  let plane := k.p + arrayBytes k.len w
  -- the result word of CK.SUM and CK.DOT, and the state block of CK.SMX, are written by the part of their bank
  let alone : Bool := k.kind == 2 || k.kind == 9 || (k.kind == 4 && decide (k.q ≤ o ∧ o < k.q + 12))
  stops.isEmpty ||
    (if alone then !stops.any fun t => t.1 == o / 65536
    else if k.plane ≠ 0 ∧ plane ≤ o then
      (List.range 4).all fun b => decide (k.plane ≤ o + b - plane) || k.ok stops ((o + b - plane) * fmtBlock k.fmt)
    else
      let lo := 8 * (o - k.p) / w
      (List.range ((8 * (o - k.p) + 31) / w + 1 - lo)).all fun i => decide (k.len ≤ lo + i) || k.ok stops (lo + i))

/-- The words that the command fills, or empties: with uncorrectable words, those that it has written whole (R290). DESIGN CHOICE
(log 121): a last word that the scale plane of CK.CVT covers in part is checked and filled as a whole one. -/
def Cask.filled (k : Cask) (stops : Stops) : List Nat :=
  if k.kind = 8 then wordsOf [(k.p, k.pBytes)] else (wordsOf k.writes).filter (k.wordOk stops)

/-- The uncorrectable words that the command reads, and the parts that they end: of each part the first element (R290). -/
def Cask.errors (k : Cask) (c : Core) : Stops :=
  let whole := k.kind = 2 ∨ k.kind = 4 ∨ k.kind = 9
  let w := if k.kind = 6 then 32 else max 1 (fmtWidth k.fmt)
  let all := c.padErr.flatMap fun e => (k.reads.filter fun r => overlap e 4 r.1 r.2).map fun r =>
    let i := 8 * (e - r.1) / w
    if whole then (e / 65536, e, 0) else (k.partOf i, e, i)
  (all.map (·.1)).eraseDups.filterMap fun b =>
    (all.filter fun t => t.1 = b).foldl (fun (o : Option (Nat × Nat × Nat)) t =>
      match o with
      | some u => if t.2.2 < u.2.2 then some t else o
      | none => some t) none

/-! ## Parts (R286) -/

/-- The byte ranges that a command writes. -/
def Cask.touched (k : Cask) : List (Nat × Nat) :=
  match k.kind with
  | 2 => [(k.p, 4)]
  | 9 => [(k.p, 4)]
  | 4 => [(k.p, (k.len * fmtWidth k.fmt + 7) / 8), (k.q, if k.len = 0 then 0 else 12)]
  | 5 => []
  | 8 => []
  | _ => [(k.p, (k.len * fmtWidth k.fmt + 7) / 8), (k.p + arrayBytes k.len (fmtWidth k.fmt), k.plane)]

/-- A byte range cut at the borders of pieces of a size. -/
def cutRange (size : Nat) (r : Nat × Nat) : List (Nat × Nat) :=
  (List.range (if r.2 = 0 then 0 else (r.1 + r.2 - 1) / size + 1 - r.1 / size)).map fun i =>
    let lo := max r.1 ((r.1 / size + i) * size)
    (lo, min (r.1 + r.2) ((r.1 / size + i + 1) * size) - lo)

/-- What the parts of a command write, from the scratchpad after the whole command: one run per bank, or with uncorrectable words
the words that are performed. -/
def Cask.runs (k : Cask) (pad : List Host.Cell) (stops : Stops) : List (Nat × Nat × Nat) :=
  let cut := if stops.isEmpty then k.touched.flatMap (cutRange 65536)
    else (k.touched.flatMap (cutRange 4)).filter fun r => k.wordOk stops r.1
  cut.map fun r => (r.1, r.2, readRange pad r.1 r.2)

/-- The part of one bank: its runs are written, and its words filled or emptied. -/
def Cask.part (k : Cask) (b : Nat) (c : Core) : Core :=
  let mine (o : Nat) : Bool := o / 65536 == b
  let runs := k.out.filter fun r => mine r.1
  let c := (runs.foldl (fun (c : Core) r => { c with pad := writeRange c.pad r.1 r.2.1 r.2.2 }) c).mendPad (runs.map fun r => (r.1, r.2.1))
  let ws := k.fill.filter mine
  if k.kind = 8 then c.emptyWords ws else c.fillWords ws

/-- The command without the part of a bank. -/
def Cask.rest (k : Cask) (b : Nat) : Cask :=
  { k with out := k.out.filter fun r => r.1 / 65536 ≠ b, fill := k.fill.filter fun o => o / 65536 ≠ b }

/-- A command ends: flags, or a failure with its cause and ktval. On the issuer's own core the end is seen at once (R199,
R295); for another core a completion is sent (R289). -/
def State.caskEnd (s : State) (ep : Nat) (k : Cask) (fl : Flags) (bad : Option (BitVec 6 × Word)) : State :=
  if k.ep ≠ ep then s.post (.caskDone k fl bad)
  else
    let s := s.modCore ep fun c => { c with held := c.held.filter fun h => h.age ≠ k.age }
    if k.orphan then s
    else
      match bad with
      | some (cause, tval) => s.defer ep k.ctx k.age cause k.pc tval .none
      | none => s.vflagsAt ep k.ctx fl

/-- A command at a place of the queues may be performed: it has started; or no earlier one has a part in its banks, no earlier
command or copy of its core overlaps it, and every word that it reads is full (R282, R287). -/
def State.caskReady (s : State) (ep : Nat) (i : Nat) (k : Cask) : Bool :=
  let c := s.core ep
  k.started ||
    (!((c.casks.take i).any fun q => q.parts.any k.banks.contains) &&
      !((s.core k.ep).held.any fun h => decide (h.age < k.age) &&
        k.live.any fun r => overlap h.base.toNat h.len (winAddr s.dev ep r.1).toNat r.2) &&
      c.allFull (k.reads.filter fun r => r.2 ≠ 0))

/-- The reports of the uncorrectable words (R290). -/
def State.caskReports (s : State) (ep : Nat) (k : Cask) (stops : Stops) : State :=
  stops.foldl (fun (s : State) t =>
    (s.fresh).post (.report k.ep k.ctx (mkRecord 36 k.ctx 3 (winAddr s.dev ep t.2.1) s.dev 3 (t.2.1 / 65536)
      (Config.freeSyndrome s.free) 0 true))) s

/-- A part of a started command is performed, that of the lowest bank; after the last part the command retires (R286; log 21). -/
def State.caskPart (s : State) (ep i : Nat) (k : Cask) : State :=
  match k.parts.min? with
  | none => (s.modCore ep fun c => { c with casks := dropAt c.casks i }).caskEnd ep k k.flags none
  | some b =>
    let r := k.rest b
    let s := s.modCore ep (k.part b)
    if r.parts.isEmpty then (s.modCore ep fun c => { c with casks := dropAt c.casks i }).caskEnd ep k k.flags none
    else s.modCore ep fun c => { c with casks := setAt c.casks i r }

/-- CASK_PART_EXECUTE (R282, R286): a command whose inputs are there reads them all, checks its write-only words and forms its
results; one that writes a single bank is performed at once, and any other one by one part in each step, the lowest bank first
(DESIGN CHOICE, log 21). -/
def execCaskPartExecute (ep : Nat) (k : Nat) (s : State) : Res :=
  let c := s.core ep
  match c.casks[k]? with
  | none => .next s
  | some q =>
    if !s.caskReady ep k q then .next s
    else if q.started then .next (s.caskPart ep k q)
    else
      let c1 := { c with casks := dropAt c.casks k }
      match (wordsOf q.writes).find? fun w => c1.isSync w && c1.isFull w with
      | some w => .next ((s.setCore ep c1).caskEnd ep q 0 (some (25, winAddr s.dev ep w)))
      | none =>
        let stops := q.errors c1
        let r := q.ran c1 stops s.free
        let s := if stops.isEmpty then s else { s with free := s.free + q.len + 4 }
        let q1 := { q with started := true, out := q.runs r.1.pad stops, fill := q.filled stops, flags := r.2 }
        if q1.parts.length ≤ 1 then
          let t := s.setCore ep (if q.kind = 8 then r.1 else (r.1.mendPad (q1.out.map fun r => (r.1, r.2.1))).fillWords q1.fill)
          .next ((t.caskReports ep q stops).caskEnd ep q r.2 none)
        else
          let t := s.setCore ep { c with amax := r.1.amax, casks := setAt c.casks k q1 }
          .next ((t.caskReports ep q stops).caskPart ep k q1)

/-- REMOTE_CASK_ARRIVAL (R287, R289): the commands of one core reach a target in the order of their issue; the target's access
table, its checks, and room in its queues. -/
def execRemoteCaskArrival (k : Nat) (s : State) : Res :=
  match s.net[k]? with
  | some (.cask to_ q) =>
    let before : Bool := (s.net.take k).any fun m => match m with
      | .cask t p => t == to_ && p.ep == q.ep
      | _ => false
    if before then .next s
    else if !s.admitted (s.master q.ep) kCore to_ rCommand then
      .next (if (s.core q.ep).frozen then s else s.freeze q.ep q.ctx (winAddr s.dev to_ q.p) 6 [])
    else
      match q.check (s.core to_) (s.win to_) q.desc with
      | some bad => .next ((s.take k).caskEnd to_ q 0 (some bad))
      | none =>
        if !(s.core to_).caskRoom q then .next s
        else .next ((s.take k).modCore to_ fun c => { c with casks := c.casks ++ [q] })
  | _ => .next s

/-- REMOTE_CASK_COMPLETION (R289): the completion reply reaches the issuer. -/
def execRemoteCaskCompletion (k : Nat) (s : State) : Res :=
  match s.net[k]? with
  | some (.caskDone q fl bad) => .next ((s.take k).caskEnd q.ep q fl bad)
  | _ => .next s

end Sys2Proof.Machine
end

