-- ==== Sys2Proof/Machine/FetchWord.lean ====
section
/-! DEFINITION.
Fetching a word (R32, R77), and the traps of a word that is no instruction or cannot be fetched (R44, R77). -/

namespace Sys2Proof.Machine

open Sys2Proof

/-! ## Fetch -/

/-- The outcome of a fetch. -/
inductive Fetched where
  | word (s : State) (w : BitVec 32)
  /-- the fetch is ticketed, denied or refused -/
  | stop (r : Res)

/-- The access record of a fetch that waits (R371). -/
def State.fetchAcc (s : State) : Acc :=
  s.newAcc s.me.nextAge .fetch [(s.pc, 0, 4)] (maskRun 512 0 4) 0 .none .remote

/-- A store of the context to the line of an address has issued and is not performed yet: a fetch there waits, and so sees the
context's own earlier stores (R78). -/
def State.storing (s : State) (ep : Nat) (n : Fin 11) (a : Word) : Bool :=
  (s.core ep).accs.any fun b => b.ctx == n && b.op.writes && b.blocks false && meets b.chunks [(a, 0, 4)]

/-- Instruction fetch at pc (R77): OWN, HOST and corked LAT pages of this device. -/
def State.fetch (s : State) : Fetched :=
  let a := s.pc
  let ep := s.cur.1
  if aDev a ≠ s.dev ∨ aWin a then .stop (trap 1 a s)
  else if s.storing ep s.cur.2 a then .stop (stall s)
  else
    let r := s.translate ep .read a
    match r.2 with
    | .miss k =>
      if r.1.me.ticketRoom 1 then .stop (.next ((r.1.addMissed ep r.1.fetchAcc k).holdOn (.replay r.1.fetchAcc.age)))
      else .stop (stallIn r.1)
    | .denied =>
      if r.1.me.ticketRoom 1 then .stop (.next ((r.1.addDenied ep r.1.fetchAcc 6).holdOn (.replay r.1.fetchAcc.age)))
      else .stop (stallIn r.1)
    | .ok t pa =>
      let line := pa / 128
      if t.cls = .lat then
        if t.cork ∨ (r.1.line line).cork then
          let q := r.1.readLat ep s.cur.2 line a
          .word q.1 (BitVec.ofNat 32 (lineVal ((r.1.line line).shown t.typ t.width q.2) (pa % 128) 4))
        else .stop (trap 1 a r.1)
      else
        match (if t.cls = .host then r.1.heldSectors line (maskRun 128 (pa % 128) 4) false else []) with
        | [] =>
          let q := r.1.readPlain ep s.cur.2 t.cls line a (maskRun 128 (pa % 128) 4)
          .word q.1 (BitVec.ofNat 32 (lineVal q.2 (pa % 128) 4))
        | secs => .stop (stallIn (r.1.sendSnoops ep s.cur.2 secs))

/-- The cause and ktval of a word that is no instruction: 2 (R44); 19 for an MMAS word with transA = 1, which is a reserved
matrix combination (R45, R247). -/
def badWord (w : BitVec 32) : BitVec 6 × Word := if w &&& 0x727F = 0x425B then (19, w.zeroExtend 64) else (2, 0)

/-- ILLEGAL_INSTRUCTION (R44): a fetched word that is no instruction traps, and has no other effect. -/
def execIllegalInstruction (word : BitVec 32) (s : State) : Res := trap (badWord word).1 (badWord word).2 s

/-- INSTRUCTION_FETCH_FAULT (R77): the fetch at pc is refused with cause 1, or takes a ticket; a fetch that succeeds leaves
the context where it is. -/
def execInstructionFetchFault (s : State) : Res :=
  match s.fetch with
  | .stop r => r
  | .word s _ => .next s

end Sys2Proof.Machine
end

