-- ==== Sys2Proof/Machine/Operands.lean ====
section
/-! DEFINITION.
The registers that each instruction names: what the register scoreboard checks at issue (R76, R209), what counts as the
first read of a token register (R173, R493), and the accesses to bound stream registers (R235). -/

namespace Sys2Proof.Machine

open Sys2Proof

/-- An x register as an operand. -/
def xr (r : Reg) : Dst := .x r 8 false

/-- The rs2 operand of a vector instruction: a vector register, or with the broadcast flag an x register for an integer
type and an f register for an FP type (R39). -/
def sc (bc : BitVec 1) (t : ElemT) (r : Reg) : Dst :=
  if bc = 0 then .v r else match t with
    | .f32 => .f r | .bf16 => .f r | .f16 => .f r | .i32 => xr r | .i16 => xr r | .i8 => xr r

/-- The registers that VMOVM reads and writes, by its subop (R217). -/
def movmReads (rd rs1 : Reg) (subop : BitVec 5) : List Dst :=
  match subop.toNat with
  | 0 => [.v rs1]
  | 1 => [.m rs1]
  | _ => [.m rs1, .m rd]
def movmWrites (rd : Reg) (subop : BitVec 5) : List Dst := if subop = 1 then [.v rd] else [.m rd]

/-- The registers that an instruction reads. -/
def reads : Instr → List Dst
  | .lui _ _ => []
  | .auipc _ _ => []
  | .addi _ rs1 _ => [xr rs1]
  | .slti _ rs1 _ => [xr rs1]
  | .sltiu _ rs1 _ => [xr rs1]
  | .xori _ rs1 _ => [xr rs1]
  | .ori _ rs1 _ => [xr rs1]
  | .andi _ rs1 _ => [xr rs1]
  | .slli _ rs1 _ => [xr rs1]
  | .srli _ rs1 _ => [xr rs1]
  | .srai _ rs1 _ => [xr rs1]
  | .addiw _ rs1 _ => [xr rs1]
  | .slliw _ rs1 _ => [xr rs1]
  | .srliw _ rs1 _ => [xr rs1]
  | .sraiw _ rs1 _ => [xr rs1]
  | .add _ rs1 rs2 => [xr rs1, xr rs2]
  | .sub _ rs1 rs2 => [xr rs1, xr rs2]
  | .sll _ rs1 rs2 => [xr rs1, xr rs2]
  | .slt _ rs1 rs2 => [xr rs1, xr rs2]
  | .sltu _ rs1 rs2 => [xr rs1, xr rs2]
  | .xorR _ rs1 rs2 => [xr rs1, xr rs2]
  | .srl _ rs1 rs2 => [xr rs1, xr rs2]
  | .sra _ rs1 rs2 => [xr rs1, xr rs2]
  | .orR _ rs1 rs2 => [xr rs1, xr rs2]
  | .andR _ rs1 rs2 => [xr rs1, xr rs2]
  | .addw _ rs1 rs2 => [xr rs1, xr rs2]
  | .subw _ rs1 rs2 => [xr rs1, xr rs2]
  | .sllw _ rs1 rs2 => [xr rs1, xr rs2]
  | .srlw _ rs1 rs2 => [xr rs1, xr rs2]
  | .sraw _ rs1 rs2 => [xr rs1, xr rs2]
  | .mul _ rs1 rs2 => [xr rs1, xr rs2]
  | .mulh _ rs1 rs2 => [xr rs1, xr rs2]
  | .mulhsu _ rs1 rs2 => [xr rs1, xr rs2]
  | .mulhu _ rs1 rs2 => [xr rs1, xr rs2]
  | .div _ rs1 rs2 => [xr rs1, xr rs2]
  | .divu _ rs1 rs2 => [xr rs1, xr rs2]
  | .rem _ rs1 rs2 => [xr rs1, xr rs2]
  | .remu _ rs1 rs2 => [xr rs1, xr rs2]
  | .mulw _ rs1 rs2 => [xr rs1, xr rs2]
  | .divw _ rs1 rs2 => [xr rs1, xr rs2]
  | .divuw _ rs1 rs2 => [xr rs1, xr rs2]
  | .remw _ rs1 rs2 => [xr rs1, xr rs2]
  | .remuw _ rs1 rs2 => [xr rs1, xr rs2]
  | .jal _ _ => []
  | .jalr _ rs1 _ => [xr rs1]
  | .beq rs1 rs2 _ => [xr rs1, xr rs2]
  | .bne rs1 rs2 _ => [xr rs1, xr rs2]
  | .blt rs1 rs2 _ => [xr rs1, xr rs2]
  | .bge rs1 rs2 _ => [xr rs1, xr rs2]
  | .bltu rs1 rs2 _ => [xr rs1, xr rs2]
  | .bgeu rs1 rs2 _ => [xr rs1, xr rs2]
  | .lb _ rs1 _ => [xr rs1]
  | .lh _ rs1 _ => [xr rs1]
  | .lw _ rs1 _ => [xr rs1]
  | .ld _ rs1 _ => [xr rs1]
  | .lbu _ rs1 _ => [xr rs1]
  | .lhu _ rs1 _ => [xr rs1]
  | .lwu _ rs1 _ => [xr rs1]
  | .sb rs1 rs2 _ => [xr rs1, xr rs2]
  | .sh rs1 rs2 _ => [xr rs1, xr rs2]
  | .sw rs1 rs2 _ => [xr rs1, xr rs2]
  | .sd rs1 rs2 _ => [xr rs1, xr rs2]
  | .flw _ rs1 _ => [xr rs1]
  | .fsw rs1 rs2 _ => [xr rs1, .f rs2]
  | .fence _ _ => []
  | .fenceTso => []
  | .fenceI => []
  | .ecall => []
  | .ebreak => []
  | .kret => []
  | .csrrw _ rs1 _ => [xr rs1]
  | .csrrs _ rs1 _ => [xr rs1]
  | .csrrc _ rs1 _ => [xr rs1]
  | .csrrwi _ _ _ => []
  | .csrrsi _ _ _ => []
  | .csrrci _ _ _ => []
  | .csrWrite _ _ => []
  | .kvstatRead _ => []
  | .fmaddS _ rs1 rs2 rs3 _ => [.f rs1, .f rs2, .f rs3]
  | .fmsubS _ rs1 rs2 rs3 _ => [.f rs1, .f rs2, .f rs3]
  | .fnmsubS _ rs1 rs2 rs3 _ => [.f rs1, .f rs2, .f rs3]
  | .fnmaddS _ rs1 rs2 rs3 _ => [.f rs1, .f rs2, .f rs3]
  | .faddS _ rs1 rs2 _ => [.f rs1, .f rs2]
  | .fsubS _ rs1 rs2 _ => [.f rs1, .f rs2]
  | .fmulS _ rs1 rs2 _ => [.f rs1, .f rs2]
  | .fdivS _ rs1 rs2 _ => [.f rs1, .f rs2]
  | .fsqrtS _ rs1 _ => [.f rs1]
  | .fsgnjS _ rs1 rs2 => [.f rs1, .f rs2]
  | .fsgnjnS _ rs1 rs2 => [.f rs1, .f rs2]
  | .fsgnjxS _ rs1 rs2 => [.f rs1, .f rs2]
  | .fminS _ rs1 rs2 => [.f rs1, .f rs2]
  | .fmaxS _ rs1 rs2 => [.f rs1, .f rs2]
  | .fcvtWS _ rs1 _ => [.f rs1]
  | .fcvtWuS _ rs1 _ => [.f rs1]
  | .fcvtLS _ rs1 _ => [.f rs1]
  | .fcvtLuS _ rs1 _ => [.f rs1]
  | .fcvtSW _ rs1 _ => [xr rs1]
  | .fcvtSWu _ rs1 _ => [xr rs1]
  | .fcvtSL _ rs1 _ => [xr rs1]
  | .fcvtSLu _ rs1 _ => [xr rs1]
  | .fmvXW _ rs1 => [.f rs1]
  | .fclassS _ rs1 => [.f rs1]
  | .feqS _ rs1 rs2 => [.f rs1, .f rs2]
  | .fltS _ rs1 rs2 => [.f rs1, .f rs2]
  | .fleS _ rs1 rs2 => [.f rs1, .f rs2]
  | .fmvWX _ rs1 => [xr rs1]
  | .hstart _ rs1 rs2 => [xr rs1, xr rs2]
  | .hexit rs1 => [xr rs1]
  | .hexitComplete _ _ => []
  | .hwait _ rs1 => [xr rs1]
  | .carve _ rs1 rs2 => [xr rs1, xr rs2]
  | .carveReconfigure _ => []
  | .gang _ => []
  | .split _ => []
  | .gangRendezvous _ => []
  | .lpad _ => []
  | .jt _ rs1 tb => [xr rs1, xr tb]
  | .fenceS _ _ _ _ => []
  | .bar _ => []
  | .send rs1 rs2 => [xr rs1, .v rs2]
  | .tsend rs1 rs2 => [xr rs1, .v rs2]
  | .tsendSlotSend _ _ => []
  | .qarm rs1 rs2 => [xr rs1, xr rs2]
  | .qretire rs1 => [xr rs1]
  | .taskq rs1 => [xr rs1]
  | .taskput rs1 rs2 => [xr rs1, xr rs2]
  | .taskend => []
  | .lease _ rs1 rs2 => [xr rs1, xr rs2]
  | .renew _ rs1 rs2 => [xr rs1, xr rs2]
  | .unlease rs1 => [xr rs1]
  | .mcall _ rs1 rs2 => [xr rs1, xr rs2]
  | .tlbw _ rs1 => [xr rs1]
  | .tlbinv _ rs1 rs2 => [xr rs1, xr rs2]
  | .replayall => []
  | .tkpost rs1 rs2 => [xr rs1, xr rs2]
  | .flushctx _ rs1 => [xr rs1]
  | .rhold _ rs1 rs2 => [xr rs1, xr rs2]
  | .rprio rs1 rs2 => [xr rs1, xr rs2]
  | .rdrop rs1 => [xr rs1]
  | .join rs1 rs2 => [xr rs1, xr rs2]
  | .xld _ rs1 => [xr rs1]
  | .joinm rs1 rs2 => [xr rs1, xr rs2]
  | .cork rs1 rs2 => [xr rs1, xr rs2]
  | .corkw rs1 rs2 => [xr rs1, xr rs2]
  | .bottle rs1 rs2 => [xr rs1, xr rs2]
  | .rel rs1 rs2 => [xr rs1, xr rs2]
  | .relSend _ _ => []
  | .rack rs1 rs2 => [xr rs1, xr rs2]
  | .acq _ rs1 rs2 rs3 => [xr rs1, xr rs2, xr rs3]
  | .foldS rs1 rs2 rs3 _ => [xr rs1, xr rs2, .f rs3]
  | .recycle rs1 rs2 rs3 => [xr rs1, xr rs2, xr rs3]
  | .foldH rs1 rs2 rs3 _ => [xr rs1, xr rs2, .f rs3]
  | .waitGe _ rs1 rs2 => [xr rs1, xr rs2]
  | .waitHas _ rs1 rs2 => [xr rs1, xr rs2]
  | .waitAny _ rs1 rs2 => [xr rs1, xr rs2]
  | .waitFull _ rs1 => [xr rs1]
  | .waitCork _ rs1 => [xr rs1]
  | .waitAnswer _ => []
  | .acqAnswer _ => []
  | .corkAck _ _ => []
  | .rackComplete _ _ => []
  | .vadd bc t _ rs1 rs2 => [.v rs1, sc bc t rs2]
  | .vsub bc t _ rs1 rs2 => [.v rs1, sc bc t rs2]
  | .vmul bc t _ rs1 rs2 => [.v rs1, sc bc t rs2]
  | .vfma bc t rd rs1 rs2 => [.v rs1, sc bc t rs2, .v rd]
  | .vmax bc t _ rs1 rs2 => [.v rs1, sc bc t rs2]
  | .vmin bc t _ rs1 rs2 => [.v rs1, sc bc t rs2]
  | .vabs _ _ rs1 => [.v rs1]
  | .vneg _ _ rs1 => [.v rs1]
  | .vexp2 _ _ rs1 => [.v rs1]
  | .vrcp _ _ rs1 => [.v rs1]
  | .vrsq _ _ rs1 => [.v rs1]
  | .vlog2 _ _ rs1 => [.v rs1]
  | .vand bc t _ rs1 rs2 => [.v rs1, sc bc t rs2]
  | .vor bc t _ rs1 rs2 => [.v rs1, sc bc t rs2]
  | .vxor bc t _ rs1 rs2 => [.v rs1, sc bc t rs2]
  | .vshl bc t _ rs1 rs2 => [.v rs1, sc bc t rs2]
  | .vshra bc t _ rs1 rs2 => [.v rs1, sc bc t rs2]
  | .vshrl bc t _ rs1 rs2 => [.v rs1, sc bc t rs2]
  | .vcmplt bc t _ rs1 rs2 => [.v rs1, sc bc t rs2]
  | .vcmpeq bc t _ rs1 rs2 => [.v rs1, sc bc t rs2]
  | .vsel bc t _ rs1 rs2 => [.v rs1, sc bc t rs2]
  | .vredsum _ _ rs1 => [.v rs1]
  | .vredmax _ _ rs1 => [.v rs1]
  | .vcvt _ _ _ rs1 _ => [.v rs1]
  | .vbcast bc t _ rs1 rs2 => [xr rs1, sc bc t rs2]
  | .vperm _ _ rs1 rs2 => [.v rs1, .v rs2]
  | .vamax _ rs1 => [.v rs1]
  | .vmovm _ rd rs1 subop => movmReads rd rs1 subop
  | .vslide t _ rs1 rs2 => [.v rs1, sc 1 t rs2]
  | .vtrn _ rd rs1 rs2 => [.v rs1, .v rs2, .v rd]
  | .vld _ rs1 => [xr rs1]
  | .vst rd rs1 => [xr rs1, .v rd]
  | .vlds _ rs1 rs2 => [xr rs1, xr rs2]
  | .vsts rd rs1 rs2 => [xr rs1, xr rs2, .v rd]
  | .vldx _ rs1 rs2 => [xr rs1, .v rs2]
  | .vstx rd rs1 rs2 => [xr rs1, .v rs2, .v rd]
  | .vxld _ rs1 => [xr rs1]
  | .vjoin rd rs1 => [xr rs1, .v rd]
  | .sbind _ rs1 rs2 => [xr rs1, xr rs2]
  | .sunbind _ => []
  | .vldf _ rs1 => [xr rs1]
  | .vstf rd rs1 => [xr rs1, .v rd]
  | .vfold rd rs1 rs2 => [xr rs1, xr rs2, .v rd]
  | .mma _ _ _ _ _ rs1 rs2 rs3 => [xr rs1, xr rs2, .f rs3]
  | .mmas _ _ _ _ rs1 rs2 rs3 => [xr rs1, xr rs2, .f rs3]
  | .mzero _ => []
  | .mcvtst _ rs1 rs2 => [xr rs1, xr rs2]
  | .cnld rs1 rs2 => [xr rs1, xr rs2]
  | .msend rs1 rs2 => [xr rs1, xr rs2]
  | .mpop _ => []
  | .amxrd _ rs1 => [xr rs1]
  | .amxclr rs1 => [xr rs1]
  | .amxjoin rs1 rs2 => [xr rs1, xr rs2]
  | .mrd _ rs1 _ => [xr rs1]
  | .mwr _ rs1 rs2 => [xr rs1, .v rs2]
  | .engineCommandStart _ => []
  | .engineCommandComplete _ => []
  | .msendArrival _ => []
  | .ckAxpy rd rs1 rs2 => [xr rs1, xr rs2, .f rd]
  | .ckScal rd rs1 rs2 => [xr rs1, xr rs2, .f rd]
  | .ckDot rs1 rs2 => [xr rs1, xr rs2]
  | .ckMax rs1 rs2 => [xr rs1, xr rs2]
  | .ckSmx rd rs1 rs2 => [xr rs1, xr rs2, .f rd]
  | .ckAmax rs1 rs2 => [xr rs1, xr rs2]
  | .ckCvt rd rs1 rs2 => [xr rs1, xr rs2, .f rd]
  | .ckFill rd rs1 rs2 => [xr rs1, xr rs2, .f rd]
  | .ckEmpty rs1 rs2 => [xr rs1, xr rs2]
  | .ckSum rs1 rs2 => [xr rs1, xr rs2]
  | .caskPartExecute _ _ => []
  | .remoteCaskArrival _ => []
  | .cp _ rs1 rs2 rs3 => [xr rs1, xr rs2, xr rs3]
  | .cpx _ rs1 rs2 rs3 => [xr rs1, xr rs2, xr rs3]
  | .cpj _ rs1 rs2 rs3 => [xr rs1, xr rs2, xr rs3]
  | .cpfill _ rs1 rs2 rs3 => [xr rs1, xr rs2, xr rs3]
  | .copyPortion _ => []
  | .copyComplete _ => []
  | .emptyWordReadWake _ _ => []
  | .combiningBufferLeave _ _ => []
  | .deferredTrap _ _ => []
  | .reportPost _ => []
  | .reportDelivery _ _ => []
  | .rtailWrite _ _ _ => []
  | .faultBufferRequest _ => []
  | .kfbmsgRead _ => []
  | .replayNotice _ => []
  | .flushAck _ => []
  | .clusterBarrierRelease _ => []
  | .barrierRelease _ => []
  | .channelRoomFreed _ _ => []
  | .timedArrival _ => []
  | .routerCombineLeave _ => []
  | .notificationWindow => []
  | .detectorSample => []
  | .quiescenceProbe _ => []
  | .probeRestart _ => []
  | .taskRecordDecode _ _ => []
  | .headLatenessCheck _ _ => []
  | .distributorSelect _ => []
  | .dispatch _ => []
  | .teamCompletion _ => []
  | .taskqAnswer _ _ => []
  | .balancerTick => []
  | .migrationCommand _ => []
  | .preempt _ => []
  | .resume _ _ => []
  | .pressJoin _ => []
  | .pressExactRead _ => []
  | .pressWaitRegister _ => []
  | .pressWaitRetry _ => []
  | .pressRel _ => []
  | .pressCork _ => []
  | .pressFoldAppend _ => []
  | .leaseCountTick => []
  | .leaseLapse _ => []
  | .mcDrainComplete _ => []
  | .mcCallStart _ => []
  | .mcallToken _ => []
  | .mcBundle _ => []
  | .mcAdd _ _ => []
  | .mcSub _ _ => []
  | .mcAnd _ _ => []
  | .mcOr _ _ => []
  | .mcXor _ _ => []
  | .mcShl _ _ => []
  | .mcShr _ _ => []
  | .mcSra _ _ => []
  | .mcMul _ _ => []
  | .mcLtu _ _ => []
  | .mcLt _ _ => []
  | .mcEq _ _ => []
  | .mcMinu _ _ => []
  | .mcMaxu _ _ => []
  | .mcInc _ _ => []
  | .mcDec _ _ => []
  | .mcNot _ _ => []
  | .mcNeg _ _ => []
  | .mcLd _ _ => []
  | .mcLwz _ _ => []
  | .mcSt _ _ => []
  | .mcSw4 _ _ => []
  | .mcLld _ _ => []
  | .mcLst _ _ => []
  | .mcLjoin _ _ => []
  | .mcPw _ _ => []
  | .mcPc _ _ => []
  | .mcBput _ _ => []
  | .mcBget _ => []
  | .mcJmp _ _ => []
  | .mcDone _ _ => []
  | .mcFence _ => []
  | .mcPushArrival _ => []
  | .unitMark _ _ => []
  | .unitDisable _ => []
  | .errorEpochEnd => []
  | .thermalStep _ _ => []
  | .thermalTrip => []
  | .deviceReset => []
  | .selfTest _ _ _ => []
  | .memoryTraining _ _ => []
  | .lineStateZero => []
  | .choingLoad _ _ => []
  | .htailWrite _ => []
  | .hsqTaskEntry => []
  | .hsqPreempt => []
  | .hsqUnfreeze => []
  | .hsqWake => []
  | .hsqReleaseHeld => []
  | .hsqQueueReset => []
  | .hsqMalformed => []
  | .ringLogWrite _ _ => []
  | .dconsWrite _ => []
  | .deqPost => []
  | .hostRead _ _ => []
  | .hostWrite _ _ _ _ => []
  | .backInvalidateResponse _ => []
  | .portDown _ => []
  | .gatewayMergeSend _ => []
  | .devWrite _ => []
  | .regionTableWrite _ _ => []
  | .pktRd _ => []
  | .pktJn _ => []
  | .pktFd _ => []
  | .pktWt _ => []
  | .pktRl _ => []
  | .pktCk _ => []
  | .pktFl _ => []
  | .pktWd _ => []
  | .pktRdr _ => []
  | .pktAns _ => []
  | .pktTkt _ => []
  | .pktNtc _ => []
  | .pktRej _ => []
  | .pktNack _ => []
  | .pktRpt _ => []
  | .pktAck _ => []
  | .pktArv _ => []
  | .pktRls _ => []
  | .pktRck _ => []
  | .pktPrb _ => []
  | .pktIdl _ => []
  | .pktDcl _ => []
  | .illegalInstruction _ => []
  | .instructionFetchFault => []
  | .loadValueReturn _ _ => []
  | .remoteCaskCompletion _ => []
  | .powerOff => []
  | .portTrained _ => []
  | .gatewayAcknowledgement _ => []
  | .hostControlWrite _ _ => []

/-- The registers that an instruction writes. -/
def writes : Instr → List Dst
  | .lui rd _ => [xr rd]
  | .auipc rd _ => [xr rd]
  | .addi rd _ _ => [xr rd]
  | .slti rd _ _ => [xr rd]
  | .sltiu rd _ _ => [xr rd]
  | .xori rd _ _ => [xr rd]
  | .ori rd _ _ => [xr rd]
  | .andi rd _ _ => [xr rd]
  | .slli rd _ _ => [xr rd]
  | .srli rd _ _ => [xr rd]
  | .srai rd _ _ => [xr rd]
  | .addiw rd _ _ => [xr rd]
  | .slliw rd _ _ => [xr rd]
  | .srliw rd _ _ => [xr rd]
  | .sraiw rd _ _ => [xr rd]
  | .add rd _ _ => [xr rd]
  | .sub rd _ _ => [xr rd]
  | .sll rd _ _ => [xr rd]
  | .slt rd _ _ => [xr rd]
  | .sltu rd _ _ => [xr rd]
  | .xorR rd _ _ => [xr rd]
  | .srl rd _ _ => [xr rd]
  | .sra rd _ _ => [xr rd]
  | .orR rd _ _ => [xr rd]
  | .andR rd _ _ => [xr rd]
  | .addw rd _ _ => [xr rd]
  | .subw rd _ _ => [xr rd]
  | .sllw rd _ _ => [xr rd]
  | .srlw rd _ _ => [xr rd]
  | .sraw rd _ _ => [xr rd]
  | .mul rd _ _ => [xr rd]
  | .mulh rd _ _ => [xr rd]
  | .mulhsu rd _ _ => [xr rd]
  | .mulhu rd _ _ => [xr rd]
  | .div rd _ _ => [xr rd]
  | .divu rd _ _ => [xr rd]
  | .rem rd _ _ => [xr rd]
  | .remu rd _ _ => [xr rd]
  | .mulw rd _ _ => [xr rd]
  | .divw rd _ _ => [xr rd]
  | .divuw rd _ _ => [xr rd]
  | .remw rd _ _ => [xr rd]
  | .remuw rd _ _ => [xr rd]
  | .jal rd _ => [xr rd]
  | .jalr rd _ _ => [xr rd]
  | .beq _ _ _ => []
  | .bne _ _ _ => []
  | .blt _ _ _ => []
  | .bge _ _ _ => []
  | .bltu _ _ _ => []
  | .bgeu _ _ _ => []
  | .lb rd _ _ => [xr rd]
  | .lh rd _ _ => [xr rd]
  | .lw rd _ _ => [xr rd]
  | .ld rd _ _ => [xr rd]
  | .lbu rd _ _ => [xr rd]
  | .lhu rd _ _ => [xr rd]
  | .lwu rd _ _ => [xr rd]
  | .sb _ _ _ => []
  | .sh _ _ _ => []
  | .sw _ _ _ => []
  | .sd _ _ _ => []
  | .flw rd _ _ => [.f rd]
  | .fsw _ _ _ => []
  | .fence _ _ => []
  | .fenceTso => []
  | .fenceI => []
  | .ecall => []
  | .ebreak => []
  | .kret => []
  | .csrrw rd _ _ => [xr rd]
  | .csrrs rd _ _ => [xr rd]
  | .csrrc rd _ _ => [xr rd]
  | .csrrwi rd _ _ => [xr rd]
  | .csrrsi rd _ _ => [xr rd]
  | .csrrci rd _ _ => [xr rd]
  | .csrWrite _ _ => []
  | .kvstatRead rd => [xr rd]
  | .fmaddS rd _ _ _ _ => [.f rd]
  | .fmsubS rd _ _ _ _ => [.f rd]
  | .fnmsubS rd _ _ _ _ => [.f rd]
  | .fnmaddS rd _ _ _ _ => [.f rd]
  | .faddS rd _ _ _ => [.f rd]
  | .fsubS rd _ _ _ => [.f rd]
  | .fmulS rd _ _ _ => [.f rd]
  | .fdivS rd _ _ _ => [.f rd]
  | .fsqrtS rd _ _ => [.f rd]
  | .fsgnjS rd _ _ => [.f rd]
  | .fsgnjnS rd _ _ => [.f rd]
  | .fsgnjxS rd _ _ => [.f rd]
  | .fminS rd _ _ => [.f rd]
  | .fmaxS rd _ _ => [.f rd]
  | .fcvtWS rd _ _ => [xr rd]
  | .fcvtWuS rd _ _ => [xr rd]
  | .fcvtLS rd _ _ => [xr rd]
  | .fcvtLuS rd _ _ => [xr rd]
  | .fcvtSW rd _ _ => [.f rd]
  | .fcvtSWu rd _ _ => [.f rd]
  | .fcvtSL rd _ _ => [.f rd]
  | .fcvtSLu rd _ _ => [.f rd]
  | .fmvXW rd _ => [xr rd]
  | .fclassS rd _ => [xr rd]
  | .feqS rd _ _ => [xr rd]
  | .fltS rd _ _ => [xr rd]
  | .fleS rd _ _ => [xr rd]
  | .fmvWX rd _ => [.f rd]
  | .hstart rd _ _ => [xr rd]
  | .hexit _ => []
  | .hexitComplete _ _ => []
  | .hwait rd _ => [xr rd]
  | .carve rd _ _ => [xr rd]
  | .carveReconfigure _ => []
  | .gang rd => [xr rd]
  | .split rd => [xr rd]
  | .gangRendezvous _ => []
  | .lpad _ => []
  | .jt rd _ _ => [xr rd]
  | .fenceS _ _ _ _ => []
  | .bar _ => []
  | .send _ _ => []
  | .tsend _ _ => []
  | .tsendSlotSend _ _ => []
  | .qarm _ _ => []
  | .qretire _ => []
  | .taskq _ => []
  | .taskput _ _ => []
  | .taskend => []
  | .lease rd _ _ => [xr rd]
  | .renew rd _ _ => [xr rd]
  | .unlease _ => []
  | .mcall rd _ _ => [xr rd]
  | .tlbw rd _ => [xr rd]
  | .tlbinv rd _ _ => [xr rd]
  | .replayall => []
  | .tkpost _ _ => []
  | .flushctx rd _ => [xr rd]
  | .rhold rd _ _ => [xr rd]
  | .rprio _ _ => []
  | .rdrop _ => []
  | .join _ _ => []
  | .xld rd _ => [xr rd]
  | .joinm _ _ => []
  | .cork _ _ => []
  | .corkw _ _ => []
  | .bottle _ _ => []
  | .rel _ _ => []
  | .relSend _ _ => []
  | .rack _ _ => []
  | .acq rd _ _ _ => [xr rd]
  | .foldS _ _ _ _ => []
  | .recycle _ _ _ => []
  | .foldH _ _ _ _ => []
  | .waitGe rd _ _ => [xr rd]
  | .waitHas rd _ _ => [xr rd]
  | .waitAny rd _ _ => [xr rd]
  | .waitFull rd _ => [xr rd]
  | .waitCork rd _ => [xr rd]
  | .waitAnswer _ => []
  | .acqAnswer _ => []
  | .corkAck _ _ => []
  | .rackComplete _ _ => []
  | .vadd _ _ rd _ _ => [.v rd]
  | .vsub _ _ rd _ _ => [.v rd]
  | .vmul _ _ rd _ _ => [.v rd]
  | .vfma _ _ rd _ _ => [.v rd]
  | .vmax _ _ rd _ _ => [.v rd]
  | .vmin _ _ rd _ _ => [.v rd]
  | .vabs _ rd _ => [.v rd]
  | .vneg _ rd _ => [.v rd]
  | .vexp2 _ rd _ => [.v rd]
  | .vrcp _ rd _ => [.v rd]
  | .vrsq _ rd _ => [.v rd]
  | .vlog2 _ rd _ => [.v rd]
  | .vand _ _ rd _ _ => [.v rd]
  | .vor _ _ rd _ _ => [.v rd]
  | .vxor _ _ rd _ _ => [.v rd]
  | .vshl _ _ rd _ _ => [.v rd]
  | .vshra _ _ rd _ _ => [.v rd]
  | .vshrl _ _ rd _ _ => [.v rd]
  | .vcmplt _ _ rd _ _ => [.m rd]
  | .vcmpeq _ _ rd _ _ => [.m rd]
  | .vsel _ _ rd _ _ => [.v rd]
  | .vredsum _ rd _ => [.v rd]
  | .vredmax _ rd _ => [.v rd]
  | .vcvt _ _ rd _ _ => [.v rd]
  | .vbcast _ _ rd _ _ => [.v rd]
  | .vperm _ rd _ _ => [.v rd]
  | .vamax _ _ => []
  | .vmovm _ rd _ subop => movmWrites rd subop
  | .vslide _ rd _ _ => [.v rd]
  | .vtrn _ rd _ _ => [.v rd]
  | .vld rd _ => [.v rd]
  | .vst _ _ => []
  | .vlds rd _ _ => [.v rd]
  | .vsts _ _ _ => []
  | .vldx rd _ _ => [.v rd]
  | .vstx _ _ _ => []
  | .vxld rd _ => [.v rd]
  | .vjoin _ _ => []
  | .sbind rd _ _ => [.v rd]
  | .sunbind rd => [.v rd]
  | .vldf rd _ => [.v rd]
  | .vstf _ _ => []
  | .vfold _ _ _ => []
  | .mma _ _ _ _ _ _ _ _ => []
  | .mmas _ _ _ _ _ _ _ => []
  | .mzero _ => []
  | .mcvtst _ _ _ => []
  | .cnld _ _ => []
  | .msend _ _ => []
  | .mpop rd => [xr rd]
  | .amxrd rd _ => [xr rd]
  | .amxclr _ => []
  | .amxjoin _ _ => []
  | .mrd rd _ _ => [.v rd]
  | .mwr _ _ _ => []
  | .engineCommandStart _ => []
  | .engineCommandComplete _ => []
  | .msendArrival _ => []
  | .ckAxpy _ _ _ => []
  | .ckScal _ _ _ => []
  | .ckDot _ _ => []
  | .ckMax _ _ => []
  | .ckSmx _ _ _ => []
  | .ckAmax _ _ => []
  | .ckCvt _ _ _ => []
  | .ckFill _ _ _ => []
  | .ckEmpty _ _ => []
  | .ckSum _ _ => []
  | .caskPartExecute _ _ => []
  | .remoteCaskArrival _ => []
  | .cp rd _ _ _ => [xr rd]
  | .cpx rd _ _ _ => [xr rd]
  | .cpj rd _ _ _ => [xr rd]
  | .cpfill rd _ _ _ => [xr rd]
  | .copyPortion _ => []
  | .copyComplete _ => []
  | .emptyWordReadWake _ _ => []
  | .combiningBufferLeave _ _ => []
  | .deferredTrap _ _ => []
  | .reportPost _ => []
  | .reportDelivery _ _ => []
  | .rtailWrite _ _ _ => []
  | .faultBufferRequest _ => []
  | .kfbmsgRead rd => [xr rd]
  | .replayNotice _ => []
  | .flushAck _ => []
  | .clusterBarrierRelease _ => []
  | .barrierRelease _ => []
  | .channelRoomFreed _ _ => []
  | .timedArrival _ => []
  | .routerCombineLeave _ => []
  | .notificationWindow => []
  | .detectorSample => []
  | .quiescenceProbe _ => []
  | .probeRestart _ => []
  | .taskRecordDecode _ _ => []
  | .headLatenessCheck _ _ => []
  | .distributorSelect _ => []
  | .dispatch _ => []
  | .teamCompletion _ => []
  | .taskqAnswer _ _ => []
  | .balancerTick => []
  | .migrationCommand _ => []
  | .preempt _ => []
  | .resume _ _ => []
  | .pressJoin _ => []
  | .pressExactRead _ => []
  | .pressWaitRegister _ => []
  | .pressWaitRetry _ => []
  | .pressRel _ => []
  | .pressCork _ => []
  | .pressFoldAppend _ => []
  | .leaseCountTick => []
  | .leaseLapse _ => []
  | .mcDrainComplete _ => []
  | .mcCallStart _ => []
  | .mcallToken _ => []
  | .mcBundle _ => []
  | .mcAdd _ _ => []
  | .mcSub _ _ => []
  | .mcAnd _ _ => []
  | .mcOr _ _ => []
  | .mcXor _ _ => []
  | .mcShl _ _ => []
  | .mcShr _ _ => []
  | .mcSra _ _ => []
  | .mcMul _ _ => []
  | .mcLtu _ _ => []
  | .mcLt _ _ => []
  | .mcEq _ _ => []
  | .mcMinu _ _ => []
  | .mcMaxu _ _ => []
  | .mcInc _ _ => []
  | .mcDec _ _ => []
  | .mcNot _ _ => []
  | .mcNeg _ _ => []
  | .mcLd _ _ => []
  | .mcLwz _ _ => []
  | .mcSt _ _ => []
  | .mcSw4 _ _ => []
  | .mcLld _ _ => []
  | .mcLst _ _ => []
  | .mcLjoin _ _ => []
  | .mcPw _ _ => []
  | .mcPc _ _ => []
  | .mcBput _ _ => []
  | .mcBget _ => []
  | .mcJmp _ _ => []
  | .mcDone _ _ => []
  | .mcFence _ => []
  | .mcPushArrival _ => []
  | .unitMark _ _ => []
  | .unitDisable _ => []
  | .errorEpochEnd => []
  | .thermalStep _ _ => []
  | .thermalTrip => []
  | .deviceReset => []
  | .selfTest _ _ _ => []
  | .memoryTraining _ _ => []
  | .lineStateZero => []
  | .choingLoad _ _ => []
  | .htailWrite _ => []
  | .hsqTaskEntry => []
  | .hsqPreempt => []
  | .hsqUnfreeze => []
  | .hsqWake => []
  | .hsqReleaseHeld => []
  | .hsqQueueReset => []
  | .hsqMalformed => []
  | .ringLogWrite _ _ => []
  | .dconsWrite _ => []
  | .deqPost => []
  | .hostRead _ _ => []
  | .hostWrite _ _ _ _ => []
  | .backInvalidateResponse _ => []
  | .portDown _ => []
  | .gatewayMergeSend _ => []
  | .devWrite _ => []
  | .regionTableWrite _ _ => []
  | .pktRd _ => []
  | .pktJn _ => []
  | .pktFd _ => []
  | .pktWt _ => []
  | .pktRl _ => []
  | .pktCk _ => []
  | .pktFl _ => []
  | .pktWd _ => []
  | .pktRdr _ => []
  | .pktAns _ => []
  | .pktTkt _ => []
  | .pktNtc _ => []
  | .pktRej _ => []
  | .pktNack _ => []
  | .pktRpt _ => []
  | .pktAck _ => []
  | .pktArv _ => []
  | .pktRls _ => []
  | .pktRck _ => []
  | .pktPrb _ => []
  | .pktIdl _ => []
  | .pktDcl _ => []
  | .illegalInstruction _ => []
  | .instructionFetchFault => []
  | .loadValueReturn _ _ => []
  | .remoteCaskCompletion _ => []
  | .powerOff => []
  | .portTrained _ => []
  | .gatewayAcknowledgement _ => []
  | .hostControlWrite _ _ => []

/-- x0 is never busy. -/
def Dst.isZero : Dst → Bool
  | .x r _ _ => r == 0
  | _ => false

/-- A register of the instruction is busy: it stalls at issue (R76, R209). -/
def Core.busyFor (c : Core) (n : Fin 11) (i : Instr) : Bool :=
  (reads i ++ writes i).any fun d => !d.isZero && c.busy n d

end Sys2Proof.Machine
end

