-- ==== Sys2Proof/Machine/Waiting.lean ====
section
/-! DEFINITION.
Waiting contexts, the all-parked lines of cores and clusters, and the idleness that detectors sample (R346, R404 to R406). -/

namespace Sys2Proof.Machine

open Sys2Proof

/-! ## Contexts (R404) -/

/-- The instruction that a context issues next, when its fetch completes. -/
def State.upcoming (s : State) (ep : Nat) (n : Fin 11) : Option Instr :=
  match ({ s with cur := (ep, n) } : State).fetch with
  | .word _ w => (decode w).toOption
  | .stop _ => none

/-- An entry for an arrival channel is staged, held or in flight. -/
def State.entryComing (s : State) (ep : Nat) (ch : Nat) : Bool :=
  let c := s.core ep
  let to_ (a : Arrival) : Bool := a.ch.val == ch
  c.staged.any to_ || c.wantRoom.any to_ || c.timed.any to_ || c.timedHeld.any to_ ||
    (s.net.any fun m => match m with | .send e a _ _ => e == ep && to_ a | _ => false)

/-- The context is stalled on a read of an empty arrival channel for which nothing is coming. -/
def State.channelStall (s : State) (ep : Nat) (n : Fin 11) : Bool :=
  let x := s.ctxAt ep n
  match s.upcoming ep n with
  | none => false
  | some i => (reads i).any fun d => match d with
    | .v r => (match x.bound r with
      | some b => b.kind == 3 && ((s.core ep).chans[b.base % 8]'(Nat.mod_lt _ (by decide))).isEmpty &&
          !s.entryComing ep (b.base % 8)
      | none => false)
    | _ => false

/-- The context is stalled on a register that the destination of an unreplayed fault ticket holds (R22). -/
def State.ticketStall (s : State) (ep : Nat) (n : Fin 11) : Bool :=
  match s.upcoming ep n with
  | none => false
  | some i => (reads i ++ writes i).any fun d => !d.isZero &&
      (s.core ep).accs.any fun a => a.ctx == n && a.ticketed && a.dst.sameReg d

/-- A context is waiting (R404). -/
def State.waits (s : State) (ep : Nat) (n : Fin 11) : Bool :=
  let x := s.ctxAt ep n
  match x.life with
  | .parked _ => true
  | .waiting _ => true
  | .live => x.hold == .free && (s.channelStall ep n || s.ticketStall ep n)
  | .retired => false

/-! ## Cores (R405) -/

/-- A copy waits on an empty word of its source, or behind a command whose range it overlaps. -/
def State.copyWaits (s : State) (ep : Nat) (q : Copy) : Bool :=
  let a := q.src + w64 q.at_
  s.copyHeld ep q ||
    (q.kind != 4 && aDev a == s.dev && aWin a && (match s.winRead (aEp a) (s.sysLevel ep q.ctx) (aOff a) q.portion
        (2 ^ q.portion - 1) with
      | .empty _ => true
      | _ => false))

/-- The copy engine is idle or waiting on empty words. -/
def State.copyIdle (s : State) (ep : Nat) : Bool :=
  match (s.core ep).cq with
  | [] => true
  | q :: _ => s.copyWaits ep q

/-- The matrix engine is idle or waiting on empty words (R248). -/
def State.matrixIdle (s : State) (ep : Nat) : Bool :=
  let c := s.core ep
  match c.mrun, c.mq with
  | some d, _ => (match d.copying with | some q => s.copyWaits ep q | none => false)
  | none, [] => true
  | none, q :: _ => (q.check c (s.win ep)).isNone && (q.follows ep || !c.allFull q.awaited)

/-- Every cask command waits on empty words, or behind one that does (R282). -/
def State.casksIdle (s : State) (ep : Nat) : Bool :=
  let c := s.core ep
  !(c.casks.zipIdx.any fun p => s.caskReady ep p.2 p.1)

/-- Nothing of a core is on its way to another device or back: no request but a wait that is being waited on there, none whose packet is
unacknowledged, and no join at the gateway (R405, R532). -/
def State.remoteIdle (s : State) (ep : Nat) : Bool :=
  !((s.core ep).accs.any fun a => (a.stage == .remote || a.stage == .orphan) && !a.op.isWait) &&
    !(s.fab.out.any fun p => decide (p.what < 0x10) && p.ep == ep) &&
    !(s.fab.merge.any fun e => e.2.parties.any fun p => p.dev == s.dev && p.ep == ep)

/-- The core raises its all-parked line (R405). -/
def State.allParked1 (s : State) (ep : Nat) : Bool :=
  let c := s.core ep
  (c.alive.all fun n => s.waits ep n) && !c.frozen && s.matrixIdle ep && s.copyIdle ep && s.casksIdle ep &&
    c.cb.isEmpty && !(c.accs.any Acc.ticketed) && s.remoteIdle ep

/-- A gang's members raise the line together (R346). -/
def State.allParked (s : State) (ep : Nat) : Bool := ((s.core ep).teamCores ep).all fun e => s.allParked1 e

/-- The line is raised, or no context of the core is alive (R346, R406). -/
def State.coreIdle (s : State) (ep : Nat) : Bool := (s.core ep).alive.isEmpty || s.allParked ep

/-- A core has arrived at a domain: every context of its team that names the domain waits at its barrier (R345, R390). -/
def State.arrivedAt (s : State) (ep : Nat) (lvl : BitVec 3) (dom : BitVec 16) : Bool :=
  let c := s.core ep
  c.alive.all fun n =>
    let x := c.ctx n
    let k := x.csr.dom.toList.findIdx? fun d => d.v && d.lvl == lvl && d.dom == dom
    match k with
    | none => true
    | some k => (match x.life with
      | .waiting (.bar l) => l.toNat == k && !x.granted
      | _ => false)

/-! ## Clusters (R346) -/

/-- SVC: the service core holds a message queued or in service, or its fault buffer holds an unanswered entry. A message that it has
read is in service until its next read of kfbmsg finds none (R363). -/
def Cluster.busy (c : Cluster) : Bool := !c.msgs.isEmpty || c.serving || c.slots.toList.any fun k => k.st != 0

/-- A message that leaves an entry of the cluster unanswered: a request on its way to the fault buffer, or the all notice of a
REPLAYALL, whose unlisted tickets no notice has answered before it arrives (R346, R380). -/
def Msg.unanswered (dev : BitVec 10) (cl : Nat) : Msg → Bool
  | .request c .. => c == cl
  | .notice _ d true code _ _ => d == dev && (code.extractLsb' 8 7 : BitVec 7).toNat == cl
  | _ => false

/-- SVC (R346). -/
def State.svc (s : State) (cl : Nat) : Bool := (s.cluster cl).busy || s.net.any fun m => m.unanswered s.dev cl

/-- CLINE. -/
def State.cline (s : State) (cl : Nat) : Bool := ((coresOf cl).all s.coreIdle) && !s.svc cl

end Sys2Proof.Machine
end

