-- ==== Sys2Proof/Machine/Csr.lean ====
section
/-! DEFINITION.
The control and status registers: which exist, who may read or write them, and what a read and a write do
(R16 to R20, R83 to R86, R156 to R158, R197 to R199, R205, R262, R333 to R335, R344, R360 to R363, R387, R388, R399,
R410, R411, R436, R437, R495, R529, R530). -/

namespace Sys2Proof.Machine

open Sys2Proof

/-! ## Access rules -/

/-- How a register may be accessed at a level. -/
inductive CsrRule where
  | none | ro | rw
  deriving DecidableEq, Repr

/-- The rule for an address, at app or system level, on a compute core or a service core; addresses that do not exist have
the rule `none` (R84). -/
def csrRule (sys service : Bool) (c : Nat) : CsrRule :=
  let sysOnly (r : CsrRule) : CsrRule := if sys then r else .none
  if c = 0x001 ∨ c = 0x002 ∨ c = 0x003 then .rw
  else if c = 0x7C0 ∨ c = 0x7C6 then (if sys then .rw else .ro)
  else if 0x7C1 ≤ c ∧ c ≤ 0x7C5 then sysOnly .rw
  else if c = 0x7C7 ∨ c = 0x7C8 then .rw
  else if c = 0x7C9 ∨ c = 0x7CA then .ro
  else if 0x7D0 ≤ c ∧ c ≤ 0x7D2 then .ro
  else if 0x7E0 ≤ c ∧ c ≤ 0x7E3 then .rw
  else if c = 0x7E4 then sysOnly .rw
  else if 0x7F0 ≤ c ∧ c ≤ 0x7F2 then .ro
  else if 0x7F3 ≤ c ∧ c ≤ 0x7F7 then sysOnly .ro
  else if c = 0xBC0 ∨ c = 0xBC1 then (if service then .rw else .none)
  else if 0xBC2 ≤ c ∧ c ≤ 0xBC6 then (if service then .ro else .none)
  else if 0xBD0 ≤ c ∧ c ≤ 0xBD3 then .ro
  else if c = 0xBD4 then .rw
  else if 0xBD5 ≤ c ∧ c ≤ 0xBD7 then .ro
  else if 0xBE0 ≤ c ∧ c ≤ 0xBE3 then .ro
  else if 0xBF0 ≤ c ∧ c ≤ 0xBF4 then .ro
  else if c = 0xC00 ∨ c = 0xC01 then .ro
  else if 0xFC0 ≤ c ∧ c ≤ 0xFC2 then .ro
  else .none

/-! ## Values -/

/-- kstatus (R17). -/
def kstatus (n : Fin 11) (c : Csrs) : Word :=
  0#44 ++ BitVec.ofNat 4 n.val ++ 0#6 ++ bit c.tip ++ bit c.pprv ++ 0#7 ++ bit c.prv

/-- kcarve (R157). -/
def Core.kcarve (c : Core) : Word :=
  w64 (c.vbanks * 2 ^ 24 + c.sbanks * 2 ^ 16 + (if c.ftrap then 2 ^ 14 else 0) + c.aqb * 2 ^ 12 + c.hmax * 2 ^ 8 +
    (if c.mx then 2 ^ 6 else 0) + c.l1b)

/-- khelp (R19): HNEXT reads 1, or 0 with no helpers, until an HSTART moves it. -/
def Core.khelp (c : Core) : Word := w64 (c.hnext * 16 + c.hmax)

/-- kgang (R334). -/
def Gang.word (g : Gang) : Word :=
  if g.g then 0#48 ++ g.tmask ++ 0#4 ++ g.shape ++ g.rank ++ 0#3 ++ 1#1 else 0

/-- kgangset (R335). -/
def Gang.setWord (g : Gang) : Word := 0#56 ++ g.shape ++ g.rank ++ BitVec.ofNat 4 (2 ^ g.set.length - 1)

/-- kcluster (R335). -/
def kcluster (ep : Nat) : Word := w64 (clusterOf ep * 256 + (if isCompute ep then crow ep * 4 + ccol ep else 0))

/-- kclpark (R335, R346): a core raises its own line while it holds a context. The register is 0 at reset, before the first cycle,
although a cluster without a context raises its aggregate line (log 130). -/
def State.kclpark (s : State) (cl : Nat) : Word :=
  let up (e : Nat) : Bool := !(s.core e).alive.isEmpty && s.allParked e
  let lines := (coresOf cl).zipIdx.foldl (fun (m : Nat) p => if up p.1 then m + 2 ^ p.2 else m) 0
  if s.cycle = 0 then 0 else
  w64 ((if s.svc cl then 512 else 0) + (if s.cline cl then 256 else 0) + lines)

/-- kclbar0 to kclbar3 (R344). -/
def State.kclbar (s : State) (cl : Nat) (k : Fin 4) : Word :=
  let b := (s.cluster cl).bars[k]
  if !b.valid then 0 else
  let bits (es : List Nat) : Nat := es.foldl (fun (m : Nat) e => m + 2 ^ cpos e) 0
  -- a member whose team is pre-empted stands in the domain as the place of its image, where it has not arrived (R345)
  let now := ((s.domain 1 b.dom).map fun d => b.members.zip d.members).getD []
  let ended := ((s.domain 1 b.dom).map (·.ended)).getD []
  0#16 ++ b.dom ++ 0#14 ++ 1#1 ++ bit b.phase ++ BitVec.ofNat 8 (bits b.members) ++
    BitVec.ofNat 8 (bits ((now.filter fun p => ended.contains p.2 || s.arrivedAt p.2 1 b.dom).map (·.1)))

/-- kdom (R388). -/
def KDom.word (d : KDom) : Word := bit d.v ++ bit d.t ++ d.lvl ++ 0#26 ++ bit d.phase ++ d.dom ++ 0#16

/-- kslot (R399). -/
def State.kslot (s : State) (ep : Nat) (x : Ctx) : Word :=
  let d := x.csr.dom[2]
  if !(d.v && d.t) then 0 else
  match s.domain d.lvl d.dom with
  | none => 0
  | some g =>
    let pos := if d.phase ∧ g.start ≤ s.cycle then (s.cycle - g.start) % (g.plen + 1) else 0
    bit x.csr.late ++ 0#5 ++ BitVec.ofNat 10 g.plen ++ 0#5 ++ bit d.phase ++ BitVec.ofNat 10 pos ++ 0#24 ++
      BitVec.ofNat 8 (g.plan.filter fun r => r.src = ep).length

/-- kqinfo (R411) and kqarm (R410). -/
def Csrs.kqinfo (c : Csrs) : Word := bit c.qActive ++ 0#28 ++ c.qLvl ++ c.qDom ++ c.qNwait
def Csrs.kqarm (c : Csrs) : Word := c.armEntry ++ c.armIdx

/-- kteam (R437). -/
def Team.kteam (t : Team) : Word := 0#22 ++ t.dist ++ t.nteam ++ 0#8 ++ t.rank ++ t.num

/-- klease (R495). -/
def State.klease (s : State) (x : Ctx) (k : Nat) : Word :=
  match mget x.leases k with
  | some e => 1#1 ++ 0#10 ++ BitVec.ofNat 11 e ++ 0#26 ++ (s.mc e).count
  | none => 0

/-- kresid (R495). -/
def Ctx.kresid (x : Ctx) : Word := w64 (x.handles.foldl (fun (m : Nat) h => m + 2 ^ h.1) 0)

/-- The fault-buffer registers (R361, R362), for the slot that kfbsel names. -/
def Cluster.kfbstat (c : Cluster) : Word :=
  let bits (v : BitVec 2) : Nat := c.slots.toList.zipIdx.foldl (fun (m : Nat) p => if p.1.st = v then m + 2 ^ p.2 else m) 0
  w64 ((if c.drop then 65536 else 0) + bits 2 * 256 + bits 1)

def Slot.kfbinfo (k : Slot) (dev : BitVec 10) : Word :=
  k.team ++ 0#11 ++ BitVec.ofNat 5 k.reqs.length ++ 0#12 ++ k.sub ++ 0#3 ++ k.gen ++ k.kind ++ k.acc ++
    bit (k.reqs.any fun r => r.1 != dev) ++ 0#3

def FbMsg.word : FbMsg → Word
  | .slot k => w64 (0x10 + k.val)
  | .dropped => 0x20
  | .released vpn => w64 (vpn * 65536 + 0x30)

/-- The value of a CSR at the context at hand, without the waits and effects of a read of kvstat and kfbmsg. -/
def State.csrValue (s : State) (c : Nat) : Word :=
  let ep := s.cur.1
  let x := s.ctx
  let r := x.csr
  let cl := s.cluster (clusterOf ep)
  let slot := cl.slots[cl.sel]
  let inUse (w : Word) : Word := if slot.st = 0 then 0 else w
  -- while the core is ganged the team CSRs are those of the leader (R331, R332)
  let lead := if s.me.gang.g then s.core (s.me.gang.set.headD ep) else s.me
  let team (f : Team → Word) : Word := match lead.team with | some t => f t | none => 0
  match c with
  | 0x001 => (fld r.fcsr 0 5 : BitVec 5).zeroExtend 64
  | 0x002 => (fld r.fcsr 5 3 : BitVec 3).zeroExtend 64
  | 0x003 => r.fcsr.zeroExtend 64
  | 0x7C0 => kstatus s.cur.2 r
  | 0x7C1 => causeWord r.async r.code
  | 0x7C2 => r.epc ++ 0#2
  | 0x7C3 => r.tval
  | 0x7C4 => r.tvec ++ 0#2
  | 0x7C5 => r.scratch
  | 0x7C6 => r.gset.zeroExtend 64
  | 0x7C7 => r.seed
  | 0x7C8 => r.sigidx.zeroExtend 64
  | 0x7C9 => fld x.sig (64 * r.sigidx.toNat) 64
  | 0x7CA => s.me.khelp
  | 0x7D0 => s.me.kcarve
  | 0x7D1 => s.win ep
  | 0x7D2 => s.me.sync
  | 0x7E0 => r.vstat.zeroExtend 64
  | 0x7E1 => 0#60 ++ bit r.men ++ r.midx
  | 0x7E2 => 0#59 ++ bit r.amaxEn ++ r.amaxIdx
  | 0x7E3 => r.rnd.zeroExtend 64
  | 0x7E4 => s.me.kmcap
  | 0x7F0 => s.me.gang.word
  | 0x7F1 => kcluster ep
  | 0x7F2 => s.me.gang.setWord
  | 0x7F3 => s.kclpark (clusterOf ep)
  | 0x7F4 => s.kclbar (clusterOf ep) 0
  | 0x7F5 => s.kclbar (clusterOf ep) 1
  | 0x7F6 => s.kclbar (clusterOf ep) 2
  | 0x7F7 => s.kclbar (clusterOf ep) 3
  | 0xBC0 => cl.kfbstat
  | 0xBC1 => w64 cl.sel.val
  | 0xBC2 => inUse (w64 (slot.vpn * 65536))
  | 0xBC3 => inUse (slot.kfbinfo s.dev)
  | 0xBC5 => inUse (if slot.kind = 2 then slot.map else 0)
  | 0xBC6 => inUse (if slot.kind = 2 then slot.ownw else 0)
  | 0xBD0 => (r.dom[0]).word
  | 0xBD1 => (r.dom[1]).word
  | 0xBD2 => (r.dom[2]).word
  | 0xBD3 => (r.dom[3]).word
  | 0xBD4 => s.kslot ep x
  | 0xBD5 => r.kqinfo
  | 0xBD6 => r.qpc
  | 0xBD7 => r.kqarm
  | 0xBE0 => team Team.kteam
  | 0xBE1 => team (·.deadline)
  | 0xBE2 => team fun t => wBool t.rt
  | 0xBE3 => team (·.late)
  | 0xBF0 => s.klease x 0
  | 0xBF1 => s.klease x 1
  | 0xBF2 => s.klease x 2
  | 0xBF3 => s.klease x 3
  | 0xBF4 => x.kresid
  | 0xC00 => w64 s.cycle
  | 0xC01 => w64 s.time
  | 0xFC0 => bit s.fab.aen ++ 0#53 ++ s.dev
  | 0xFC1 => w64 s.epoch
  | 0xFC2 => w64 (s.fab.up.foldl (fun (m : Nat) p => m + 2 ^ p.val) 0)
  | _ => 0

/-! ## Writes -/

/-- The context's registers after a write. -/
def Csrs.put (r : Csrs) (c : Nat) (w : Word) : Csrs :=
  match c with
  | 0x001 => { r with fcsr := fld r.fcsr 5 3 ++ fld w 0 5 }
  | 0x002 => { r with fcsr := fld w 0 3 ++ fld r.fcsr 0 5 }
  | 0x003 => { r with fcsr := fld w 0 8 }
  | 0x7C0 => { r with pprv := w.getLsbD 8 }
  | 0x7C1 => { r with async := w.getLsbD 63, code := fld w 0 6 }
  | 0x7C2 => { r with epc := fld w 2 62 }
  | 0x7C3 => { r with tval := w }
  | 0x7C4 => { r with tvec := fld w 2 62 }
  | 0x7C5 => { r with scratch := w }
  | 0x7C6 => { r with gset := fld w 0 4 }
  | 0x7C7 => { r with seed := w }
  | 0x7C8 => { r with sigidx := fld w 0 4 }
  | 0x7E0 => { r with vstat := fld w 0 5 }
  | 0x7E1 => { r with men := w.getLsbD 3, midx := fld w 0 3 }
  | 0x7E2 => { r with amaxEn := w.getLsbD 4, amaxIdx := fld w 0 4 }
  | 0x7E3 => { r with rnd := fld w 0 2 }
  | 0xBD4 => { r with late := r.late && !w.getLsbD 63 }
  | _ => r

/-- A write at the context at hand of a register that it may write; read-only fields and zero bits keep their values (R83).
-/
def State.csrPut (s : State) (c : Nat) (w : Word) : State :=
  let cl := clusterOf s.cur.1
  match c with
  | 0x7E4 => s.setMe { s.me with kmcap := fld w 32 32 ++ 0#27 ++ fld w 0 5 }
  | 0xBC0 => if w.getLsbD 16 then s.setCluster cl { s.cluster cl with drop := false } else s
  | 0xBC1 => s.setCluster cl { s.cluster cl with sel := ⟨w.toNat % 8, Nat.mod_lt _ (by decide)⟩ }
  | _ => s.setCtx { s.ctx with csr := s.ctx.csr.put c w }

/-! ## Reads that wait or have an effect -/

/-- The context's vector instructions, cask commands and copies have retired, so that kvstat may be read (R199). A copy that
has failed, and a portion of it, count until they leave. -/
def State.vstatReady (s : State) (ep : Nat) (n : Fin 11) : Bool :=
  !((s.core ep).accs.any fun a => a.ctx == n && (match a.op with
      | .vload .. => true
      | .vstore .. => true
      | .vfold .. => true
      | .vstf => true
      | .copy _ => true
      | _ => false)) &&
    !((s.core ep).cq.any fun q => q.by_ n) &&
    !(s.cores.any fun k => k.2.casks.any fun q => q.by_ ep n) &&
    !(s.net.any fun m => match m with
      | .cask _ q => q.by_ ep n
      | .caskDone q _ _ => q.by_ ep n
      | _ => false)

/-- The state of a stalled read: a service core whose read of kfbmsg finds no message serves none (R363). -/
def State.csrStall (s : State) (c : Nat) : State :=
  let cl := clusterOf s.cur.1
  if c = 0xBC4 then s.setCluster cl { s.cluster cl with serving := false } else s

/-- The state after a read with its value, or none where the read stalls. -/
def State.csrRead (s : State) (c : Nat) : Option (State × Word) :=
  let cl := clusterOf s.cur.1
  match c with
  | 0x7E0 => if s.vstatReady s.cur.1 s.cur.2 then some (s, s.csrValue c) else none
  | 0xBC4 =>
    (match (s.cluster cl).msgs with
     | [] => none
     | m :: rest =>
       let k := ({ s.cluster cl with msgs := rest, serving := true } : Cluster).admitReleased
       let k := match m with
         | .slot i => { k with slots := k.slots.set i { k.slots[i] with st := 2 } }
         | _ => k
       some (s.setCluster cl k, m.word))
  | _ => some (s, s.csrValue c)

/-! ## The instructions (R83) -/

/-- A CSR instruction: whether it reads and writes, and the new value from the old one. -/
def csrOp (rd : Reg) (csr : BitVec 12) (rdOld writes : Bool) (new : Word → Word) (s : State) : Res :=
  let c := csr.toNat
  let rule := csrRule s.ctx.csr.prv (isService s.cur.1) c
  if rule = .none ∨ (writes ∧ rule ≠ .rw) then illegal s
  else if !rdOld then retire (s.csrPut c (new 0))
  else
    match s.csrRead c with
    | none => stall (s.csrStall c)
    | some (t, old) =>
      let t := if writes then t.csrPut c (new old) else t
      wrX rd old t

/-- CSRRW. -/
def execCsrrw (rd rs1 : Reg) (csr : BitVec 12) (s : State) : Res := csrOp rd csr (rd != 0) true (fun _ => s.x rs1) s

/-- CSRRS. -/
def execCsrrs (rd rs1 : Reg) (csr : BitVec 12) (s : State) : Res :=
  csrOp rd csr true (rs1 != 0) (fun old => old ||| s.x rs1) s

/-- CSRRC. -/
def execCsrrc (rd rs1 : Reg) (csr : BitVec 12) (s : State) : Res :=
  csrOp rd csr true (rs1 != 0) (fun old => old &&& ~~~s.x rs1) s

/-- CSRRWI. -/
def execCsrrwi (rd : Reg) (uimm : BitVec 5) (csr : BitVec 12) (s : State) : Res :=
  csrOp rd csr (rd != 0) true (fun _ => uimm.zeroExtend 64) s

/-- CSRRSI. -/
def execCsrrsi (rd : Reg) (uimm : BitVec 5) (csr : BitVec 12) (s : State) : Res :=
  csrOp rd csr true (uimm != 0) (fun old => old ||| uimm.zeroExtend 64) s

/-- CSRRCI. -/
def execCsrrci (rd : Reg) (uimm : BitVec 5) (csr : BitVec 12) (s : State) : Res :=
  csrOp rd csr true (uimm != 0) (fun old => old &&& ~~~(uimm.zeroExtend 64)) s

/-- CSR_WRITE (R85): the effect of a write on the register, for the context's next instruction; a write that the rules forbid
is cause 2. -/
def execCsrWrite (csr : BitVec 12) (v : Word) (s : State) : Res :=
  if csrRule s.ctx.csr.prv (isService s.cur.1) csr.toNat = .rw then .next (s.csrPut csr.toNat v) else illegal s

/-- KVSTAT_READ (R199): the read waits for the context's work, and then returns the flags. -/
def execKvstatRead (rd : Reg) (s : State) : Res :=
  if s.vstatReady s.cur.1 s.cur.2 then wrX rd (s.ctx.csr.vstat.zeroExtend 64) s else stall s

/-- KFBMSG_READ (R363): the oldest message, or a stall; on a compute core the register does not exist (R360). -/
def execKfbmsgRead (rd : Reg) (s : State) : Res := csrOp rd 0xBC4 true false id s

end Sys2Proof.Machine
end

