-- ==== Sys2Proof/Machine/Fence.lean ====
section
/-! DEFINITION.
FENCE, FENCE.TSO, FENCE.I and FENCE.S (R78 to R80, R314 to R317), and the SC announcements (R402, R403). -/

namespace Sys2Proof.Machine

open Sys2Proof

/-- An SC-class operation of the context at hand is announced in the window at hand (R402). -/
def State.announce (s : State) (ep : Nat) (n : Fin 11) (k : ScKind) : State :=
  { s with sc := s.sc ++ [⟨s.cycle / 32, ep, n, k⟩] }

/-- Every earlier read and observation of the context has returned (R315). -/
def State.readsBack (s : State) (ep : Nat) (n : Fin 11) : Bool :=
  !((s.core ep).accs.any fun a => a.ctx == n && a.op.need == .read)

/-- FENCE.S of a scope with its flags (R315). A release of every scope but 0 waits until all that the context has issued is
performed; an acquire alone waits for its reads. -/
def fence (sc rel acq : Bool) (scope : BitVec 3) (s : State) : Res :=
  let all := sc || (!rel && !acq)
  if scope = 0 then retire s
  else if (acq || all) && s.flushPending s.cur.1 then stall s
  else if rel ∨ all then
    let r := s.relStep
    if !r.2 then stallIn r.1
    else if sc then .next ((r.1.holdOn .sc).announce s.cur.1 s.cur.2 .fence)
    else retire r.1
  else if s.readsBack s.cur.1 s.cur.2 then retire s else stall s

/-- FENCE.S: SC with a scope below 4, and scopes 6 and 7, are illegal (R316). -/
def execFenceS (sc rel acq : BitVec 1) (scope : BitVec 3) (s : State) : Res :=
  if scope.toNat ≥ 6 ∨ (sc = 1 ∧ scope.toNat < 4) then illegal s
  else fence (sc == 1) (rel == 1) (acq == 1) scope s

/-- FENCE (R80): with both sets, `fence.s sys, acq+rel`; otherwise it orders nothing. -/
def execFence (pred succ : BitVec 4) (s : State) : Res :=
  if pred = 0 ∨ succ = 0 then retire s else fence false true true 5 s

/-- FENCE.TSO (R80). -/
def execFenceTso (s : State) : Res := fence false true true 5 s

/-- FENCE.I (R78): a fetch of this model reads memory at its issue, with the context's own stores, so nothing fetched earlier
is discarded; its entries of the combining buffer stay visible to its fetches. -/
def execFenceI (s : State) : Res := retire s

end Sys2Proof.Machine
end

