-- ==== Sys2Proof/Machine/Barrier.lean ====
section
/-! DEFINITION.
Barriers: BAR, the racking of a phase, the placing of sent entries, the release of a domain at every level
(R129, R130, R345, R390 to R392, R395, R473, R552), and the SC announcements' window (R403). -/

namespace Sys2Proof.Machine

open Sys2Proof

/-! ## Domains -/

/-- A member core whose team has not completed. -/
def Domain.live (d : Domain) : List Nat := d.members.filter fun e => !d.ended.contains e

/-- The place of a domain among a context's kdom registers. -/
def Ctx.level (x : Ctx) (lvl : BitVec 3) (dom : BitVec 16) : Option Nat :=
  x.csr.dom.toList.findIdx? fun d => d.v && d.lvl == lvl && d.dom == dom

/-- A context waits at the barrier of a domain, which has not released it. -/
def Ctx.atBar (x : Ctx) (d : Domain) : Bool :=
  !x.granted && (match x.life with
    | .waiting (.bar _) => (x.level d.lvl d.dom).isSome
    | _ => false)

/-- Every member core of this device has arrived (R345, R390), and a context of one of them at least waits. -/
def State.allArrived (s : State) (d : Domain) : Bool :=
  (d.live.all fun e => s.arrivedAt e d.lvl d.dom) && d.live.any fun e => allCtx.any fun n => (s.ctxAt e n).atBar d

/-- The member cores that have arrived: a core whose team has completed counts (R345, R392). -/
def State.arrivals (s : State) (d : Domain) : Nat := (d.members.filter fun e => d.ended.contains e || s.arrivedAt e d.lvl d.dom).length

/-- Entries of the domain that wait for room, and timed entries that are not delivered (R390). -/
def State.entriesWait (s : State) (d : Domain) : Bool :=
  let of_ (a : Arrival) : Bool := a.lvl == d.lvl && a.dom == d.dom
  (s.cores.any fun c => c.2.wantRoom.any of_ || c.2.timed.any of_ || c.2.timedHeld.any of_) ||
    s.net.any fun m => match m with | .send _ a _ _ => of_ a | _ => false

/-! ## Racking (R129, R130, R473) -/

def LeesRec.of_ (r : LeesRec) (d : Domain) : Bool := r.lvl == d.lvl && r.dom == d.dom && r.phase == d.phase

/-- The records that the domain appended in the phase, and their appenders. -/
def Domain.count (d : Domain) : Nat := if d.phase then d.count1 else d.count0
def Domain.appended (d : Domain) : List Party := if d.phase then d.appended1 else d.appended0

/-- Every line with records of the phase is racked. -/
def State.rackAll (s : State) (d : Domain) : State :=
  let mine := s.lees.filter fun r => r.of_ d
  (mine.foldl (fun (l : List Nat) r => insertNat l r.line) []).foldl (fun (s : State) line => s.rackLine line fun r => r.of_ d) s

/-- The records of the phase are discarded, and every context that appended one receives cause 34 with the domain's count of the phase
(R129). The unit of its
record is the slice of the lowest line that held a record of the context (log 22). -/
def State.discardAll (s : State) (d : Domain) (total : Nat) : State :=
  let mine := s.lees.filter fun r => r.of_ d
  let s := { s with lees := s.lees.filter fun r => !r.of_ d }
  d.appended.foldl (fun (s : State) p =>
    let lines := (mine.filter fun r => r.who = p).foldl (fun (l : List Nat) r => insertNat l r.line) []
    s.reportTo p (if d.lvl = 4 then d.dom else 0) (mkRecord 34 p.ctx 0 0 s.dev 0 (homeSlice (lines.headD 0))
      (w64 (d.lvl.toNat * 65536 + d.dom.toNat)) (w64 total) false)) s

/-- The phase's lines are racked, or its records, `total` in the whole domain, discarded. -/
def State.endPhase (s : State) (d : Domain) (rack : Bool) (total : Nat) : State :=
  let s := if rack then s.rackAll d else s.discardAll d total
  s.modDomain d.lvl d.dom fun g => if d.phase then { g with count1 := 0, appended1 := [] } else { g with count0 := 0, appended0 := [] }

/-! ## Entries (R395) -/

/-- The order of a channel's staged entries: sender endpoint, sender context, program order. -/
def Arrival.before (a b : Arrival) : Bool :=
  a.ep < b.ep || (a.ep == b.ep && (a.ctx < b.ctx || (a.ctx == b.ctx && a.seq < b.seq)))

def insertArrival (a : Arrival) : List Arrival → List Arrival
  | [] => [a]
  | b :: rest => if a.before b then a :: b :: rest else b :: insertArrival a rest

/-- An entry is appended to its channel. -/
def Core.append (c : Core) (a : Arrival) : Core := { c with chans := c.chans.set a.ch (c.chans[a.ch] ++ [a.data]) }

/-- Room for one more entry: readable and staged entries together count against the capacity. -/
def Core.hasRoom (c : Core) (ch : Fin 8) : Bool :=
  decide ((c.chans[ch]).length + (c.staged.filter fun a => a.ch = ch).length < 16 * c.aqb)

/-- At the release the staged entries of the domain are appended. -/
def State.appendStaged (s : State) (d : Domain) : State :=
  let of_ (a : Arrival) : Bool := a.lvl == d.lvl && a.dom == d.dom
  d.members.foldl (fun (s : State) e =>
    let c := s.core e
    let mine := (c.staged.filter of_).foldl (fun (l : List Arrival) a => insertArrival a l) []
    let s := s.setCore e (mine.foldl Core.append { c with staged := c.staged.filter fun a => !of_ a })
    mine.foldl (fun (s : State) _ => s.wake (stackOf e)) s) s

/-! ## Release (R345, R390, R391) -/

/-- A waiting context of the domain goes on: pc := pc + 4, PHASE inverted, a quiescence handler of the domain is over (R411). -/
def Ctx.released (x : Ctx) (k : Nat) : Ctx :=
  if h : k < 4 then
    let r := x.csr
    let g := r.dom[k]
    { x with
      life := .live, hold := .free, cursor := 0, pc := x.pc + 4
      csr := { r with
        dom := r.dom.set k { g with phase := !g.phase }
        qActive := r.qActive && !(r.qLvl == g.lvl && r.qDom == g.dom) } }
  else x

/-- A context whose barrier has released goes on: at once, or when the host unfreezes its core (R24). -/
def State.releaseCtx (s : State) (e : Nat) (n : Fin 11) (k : Nat) : State :=
  s.modCtx e n fun x => if (s.core e).frozen then { x with granted := true } else { x.released k with granted := false }

/-- What a context of a core that goes on has missed: the release of the barrier at which it waits, or the end of the instruction that
held it (R24). -/
def Ctx.goOn (x : Ctx) : Ctx :=
  match x.life, x.hold with
  | .waiting (.bar l), _ => if x.granted then { x.released l.toNat with granted := false } else x
  | _, .told rd v => x.endHold rd v
  | _, _ => x

/-- The same, with an HWAIT whose helper has ended, which issues again (R28), and the outcome of an instruction at which it is held. -/
def State.catchUp (s : State) (ep : Nat) (n : Fin 11) : State :=
  let s := s.modCtx ep n Ctx.goOn
  let s := match (s.ctxAt ep n).life with
    | .parked (.hwait k) => if (s.ctxAt ep k).alive then s else s.modCtx ep n fun x => { x with life := .live }
    | _ => s
  match (s.ctxAt ep n).hold with
  | .exact g => s.settle ep g
  | .gen g => s.settle ep g
  | _ => s

/-- The domain is released on this device: a wake event at each die that holds a member (R406). -/
def State.release1 (s : State) (d : Domain) : State :=
  let s := s.appendStaged d
  let s := d.live.foldl (fun (s : State) e => allCtx.foldl (fun (s : State) n =>
    match (s.ctxAt e n).atBar d, (s.ctxAt e n).level d.lvl d.dom with
    | true, some k => s.releaseCtx e n k
    | _, _ => s) s) s
  let s := s.modDomain d.lvl d.dom fun g => { g with
    phase := !g.phase
    start := s.cycle + 16
    declared := false
    plan := g.plan.map fun r => { r with used := 0 }
    arrived := [], held4 := false, tries := 0, counts := [], finished := [], overs := [], step := 0
    wave := 0, answers := [], first := [], failedAt := none }
  let s := if d.lvl = 1 then
      -- the slot of the domain is that of its cluster, wherever its members' images are (R344, R345)
      { s with clusters := s.clusters.map fun (c : Nat × Cluster) => (c.1, { c.2 with bars := c.2.bars.map fun b =>
          if b.valid ∧ b.dom = d.dom then { b with phase := !b.phase } else b }) }
    else s
  (d.live.map stackOf).eraseDups.foldl (fun (s : State) die => s.wake die) s

/-- Everything that the release of a domain of one device waits for: the members of a cluster's barrier slot (R345), or NCORE member
cores (R390), and one context at least to release. -/
def State.barrierReady (s : State) (d : Domain) : Bool :=
  (if d.lvl = 1 then s.allArrived d
   else decide (d.ncore ≤ s.arrivals d) && d.live.any fun e => allCtx.any fun n => (s.ctxAt e n).atBar d) && !s.entriesWait d

/-! ## Level 4 (R552) -/

/-- A control packet of a fabric domain. -/
def State.control (s : State) (to_ : BitVec 10) (what kind : Nat) (d : Domain) (value aux : Word) : State :=
  s.send { blankPacket with what := what, dst := to_, fdom := d.dom, kind := kind, value := value, aux := aux }

def State.others (s : State) (d : Domain) : List (BitVec 10) := (d.arrived.map (·.1)).filter fun e => e ≠ s.dev

/-- The coordinator takes the arrival of a device back (R392), at any moment before the release: what it has asked of the devices is
asked again, under a new number, once every member has arrived (log 68). -/
def State.unarrive (s : State) (d : Domain) (dev : BitVec 10) : State :=
  s.setDomain { d with
    arrived := d.arrived.filter fun a => a.1 ≠ dev, overs := d.overs.filter fun e => e ≠ dev, step := 0, counts := [], finished := []
    tries := if d.step = 0 then d.tries else d.tries + 1 }

/-- An ARV of a device: its count, 0 to take its arrival back, with the phase (R392, R552; log 68). -/
def State.arv (s : State) (d : Domain) (n : Nat) (last : Bool) : State :=
  s.control d.coord 0x21 (if d.phase then 1 else 0) d (w64 n) (if last then 1 else 0)

/-- Every member core that this device holds has arrived at a level-4 barrier: a core whose team has completed counts, and so does a
device all of whose teams have (R345, R552). -/
def State.arrived4 (s : State) (d : Domain) : Bool := d.live.isEmpty || s.allArrived d

/-- The counts of the arrivals have reached NCORE (R552). -/
def Domain.full4 (d : Domain) : Bool := decide ((d.arrived.map (·.2)).sum = d.ncore ∧ d.ncore ≠ 0)

/-- The domain is over: every member team has completed, and it leaves every device (R389; log 105). -/
def State.endDomain4 (s : State) (d : Domain) : State := { s with domains := s.domains.filter fun g => !(g.lvl == 4 && g.dom == d.dom) }

/-- The next part of a level-4 barrier on this device; none where nothing can be done. A release that a member's withdrawal holds back
comes when every member has arrived again. An ARV of a device whose member teams have all
completed says so, and with such an ARV of every device the release ends the domain (log 105). -/
def State.fabricBarrier (s : State) (d : Domain) : Option State :=
  let mine := d.arrived.any fun a => a.1 == s.dev
  let last := d.live.isEmpty
  if d.held4 then (if s.arrived4 d then some (s.release1 d) else none)
  else if !mine ∧ s.arrived4 d ∧ !s.entriesWait d then
    let n := d.members.length
    let s := s.setDomain { d with
      arrived := d.arrived ++ [(s.dev, n)], overs := if last then d.overs ++ [s.dev] else d.overs }
    some (if d.coord = s.dev then s else s.arv d n last)
  else if mine ∧ !s.arrived4 d then
    -- a member has withdrawn its arrival (R392); one that has completed since leaves the ARV as it stands (R553)
    some (if d.coord = s.dev then s.unarrive d s.dev else (s.setDomain { d with arrived := [], overs := [] }).arv d 0 false)
  else if d.coord ≠ s.dev then none
  else if d.step = 0 then
    if d.full4 ∧ d.arrived.all (fun a => d.overs.contains a.1) then
      some (((s.others d).foldl (fun (s : State) e => s.control e 0x22 1 d 0 0) s).endDomain4 d)
    else if d.full4 then
      let s := s.setDomain { d with step := 1, counts := [(s.dev, d.count)] }
      some ((s.others d).foldl (fun (s : State) e => s.control e 0x23 0 d 0 (w64 d.tries)) s)
    else none
  else if d.step = 1 then
    if d.counts.length = d.arrived.length then
      let total := (d.counts.map (·.2)).sum
      let rack := decide (total ≤ d.quota)
      let s := (s.setDomain { d with step := 2, finished := [s.dev] }).endPhase d rack total
      some ((s.others d).foldl (fun (s : State) e => s.control e 0x23 (if rack then 2 else 3) d (w64 total) (w64 d.tries)) s)
    else none
  else if d.finished.length = d.arrived.length then
    let s := (s.others d).foldl (fun (s : State) e => s.control e 0x22 0 d 0 0) s
    some (s.release1 d)
  else none

/-- BARRIER_RELEASE (R390, R552): the domain at a place of the table is racked and released, or the next part of a level-4
barrier is done. -/
def execBarrierRelease (k : Nat) (s : State) : Res :=
  match s.domains[k]? with
  | none => .next s
  | some d =>
    if d.lvl = 4 then .next ((s.fabricBarrier d).getD s)
    else if !s.barrierReady d then .next s
    else .next ((s.endPhase d (decide (d.count ≤ d.quota)) d.count).release1 d)

/-- CLUSTER_BARRIER_RELEASE (R345): the same for a cluster's barrier unit. -/
def execClusterBarrierRelease (k : Nat) (s : State) : Res :=
  match s.domains[k]? with
  | none => .next s
  | some d =>
    if d.lvl ≠ 1 ∨ !s.barrierReady d then .next s
    else .next ((s.endPhase d (decide (d.count ≤ d.quota)) d.count).release1 d)

/-! ## BAR (R391) -/

/-- BAR: a release at the domain's scope, a place in the SC order for an untimed domain, and the wait at the barrier. -/
def execBar (lvl : BitVec 5) (s : State) : Res :=
  if h : lvl.toNat < 4 then
    let d := s.ctx.csr.dom[lvl.toNat]
    if !d.v then trap 2 (lvl.zeroExtend 64) s
    else if s.flushPending s.cur.1 then stall s
    else
      let r := s.relStep
      if !r.2 then stallIn r.1
      else if d.t then .next (r.1.park (.waiting (.bar (fld lvl 0 2))))
      else .next ((r.1.holdOn .sc).announce s.cur.1 s.cur.2 (.bar (fld lvl 0 2)))
  else illegal s

/-- A context whose announcement of a BAR has been delivered waits at the barrier. -/
def State.barPlaced (s : State) (ep : Nat) (n : Fin 11) (lvl : BitVec 2) : State :=
  s.modCtx ep n fun x => { x with life := .waiting (.bar lvl), hold := .free }

end Sys2Proof.Machine
end

