-- ==== Sys2Proof/Machine/Carve.lean ====
section
/-! DEFINITION.
CARVE (R159 to R163) and the gangs: GANG, SPLIT and their rendezvous (R330 to R338). -/

namespace Sys2Proof.Machine

open Sys2Proof

/-! ## Descriptors (R160) -/

/-- A carve-out. -/
structure CarveDesc where
  l1b : Nat
  mx : Bool
  hmax : Nat
  aqb : Nat
  ftrap : Bool
  sync : Word

def CarveDesc.vbanks (d : CarveDesc) : Nat := (1 + d.hmax + 3) / 4
def CarveDesc.sbanks (d : CarveDesc) : Nat := 64 - d.l1b - (if d.mx then 8 else 0) - d.vbanks - d.aqb

/-- The descriptor and mask of R160; none when they are not well formed. -/
def carveDesc (desc mask : Word) : Option CarveDesc :=
  let d : CarveDesc := ⟨(fld desc 0 6).toNat, desc.getLsbD 6, (fld desc 8 4).toNat, (fld desc 12 2).toNat, desc.getLsbD 14, mask⟩
  if fld desc 15 49 ≠ (0 : BitVec 49) ∨ desc.getLsbD 7 ∨ d.aqb > 2 ∨ d.l1b < 16 ∨ d.l1b > 32 ∨ d.hmax > 10 ∨
      mask.toNat / 2 ^ d.sbanks ≠ 0 then none
  else some d

/-- A core with a carve-out in force, what it holds kept (R161: the array's contents are changed by `recarve`). -/
def Core.setCarve (c : Core) (d : CarveDesc) : Core :=
  { c with
    ftrap := d.ftrap, aqb := d.aqb, hmax := d.hmax, mx := d.mx, l1b := d.l1b, sync := d.sync
    hnext := if d.hmax ≥ 1 then 1 else 0 }

/-! ## CARVE at issue (R159, R160) -/

/-- CARVE: in a gang the leader's descriptor and mask apply, and HMAX has to be 0 (R339). -/
def execCarve (rd rs1 rs2 : Reg) (s : State) : Res :=
  if s.cur.2 ≠ 0 then illegal s
  else
    let desc := s.leaderX rs1
    let mask := s.leaderX rs2
    match carveDesc desc mask with
    | none => trap 24 0 s
    | some d =>
      if s.me.gang.g ∧ d.hmax ≠ 0 then trap 24 0 s
      else
        let r := s.relStep
        if !r.2 then stallIn r.1 else .next (r.1.park (.waiting (.carve rd desc mask)))

/-! ## The drain (R161) -/

/-- A command, cask or message comes from a core of a team. -/
def inTeam (team : List Nat) (ep : Nat) : Bool := team.contains ep

/-- The commands of a team, on any core, and its copies have ended; so have the commands of other cores that its engines have
queued (R268). -/
def State.teamDrained (s : State) (team : List Nat) : Bool :=
  (team.all fun e =>
    let c := s.core e
    c.cq.isEmpty && c.mq.isEmpty && c.mrun.isNone && (c.alive.all fun n => (c.ctx n).pushed == 0)) &&
    !(s.cores.any fun c =>
      (c.2.mq.any fun q => inTeam team q.ep) ||
      (match c.2.mrun with | some d => inTeam team d.cmd.ep | none => false) ||
      (c.2.casks.any fun k => inTeam team k.ep)) &&
    !(s.net.any fun m => match m with
      | .msend _ q _ => inTeam team q.ep
      | .cask _ k => inTeam team k.ep
      | .caskDone k _ _ => inTeam team k.ep
      | _ => false)

/-- Every combining-buffer entry of a team is sent on. -/
def State.sendOn (s : State) (team : List Nat) : State :=
  team.foldl (fun (s : State) e => s.cbDrain e fun _ => true) s

/-! ## The reconfiguration (R161, R162) -/

/-- Refusal() of R162. -/
def State.carveRefusal (s : State) (team : List Nat) (d : CarveDesc) : Nat :=
  let cs := team.map s.core
  if cs.any fun c => c.alive.any fun n => decide (n.val > d.hmax) then 1
  else if !d.mx && cs.any fun c => c.mx && c.alive.any fun n => !(c.ctx n).done.isEmpty then 2
  else if cs.any fun c => decide (c.aqb ≠ d.aqb) && c.alive.any fun n => (c.ctx n).streams.any fun b => b.2.kind == 3 then 3
  else if decide (team.length > 1) && !d.mx then 4
  else 0

/-- The first `n` elements with a property stay, and with them every element without it; the rest is returned apart. -/
def keepFirst {α : Type} (p : α → Bool) : Nat → List α → List α × List α
  | _, [] => ([], [])
  | n, a :: rest =>
    if !p a then let r := keepFirst p n rest; (a :: r.1, r.2)
    else match n with
      | 0 => let r := keepFirst p 0 rest; (r.1, a :: r.2)
      | k + 1 => let r := keepFirst p k rest; (a :: r.1, r.2)

/-- A channel under a new capacity: the oldest entries stay, the discarded ones are counted (R169), and staged entries
without room wait at the port again. -/
def Core.cutChannel (c : Core) (cap : Nat) (ch : Fin 8) : Core :=
  let q := c.chans[ch]
  let lost := q.length - cap
  let n := (c.disc[ch]).toNat + lost
  let r := keepFirst (fun (a : Arrival) => a.ch == ch) (cap - min cap q.length) c.staged
  { c with
    chans := c.chans.set ch (q.take cap)
    disc := c.disc.set ch (if n ≥ 2 ^ 32 then BitVec.allOnes 32 else BitVec.ofNat 32 n)
    staged := r.1
    wantRoom := r.2 ++ c.wantRoom }

/-- A core under a new carve-out: what the array keeps, clears and empties (R161). -/
def Core.recarve (c : Core) (d : CarveDesc) : Core :=
  let keep := min c.sbanks d.sbanks
  let stays (off : Nat) : Bool := decide (off / 65536 < keep)
  let c1 := { c with
    z := if c.mx && d.mx then c.z else []
    pad := c.pad.filter fun e => stays e.1
    padErr := c.padErr.filter stays
    full := c.full.filter fun w => stays (4 * w) && c.sync.getLsbD (w / 16384) && d.sync.getLsbD (w / 16384) }
  let fins : List (Fin 8) := [0, 1, 2, 3, 4, 5, 6, 7]
  let c2 := if d.aqb < c.aqb then fins.foldl (fun (c : Core) ch => c.cutChannel (16 * d.aqb) ch) c1 else c1
  c2.setCarve d

/-- Every dirty OWN line of a core goes home, and its L1 is empty. -/
def State.emptyL1 (s : State) (ep : Nat) : State :=
  (s.core ep).l1.foldl (fun (s : State) (l : Nat × L1Line) => s.writeBack ep l.1) s

/-- One core of the team takes the new carve-out. -/
def State.recarve (s : State) (ep : Nat) (d : CarveDesc) : State :=
  let s := if (s.core ep).l1b ≠ d.l1b then s.emptyL1 ep else s
  s.modCore ep fun c => c.recarve d

/-- Context 0 ends its CARVE with a status. -/
def Ctx.endCarve (x : Ctx) (rd : Reg) (st : Nat) : Ctx := (x.wx rd (w64 st)).released 0

/-- Every non-retired helper has arrived at the team barrier. -/
def Core.helpersArrived (c : Core) : Bool :=
  c.alive.all fun n => n == 0 || (c.ctx n).life == .waiting (.bar 0)

/-- CARVE_RECONFIGURE (R161): the helpers have arrived and the drain has ended: the phase ends, the carve is refused or
applied, and the barrier is released. -/
def execCarveReconfigure (ep : Nat) (s : State) : Res :=
  let team := (s.core ep).teamCores ep
  let lead := team.headD ep
  let carving (e : Nat) : Option Reg := match (s.ctxAt e 0).life with | .waiting (.carve rd _ _) => some rd | _ => none
  match (s.ctxAt lead 0).life with
  | .waiting (.carve _ desc mask) =>
    if !(team.all fun e => (carving e).isSome && (s.core e).helpersArrived && !(s.core e).frozen) ∨ !s.teamDrained team then .next s
    else
      match carveDesc desc mask, s.domain 0 (s.ctxAt lead 0).csr.dom[0].dom with
      | some d, some g =>
        if s.entriesWait g then .next s
        else
          let s := s.sendOn team
          let st := s.carveRefusal team d
          let s := s.endPhase g (decide (g.count ≤ g.quota)) g.count
          let s := if st = 0 then team.foldl (fun (s : State) e => s.recarve e d) s else s
          let s := team.foldl (fun (s : State) e =>
            match carving e with
            | some rd => s.modCtx e 0 fun x => x.endCarve rd st
            | none => s) s
          .next (s.release1 g)
      | _, _ => .next s
  | _ => .next s

/-! ## Gangs (R336 to R338) -/

/-- GANG at issue. -/
def execGang (rd : Reg) (s : State) : Res :=
  if s.cur.2 ≠ 0 ∨ s.me.gang.shape = 0 ∨ s.me.gang.g then illegal s
  else .next (s.park (.waiting (.gang rd)))

/-- SPLIT at issue: only inside a gang (R338). -/
def execSplit (rd : Reg) (s : State) : Res :=
  if s.cur.2 ≠ 0 ∨ !s.me.gang.g then illegal s
  else .next (s.park (.waiting (.split rd)))

/-- The drain of GANG: CARVE's, and every fault ticket has replayed and completed. -/
def State.gangDrained (s : State) (team : List Nat) : Bool :=
  s.teamDrained team && !(team.any fun e => (s.core e).accs.any fun a => a.entry)

/-- The refusal of GANG (R337). -/
def State.gangRefusal (s : State) (team : List Nat) : Nat :=
  let cs := team.map s.core
  let first := cs.headD {}
  if cs.any fun c => c.alive.any fun n => n != 0 then 1
  else if cs.any fun c => c.kcarve != first.kcarve || c.sync != first.sync || c.hmax != 0 || !c.mx then 2
  else if cs.any fun c => !(c.ctx 0).done.isEmpty || !(c.ctx 0).streams.isEmpty then 3
  else 0

/-- A member's context 0 goes on behind its GANG or SPLIT. -/
def Ctx.rendezvoused (x : Ctx) (rd : Reg) (v : Nat) (pc : Word) : Ctx :=
  { (x.wx rd (w64 v)) with life := .live, cursor := 0, pc := pc }

/-- kdom0 of a context. -/
def Ctx.setDom0 (x : Ctx) (d : KDom) : Ctx := { x with csr := { x.csr with dom := x.csr.dom.set 0 d } }

/-- Every core of a gang's set still belongs to the launch that made the set: a team launched since on a core whose member has ended is
none of its members (R343). -/
def State.gangWhole (s : State) (set : List Nat) : Bool :=
  let made (e : Nat) : Option (Nat × List Nat) := (s.core e).team.map fun t => (t.launch, (s.core e).gang.set)
  set.all fun e => (made e).isSome && made e == made (set.headD 0)

/-- GANG_RENDEZVOUS (R337, R338): every core of the set waits and the drain has ended; ganging is refused or done. In a gang
whose members wait at SPLIT, the gang is split. -/
def execGangRendezvous (ep : Nat) (s : State) : Res :=
  let set := (s.core ep).gang.set
  let lead := set.headD ep
  let at_ (e : Nat) : Option (Reg × Bool) := match (s.ctxAt e 0).life with
    | .waiting (.gang rd) => some (rd, true)
    | .waiting (.split rd) => some (rd, false)
    | _ => none
  let rd (e : Nat) : Reg := match at_ e with | some (r, _) => r | none => 0
  if set = [] ∨ (set.any fun e => (s.core e).frozen) ∨ !s.gangWhole set ∨ !s.gangDrained set then .next s
  else if set.all fun e => (match at_ e with | some (_, g) => g | none => false) then
    let s := s.sendOn set
    let st := s.gangRefusal set
    if st ≠ 0 then
      .next (set.foldl (fun (s : State) e => s.modCtx e 0 fun x => x.rendezvoused (rd e) st (x.pc + 4)) s)
    else
      let l := s.ctxAt lead 0
      let s := set.foldl (fun (s : State) e =>
        let s := s.modCore e fun c => { c with gang := { c.gang with g := true, tmask := 0, behind := false } }
        s.modCtx e 0 fun x => (x.rendezvoused (rd e) 0 (l.pc + 4)).setDom0 l.csr.dom[0]) s
      .next (s.modDomain 0 l.csr.dom[0].dom fun g => { g with members := set, ncore := set.length })
  else if set.all fun e => (match at_ e with | some (_, g) => !g | none => false) then
    let s := s.sendOn set
    .next (set.foldl (fun (s : State) e =>
      let c := s.core e
      let num := match c.team with | some t => t.num | none => 0
      let s := s.modCore e fun c => { c with gang := { c.gang with g := false, tmask := 0 }, hnext := 0 }
      let s := s.modCtx e 0 fun x =>
        (x.rendezvoused (rd e) c.gang.rank.toNat (x.pc + 4)).setDom0 ⟨true, false, 0, false, num⟩
      s.modDomain 0 num fun g => { g with members := [e], ncore := 1, phase := false }) s)
  else .next s

end Sys2Proof.Machine
end

