-- ==== Sys2Proof/Machine/Domain.lean ====
section
/-! DEFINITION.
Sends between the cores of a domain, slots and arrival channels (R393 to R401), quiescence handlers and QRETIRE
(R410 to R412), and the detection of quiescence and deadlock (R404 to R409, R413). -/

namespace Sys2Proof.Machine

open Sys2Proof

/-! ## Members -/

/-- The core that holds a member of a domain: the member itself, or the place of its state while its team is pre-empted. -/
def State.memberAt (s : State) (d : Domain) (ep : Nat) : Option Nat :=
  if d.live.contains ep then some ep
  else s.images.findSome? fun i => (i.cores.find? fun c => c.1 = ep && d.live.contains c.2).map (·.2)

/-- A member core's team is pre-empted. -/
def Domain.someOut (d : Domain) : Bool := d.live.any fun e => decide (e ≥ 4096)

/-! ## SEND (R393 to R395) -/

/-- The core that a place stands for: itself, or that of a pre-empted team's image. -/
def State.physical (s : State) (e : Nat) : Nat :=
  ((s.images.findSome? fun i => (i.cores.find? fun c => c.2 = e).map (·.1))).getD e

/-- CH is named by the slot plan of a timed domain of the receiver (R394), which names it by its core. -/
def State.planned (s : State) (dst : Nat) (ch : Fin 8) : Bool :=
  s.domains.any fun d => d.timed && d.live.contains dst && d.plan.any fun r => r.dst = s.physical dst && r.ch = ch

/-- An entry reaches its receiver's port: it is staged, or waits for room (R395). -/
def State.stage (s : State) (to_ : Nat) (a : Arrival) : State :=
  s.modCore to_ fun c => if c.hasRoom a.ch then { c with staged := c.staged ++ [a] } else { c with wantRoom := c.wantRoom ++ [a] }

/-- SEND. -/
def execSend (rs1 rs2 : Reg) (s : State) : Res :=
  let w := s.x rs1
  let dst := (fld w 16 11 : BitVec 11).toNat
  let lvl : BitVec 2 := fld w 8 2
  let ch : Fin 8 := (fld w 0 3 : BitVec 3).toFin
  let ep := s.cur.1
  if fld w 27 37 ≠ (0 : BitVec 37) ∨ fld w 11 5 ≠ (0 : BitVec 5) ∨ fld w 3 5 ≠ (0 : BitVec 5) ∨ fld w 10 1 ≠ (0 : BitVec 1) then trap 2 w s
  else
    let k := s.ctx.csr.dom[lvl.toNat]
    if !k.v then trap 2 (lvl.zeroExtend 64) s
    else if !isCompute dst then trap 24 w s
    else if s.misuse [rs2] [] [rs2] then illegal s
    else
      match s.vsrc rs2 with
      | .error r => r
      | .ok data =>
        let pc := s.pc
        let n := s.cur.2
        let age := s.me.nextAge
        let t := ((s.consume ep n rs2).modCore ep fun c => { c with nextAge := age + 1 }).advance
        -- a denied SEND issues again when the host has unfrozen the core
        if !s.admitted (s.master ep) kCore dst rCommand then .next { s.freeze ep n (s.win dst) 6 [] with out := .stalled }
        else
          match (s.domain k.lvl k.dom).bind fun d => s.memberAt d dst with
          | some to_ =>
            if (s.core to_).aqb = 0 ∨ s.planned to_ ch then .next (t.defer ep n age 24 pc w .none)
            else
              let a : Arrival := ⟨ch, k.lvl, k.dom, ep, n.val, s.next, 0, data⟩
              .next ({ t with next := t.next + 1 }.stage to_ a)
          | none => .next (t.defer ep n age 24 pc w .none)

/-! ## Timed sends (R396 to R401) -/

/-- The next start of an occurrence of a slot that no TSEND has used, from a cycle on (R398). -/
def Domain.occurrence (d : Domain) (r : SlotRec) (now : Nat) : Nat :=
  let p := d.plen + 1
  let base := d.start + r.off
  let n := if now ≤ base then 0 else (now - base + p - 1) / p
  base + max n r.used * p

/-- TSEND (R400). -/
def execTsend (rs1 rs2 : Reg) (s : State) : Res :=
  let w := s.x rs1
  let dst := (fld w 16 11 : BitVec 11).toNat
  let slot := (fld w 8 8 : BitVec 8).toNat
  let ch : Fin 8 := (fld w 0 3 : BitVec 3).toFin
  if fld w 27 37 ≠ (0 : BitVec 37) ∨ fld w 3 5 ≠ (0 : BitVec 5) then trap 2 w s
  else
    let k := s.ctx.csr.dom[2]
    let fault := trap 20 (w64 slot) s
    if !k.v ∨ !k.t ∨ !k.phase then fault
    else
      match s.domain k.lvl k.dom with
      | none => fault
      | some d =>
        match d.plan[slot]? with
        | none => fault
        | some r =>
          if r.src ≠ s.cur.1 ∨ r.dst ≠ dst ∨ r.ch ≠ ch then fault
          else if s.misuse [rs2] [] [rs2] then illegal s
          else
            match s.vsrc rs2 with
            | .error e => e
            | .ok data =>
              let s := s.setCtx { s.ctx with took := if (s.ctx.bound rs2).isSome then some rs2 else none }
              .next (s.holdOn (.tsend slot dst ch data (d.occurrence r s.cycle)))

/-- A member's team is pre-empted, or its pre-emption has begun. -/
def State.someStops (s : State) (d : Domain) : Bool := d.someOut || d.live.any fun e => (s.core e).team.any (·.stop)

/-- The communication of a timed domain has stopped before a cycle, because a member's team is pre-empted (R414). -/
def State.stoppedAt (s : State) (d : Domain) (due : Nat) : Bool :=
  s.someStops d && (match d.stopAt with | some b => decide (b ≤ due) | none => true)

/-- TSEND_SLOT_SEND (R400): the slot's occurrence starts, the data leave, and the TSEND completes. -/
def execTsendSlotSend (ep : Nat) (ctx : Fin 11) (s : State) : Res :=
  let x := s.ctxAt ep ctx
  match x.hold with
  | .tsend slot dst ch data due =>
    let k := x.csr.dom[2]
    (match s.domain k.lvl k.dom with
     | none => .next s
     | some d =>
       match d.plan[slot]? with
       | none => .next s
       | some r =>
         let used := due < d.start + r.off + r.used * (d.plen + 1)
         if (s.core ep).frozen ∨ s.stoppedAt d due then .next s
         else if used then .next (s.modCtx ep ctx fun x => { x with hold := .tsend slot dst ch data (d.occurrence r s.cycle) })
         else if s.cycle < due then .next s
         else
           let n := (due - d.start - r.off) / (d.plen + 1)
           let a : Arrival := ⟨ch, k.lvl, k.dom, ep, ctx.val, s.next, due, data⟩
           let word := w64 (dst * 65536 + slot * 256 + ch.val)
           let s := s.setDomain { d with plan := setAt d.plan slot { r with used := n + 1 } }
           let s := ({ s with next := s.next + 1 }.post (.send dst a x.pc word))
           .next (s.release ep ctx))
  | _ => .next s

/-- An entry of a channel that arrived earlier has not been placed yet. -/
def earlier (ch : Fin 8) (l : List Arrival) : Bool := l.any fun a => a.ch == ch

/-- TIMED_ARRIVAL (R400, R401): an entry that the access table denies freezes its sender, stays where it is, and is checked anew when the
host has unfrozen it (R545); else the entry enters its channel, the holding buffer, or waits in the last router, which sets
LATE. An earlier entry for the channel goes first. A core without arrival queues rejects it. -/
def execTimedArrival (k : Nat) (s : State) : Res :=
  match s.net[k]? with
  | some (.send to_ a pc word) =>
    let before := (s.net.take k).any fun m => match m with | .send t b _ _ => t == to_ && b.ch == a.ch | _ => false
    if s.cycle < a.due ∨ before then .next s
    else
      let c := s.core to_
      let t := s.take k
      let sender : Fin 11 := if h : a.ctx < 11 then ⟨a.ctx, h⟩ else 0
      if !s.admitted (s.master a.ep) kCore to_ rCommand then
        .next (if (s.core a.ep).frozen then s else s.freeze a.ep a.ctx (s.win to_) 6 [])
      else if c.aqb = 0 then .next (t.defer a.ep sender (s.core a.ep).nextAge 24 pc word .none)
      else if c.hasRoom a.ch ∧ !earlier a.ch c.timedHeld ∧ !earlier a.ch c.timed then
        .next ((t.setCore to_ (c.append a)).wake (stackOf to_))
      else if c.timedHeld.length < 8 ∧ !earlier a.ch c.timed then .next (t.setCore to_ { c with timedHeld := c.timedHeld ++ [a] })
      else
        let t := t.setCore to_ { c with timed := c.timed ++ [a] }
        .next (c.alive.foldl (fun (s : State) n => s.modCtx to_ n fun x => { x with csr := { x.csr with late := true } }) t)
  | _ => .next s

/-- The first element with a property, and the list without it. -/
def takeFirst {α : Type} (p : α → Bool) : List α → Option (α × List α)
  | [] => none
  | a :: rest => if p a then some (a, rest) else (takeFirst p rest).map fun r => (r.1, a :: r.2)

/-- CHANNEL_ROOM_FREED (R395, R401, R414): an entry that waits for room in a channel is placed; those of a core whose
contexts have all retired are discarded. -/
def execChannelRoomFreed (ep : Nat) (ch : Fin 8) (s : State) : Res :=
  let c := s.core ep
  let mine (a : Arrival) : Bool := a.ch == ch
  if c.wantRoom.isEmpty ∧ c.timed.isEmpty ∧ c.timedHeld.isEmpty then .next s
  else if c.alive.isEmpty then .next (s.setCore ep { c with wantRoom := c.wantRoom.filter fun a => !mine a })
  else if !c.hasRoom ch then .next s
  else
    match takeFirst mine c.timedHeld, takeFirst mine c.timed, takeFirst mine c.wantRoom with
    | some (a, held), _, _ =>
      let c1 := { c.append a with timedHeld := held }
      -- a place of the holding buffer is free for the first entry in the router
      let c2 := match c1.timed with
        | b :: rest => { c1 with timedHeld := c1.timedHeld ++ [b], timed := rest }
        | [] => c1
      .next ((s.setCore ep c2).wake (stackOf ep))
    | none, some (a, rest), _ => .next ((s.setCore ep { c.append a with timed := rest }).wake (stackOf ep))
    | none, none, some (a, rest) => .next (s.setCore ep { c with wantRoom := rest, staged := c.staged ++ [a] })
    | none, none, none => .next s

/-! ## Quiescence handlers (R410 to R412) -/

/-- QARM. -/
def execQarm (rs1 rs2 : Reg) (s : State) : Res :=
  let i := s.x rs2
  let entry := s.x rs1
  if h : i.toNat < 4 then
    if !(s.ctx.csr.dom[i.toNat]).v then trap 2 i s
    else if entry.toNat % 4 ≠ 0 then trap 0 entry s
    else
      let c := s.ctx.csr
      retire (s.setCtx { s.ctx with csr := { c with
        armEntry := fld entry 2 62, armIdx := if entry = 0 then 0 else fld i 0 2, qActive := false } })
  else trap 2 i s

/-- A declaration fires the handler of an armed context (R411). -/
def State.fire (s : State) (ep : Nat) (n : Fin 11) (d : Domain) (waiting : Nat) : State :=
  let pc := (s.ctxAt ep n).nextPc
  let s := s.interrupt ep n
  s.modCtx ep n fun x => { x with
    pc := x.csr.armEntry ++ 0#2, cursor := 0
    csr := { x.csr with
      qpc := pc, qActive := true, qLvl := d.lvl, qDom := d.dom
      qNwait := if waiting ≥ 65536 then BitVec.allOnes 16 else BitVec.ofNat 16 waiting
      armEntry := 0, armIdx := 0 } }

/-- QRETIRE (R412). DESIGN CHOICE (log 140): a team that has completed is no member any more, so a context of its core is cause 2. -/
def execQretire (rs1 : Reg) (s : State) : Res :=
  let w := s.x rs1
  let ep := (fld w 16 11 : BitVec 11).toNat
  let c := s.ctx.csr
  if fld w 27 37 ≠ (0 : BitVec 37) ∨ fld w 4 12 ≠ (0 : BitVec 12) then trap 2 w s
  else if h : (fld w 0 4 : BitVec 4).toNat < 11 then
    let n : Fin 11 := ⟨(fld w 0 4 : BitVec 4).toNat, h⟩
    let at_ := if isCompute ep then (s.domain c.qLvl c.qDom).bind fun d => s.memberAt d ep else none
    if !c.qActive then trap 2 w s
    else match at_ with
      | none => trap 2 w s
      | some e =>
        if !(s.ctxAt e n).alive then retire s
        else
          let team := n = 0 ∨ (s.core e).gang.g
          let t := if team then s.endTeam e 2 0 0 0 0 else s.retireCtx e n 0
          if (t.ctxAt s.cur.1 s.cur.2).alive then retire t else .next { t with out := .done }
  else trap 2 w s

/-! ## Idleness (R406) -/

/-- The dies that a domain's detection covers: that of its members for levels 0 to 2, all for the others. -/
def Domain.dies (d : Domain) : List Nat :=
  if d.lvl.toNat ≤ 2 then ((d.members.filter fun e => decide (e < 4096)).map stackOf).eraseDups else [0, 1, 2, 3]

/-- The die of any endpoint of the package. -/
def dieOf (ep : Nat) : Nat :=
  if isCompute ep then ep / 144 else if isMemCore ep then (ep - 576) / 96 else if isService ep then (ep - 960) / 18
  else (ep - 1032) % 4

/-- The dies between which a message travels; a wait that is to be retried is no packet. -/
def Msg.dies : Msg → List Nat
  | .waitAns ep _ _ _ _ => [dieOf ep]
  | .acqAns ep _ _ _ _ => [dieOf ep]
  | .retry _ _ => []
  | .report ep _ _ => [dieOf ep]
  | .request cl _ _ _ _ _ _ _ => [cl / 18]
  | .notice ep _ _ _ _ _ => [dieOf ep]
  | .flushed a b _ => [dieOf a, dieOf b]
  | .msend to_ q _ => [dieOf to_, dieOf q.ep]
  | .cask to_ k => [dieOf to_, dieOf k.ep]
  | .caskDone k _ _ => [dieOf k.ep]
  | .send to_ a _ _ => [dieOf to_, dieOf a.ep]
  | .migrate a b _ _ => [a, b]

/-- A memory core executes no program. -/
def MemCore.idle (m : MemCore) : Bool :=
  m.st != .running && m.call.isNone && m.queued.isNone && m.sent.isEmpty && m.ended.isEmpty && m.pushes.isEmpty

/-- The scope is idle (R406). -/
def State.scopeIdle (s : State) (dies : List Nat) : Bool :=
  let inD (ep : Nat) : Bool := dies.contains (dieOf ep)
  (s.cores.all fun c => !(isCompute c.1 && inD c.1) || s.coreIdle c.1) &&
    (s.mcs.all fun m => !inD m.1 || m.2.idle) &&
    !(s.pressQ.any fun o => dies.contains (homeSlice o.line / 96)) &&
    -- an entry is on the die of the router that holds it, and on its way to that of its slice
    !(s.routers.any fun e => dies.contains (homeSlice e.op.line / 96) || dies.contains (e.port / 5 / 144)) &&
    !(s.dists.any fun d => dies.contains d.1 && !(d.2.taskqs.isEmpty && d.2.entries.isEmpty)) &&
    !(s.fab.gate.any fun e => dies.contains (homeSlice e.2.2.line / 96)) &&
    !(s.net.any fun m => m.dies.any dies.contains) &&
    !(s.cores.any fun c => inD c.1 && c.2.accs.any fun a => match a.stage with
      | .ready .. => true
      | .window => true
      | _ => false) &&
    (dies.length < 4 || s.fab.merge.isEmpty) &&
    (s.clusters.all fun c => !dies.contains (c.1 / 18) || !s.svc c.1)

/-- Contexts of the domain that wait. -/
def State.waitingIn (s : State) (d : Domain) : Nat :=
  (d.live.map fun e => ((s.core e).alive.filter fun n => s.waits e n && ((s.ctxAt e n).level d.lvl d.dom).isSome).length).sum

/-- Wake events of a die since reset (R406). -/
def State.wakesOf (s : State) (die : Nat) : Nat :=
  s.det.wakes[die % 4] + ((s.cores.filter fun c => isCompute c.1 && stackOf c.1 == die).map (·.2.fills)).sum

/-! ## Declaration (R407 to R409) -/

/-- The contexts of the domain with a handler armed for it. -/
def State.armed (s : State) (d : Domain) : List (Nat × Fin 11) :=
  d.live.flatMap fun e => ((s.core e).alive.filter fun n =>
    let c := (s.ctxAt e n).csr
    let g := c.dom[c.armIdx.toNat]
    c.armEntry != 0 && g.v && g.lvl == d.lvl && g.dom == d.dom).map fun n => (e, n)

/-- The declaration of a domain on this device (R408), with the waiting contexts and whether one is armed in the whole domain: every
armed context runs its handler; with none anywhere, cause 37 goes to context 0 of each team. -/
def State.declare (s : State) (d : Domain) (waiting : Nat) (armed : Bool) : State :=
  let s := s.modDomain d.lvl d.dom fun g => { g with declared := true }
  if armed then (s.armed d).foldl (fun (s : State) a => s.fire a.1 a.2 d waiting) s
  else
    let teams := d.live.filter fun e => !(s.core e).alive.isEmpty && (s.core e).gang.set.headD e == e || !(s.core e).gang.g
    teams.foldl (fun (s : State) e =>
      if (s.core e).alive.isEmpty then s else
      s.post (.report e 0 (mkRecord 37 0 0 0 s.dev 5 d.dom.toNat (w64 (d.lvl.toNat * 65536 + d.dom.toNat)) (w64 waiting) false))) s

/-- A barrier of the domain, or of one with a member of it, is to be released: the release comes before a declaration (R414). -/
def State.releaseDue (s : State) (d : Domain) : Bool :=
  (s.domains.any fun g => g.lvl != 4 && g.members.any d.members.contains && s.barrierReady g) ||
    (d.lvl == 4 && d.coord == s.dev && (d.step != 0 || d.full4))

/-- A domain meets the condition of R407: idle at this sample and the one before, no wake event between, HWAKE clear, some member
waiting, none pre-empted, and no barrier about to release. -/
def State.settled (s : State) (d : Domain) (idleNow : Bool) : Bool :=
  idleNow && s.det.idle.contains (d.lvl, d.dom) &&
    (d.dies.all fun i => s.wakesOf i == s.det.seen[i % 4]) && !d.hwake && !d.someOut && !s.releaseDue d &&
    decide (s.waitingIn d > 0)

/-- Some waiting core of the domain belongs to no wider domain of a list (R407). -/
def widest (wide : List Domain) (d : Domain) : Bool :=
  d.live.any fun e => !(wide.any fun g => decide (g.lvl.toNat > d.lvl.toNat) && g.live.contains e)

/-- DETECTOR_SAMPLE (R406, R407): every 1,024 cycles. A domain that meets the condition takes the declaration from the narrower ones
inside it, a level-4 one whose part on this device meets it whatever the other parts do (log 128); a level-4 domain of which this device is the coordinator starts its
confirmation instead of being declared (R413). -/
def execDetectorSample (s : State) : Res :=
  if s.cycle < 1024 * (s.det.samples + 1) then .next s
  else
    let idle := s.domains.filter fun d => s.scopeIdle d.dies
    let met := s.domains.filter fun d => s.settled d (idle.contains d)
    let now := (met.filter fun d => !d.declared).filter (widest met)
    let det : Detector := {
      samples := s.cycle / 1024
      idle := idle.map fun d => (d.lvl, d.dom)
      wakes := s.det.wakes
      seen := #v[s.wakesOf 0, s.wakesOf 1, s.wakesOf 2, s.wakesOf 3] }
    let s := { s with det := det }
    .next (now.foldl (fun (s : State) d =>
      if d.lvl = 4 then (if d.coord = s.dev ∧ d.wave = 0 then s.modDomain 4 d.dom fun g => { g with wave := 1 } else s)
      else s.declare d (s.waitingIn d) !(s.armed d).isEmpty) s)

/-! ## Fabric domains (R413) -/

/-- This device's answer to a probe: its part is idle, its totals, and twice its waiting contexts, plus 1 when one is armed. -/
def State.probeAnswer (s : State) (d : Domain) : BitVec 10 × Bool × Nat × Nat × Nat :=
  (s.dev, s.scopeIdle [0, 1, 2, 3] && !d.hwake && !d.someOut && !s.releaseDue d, d.sent, d.recvd,
    2 * s.waitingIn d + (if (s.armed d).isEmpty then 0 else 1))

/-- Probes go to every device of the port map; those of the domain answer (log 24). -/
def State.probe (s : State) (d : Domain) (wave : Nat) (first : List (BitVec 10 × Bool × Nat × Nat × Nat)) : State :=
  let s := s.modDomain 4 d.dom fun g => { g with wave := wave, first := first, answers := [s.probeAnswer d] }
  (s.fab.ports.filter fun p => p.1 ≠ s.dev.toNat).foldl (fun (s : State) p =>
    s.control (BitVec.ofNat 10 p.1) 0x24 wave d 0 0) s

/-- The answers of a wave are complete: the second wave, the declaration on every device, or a failed exchange. -/
def State.judge (s : State) (d : Domain) : State :=
  let idle : Bool := (d.answers.all fun a => a.2.1) && !s.releaseDue d && !d.hwake
  let total (l : List (BitVec 10 × Bool × Nat × Nat × Nat)) : Nat × Nat := ((l.map fun a => a.2.2.1).sum, (l.map fun a => a.2.2.2.1).sum)
  if d.wave = 2 ∧ idle ∧ (total d.answers).1 = (total d.answers).2 then s.probe d 3 d.answers
  else if d.wave = 3 ∧ idle ∧ total d.answers = total d.first then
    let s := s.modDomain 4 d.dom fun g => { g with wave := 0, answers := [], first := [] }
    let waiting := (d.answers.map fun a => a.2.2.2.2 / 2).sum
    let armed := d.answers.any fun a => a.2.2.2.2 % 2 == 1
    let s := (d.answers.filter fun a => a.1 ≠ s.dev).foldl (fun (s : State) a =>
      s.control a.1 0x26 0 d (w64 waiting) (if armed then 1 else 0)) s
    s.declare d waiting armed
  else s.modDomain 4 d.dom fun g => { g with wave := 4, answers := [], first := [], failedAt := some s.cycle }

/-- QUIESCENCE_PROBE (R413): the coordinator of a fabric domain sends the probes of a wave, or goes on when every device of the
domain has answered. -/
def execQuiescenceProbe (dom : BitVec 16) (s : State) : Res :=
  match s.domain 4 dom with
  | some d =>
    if d.coord ≠ s.dev then .next s
    -- the probe is sent while this device's part is idle; else the exchange waits for a sample that finds it so
    else if d.wave = 1 then .next (if (s.probeAnswer d).2.1 then s.probe d 2 [] else s.modDomain 4 dom fun g => { g with wave := 0 })
    else if (d.wave = 2 ∨ d.wave = 3) ∧ d.answers.length = d.ndev then .next (s.judge d)
    else .next s
  | none => .next s

/-- PROBE_RESTART (R413): 4,096 cycles after another answer the exchange starts again, when this device's part is idle by R407. -/
def execProbeRestart (dom : BitVec 16) (s : State) : Res :=
  match s.domain 4 dom with
  | some d =>
    (match d.failedAt with
     | some t => if d.wave = 4 ∧ t + 4096 ≤ s.cycle then
         .next (s.modDomain 4 dom fun g => { g with wave := 0, failedAt := none }) else .next s
     | none => .next s)
  | none => .next s

end Sys2Proof.Machine
end

