-- ==== Sys2Proof/Machine/Tickets.lean ====
section
/-! DEFINITION.
The service-core instructions TLBW, TLBINV, REPLAYALL, TKPOST and FLUSHCTX, and the requests at a fault buffer
(R348 to R351, R356 to R359, R364 to R369, R375). -/

namespace Sys2Proof.Machine

open Sys2Proof

/-! ## Entries (R349 to R351, R365) -/

/-- The range of physical memory that exists (R507): n bytes from an address. -/
def State.populated (s : State) (pa n : Nat) : Bool :=
  if pa < 2 ^ 40 then decide (pa + n ≤ s.pkg.t1size.toNat)
  else
    let p := (pa - 2 ^ 40) / 2 ^ 40
    match s.pkg.t2len.toList[p]? with
    | some len => decide ((pa - 2 ^ 40) % 2 ^ 40 + n ≤ len.toNat)
    | none => false

/-- Pages that an entry covers. -/
def Tlb.span (t : Tlb) : Nat := if t.lg then 512 else 1

/-- Two entries cover a common page. -/
def Tlb.meets (t u : Tlb) : Bool := decide (t.vpn < u.vpn + u.span ∧ u.vpn < t.vpn + t.span)

/-- The entry of an image, or the refusal code of R365. -/
def State.tlbImage (s : State) (tag map ownw : Word) : Except Nat Tlb :=
  let lg := tag.getLsbD 62
  let vpn := (fld tag 0 37 : BitVec 37).toNat
  let ppn := (fld map 32 32 : BitVec 32).toNat
  let cls : BitVec 2 := fld map 30 2
  let typ : BitVec 4 := fld map 26 4
  let width : BitVec 2 := fld map 24 2
  let mask : BitVec 16 := fld ownw 0 16
  let n := if lg then 512 else 1
  if !tag.getLsbD 63 ∨ fld tag 37 25 ≠ (0 : BitVec 25) ∨ fld map 0 14 ≠ (0 : BitVec 14) ∨ fld ownw 16 16 ≠ (0 : BitVec 16) then .error 1
  else if cls = 3 ∨ (cls = 2 ∧ !typeOk typ width) ∨ (cls ≠ 2 ∧ (typ ≠ 0 ∨ width ≠ 0 ∨ map.getLsbD 15)) then .error 2
  else if (cls ≠ 0 ∧ ownw ≠ 0) ∨ (mask ≠ 0 ∧ (fld ownw 32 16 : BitVec 16) = fld ownw 48 16) ∨ (lg ∧ mask ≠ 0) then .error 3
  else if lg ∧ (vpn % 512 ≠ 0 ∨ ppn % 512 ≠ 0) then .error 4
  else if !s.populated (ppn * 65536) (n * 65536) ∨ (cls = 2 ∧ ppn * 65536 ≥ 2 ^ 40) then .error 5
  else .ok {
    vpn := vpn, lg := lg, ppn := ppn
    cls := if cls = 0 then .own else if cls = 1 then .host else .lat
    typ := typ, width := width, vint := fld map 16 8, cork := map.getLsbD 15, ret := map.getLsbD 14
    owner := fld ownw 48 16, second := fld ownw 32 16, mask := mask }

/-- The resolution of a collision of a team on the sub-page of an address (R355): the entry after the split, which Choing enters with
TLBW, after a TLBINV that writes the sub-page back, before it answers status 0; none: a violation, which it answers with status 2. -/
def Tlb.resolve (t : Tlb) (team : BitVec 16) (a : Word) : Option Tlb :=
  let sub := a.toNat / 4096 % 16
  if !t.lg ∧ !t.mask.getLsbD sub ∧ team ≠ t.owner ∧ (t.mask = 0 ∨ team = t.second) then
    some { t with second := team, mask := t.mask ||| BitVec.ofNat 16 (2 ^ sub) }
  else none

/-- The status with which TKPOST answers the collision (R355). -/
def Tlb.answer (t : Tlb) (team : BitVec 16) (a : Word) : BitVec 2 := if (t.resolve team a).isSome then 0 else 2

/-- The set of the L2 TLB that holds an entry (R352). -/
def Tlb.l2set (t : Tlb) : Nat := if t.lg then t.vpn / 512 % 512 else t.vpn % 512

/-- An entry enters the L2 TLB of a cluster; a full set loses its oldest entry (log 25). -/
def Cluster.install (c : Cluster) (t : Tlb) : Cluster :=
  let l := c.l2.filter fun u => !u.meets t
  let set := l.filter fun u => u.l2set = t.l2set
  let l := if set.length ≥ 8 then (match set.getLast? with | some o => l.filter fun u => u ≠ o | none => l) else l
  { c with l2 := t :: l }

/-- TLBW (R365). -/
def execTlbw (rd rs1 : Reg) (s : State) : Res :=
  if !isService s.cur.1 then illegal s
  else
    let a := s.x rs1
    if a.toNat % 8 ≠ 0 then trap 4 a s
    else
      match s.innerWords a 3 with
      | .error r => r
      | .ok (s, ws) =>
        match s.tlbImage (ws.getD 0 0) (ws.getD 1 0) (ws.getD 2 0) with
        | .error st => wrX rd (w64 st) s
        | .ok t =>
          let cl := clusterOf s.cur.1
          let s := (coresOf cl).foldl (fun (s : State) e =>
            s.modCore e fun c => { c with tlb := c.tlb.filter fun u => !u.meets t }) s
          wrX rd 0 (s.setCluster cl ((s.cluster cl).install t))

/-! ## TLBINV (R366) -/

/-- A handle with a pin on a page of the range. -/
def Handle.pins (h : Handle) (vpn n : Nat) : Bool :=
  h.prio != 0 && h.pages.any fun p => decide (vpn ≤ p.1 ∧ p.1 < vpn + n)

def State.pinned (s : State) (vpn n : Nat) : Bool :=
  s.cores.any fun c => allCtx.any fun k => (c.2.ctx k).handles.any fun h => h.2.pins vpn n

/-- The pages of the range that handles pin. -/
def State.pinnedIn (s : State) (vpn n : Nat) : List Nat :=
  (s.cores.flatMap fun c => allCtx.flatMap fun k => (c.2.ctx k).handles.flatMap fun h =>
    if h.2.prio = 0 then [] else (h.2.pages.map (·.1)).filter fun v => decide (vpn ≤ v ∧ v < vpn + n)).eraseDups

/-- An entry covers a page of the range. -/
def Tlb.within (t : Tlb) (vpn n : Nat) : Bool := decide (t.vpn < vpn + n ∧ vpn < t.vpn + t.span)

/-- Every entry for the range, in every TLB of the device, is changed or removed. -/
def State.everyTlb (s : State) (f : List Tlb → List Tlb) : State :=
  { s with
    cores := s.cores.map fun (c : Nat × Core) => (c.1, { c.2 with tlb := f c.2.tlb })
    clusters := s.clusters.map fun (c : Nat × Cluster) => (c.1, { c.2 with l2 := f c.2.l2 })
    mcs := s.mcs.map fun (m : Nat × MemCore) => (m.1, { m.2 with tlb := f m.2.tlb }) }

/-- The lines of the masked sub-pages go home and leave every L1 (R366). -/
def State.flushSubs (s : State) (vpn : Nat) (mask : BitVec 16) : State :=
  let hit (va : Word) : Bool := aVpn va == vpn && mask.getLsbD (va.toNat / 4096 % 16)
  (s.cores.map (·.1)).foldl (fun (s : State) e =>
    let s := s.cbDrain e fun b => hit b.va
    ((s.core e).l1.filter fun l => hit l.2.va).foldl (fun (s : State) l => s.writeBack e l.1) s) s

/-- An address lies in a page range of this device's virtual space. -/
def inPages (va : Word) (vpn n : Nat) : Bool := decide (vpn ≤ aVpn va ∧ aVpn va < vpn + n)

/-- The entries of combining buffers for the range are sent on to their targets. -/
def State.sendPages (s : State) (vpn n : Nat) : State :=
  (s.cores.map (·.1)).foldl (fun (s : State) e => s.cbDrain e fun b => inPages b.va vpn n) s

/-- An access that was translated in the range has not reached its target. -/
def State.pagesBusy (s : State) (vpn n : Nat) : Bool :=
  (s.pressQ.any fun o => inPages o.va vpn n) || (s.routers.any fun e => inPages e.op.va vpn n) ||
    s.cores.any fun c => c.2.accs.any fun a => inPages a.va vpn n && (match a.stage with
      | .ready .. => true
      | .press => true
      | _ => false)

/-- TLBINV: while an earlier access of the page is under way the instruction issues again. DESIGN CHOICE (log 148): bits [63:53] of the
address are ignored, and only its alignment is checked (R366). -/
def execTlbinv (rd rs1 rs2 : Reg) (s : State) : Res :=
  let a := s.x rs1
  let fl := s.x rs2
  let lg := fl.getLsbD 0
  if !isService s.cur.1 then illegal s
  else if a.toNat % (if lg then 33554432 else 65536) ≠ 0 then trap 2 a s
  else if fld fl 32 32 ≠ (0 : BitVec 32) ∨ fld fl 2 14 ≠ (0 : BitVec 14) then illegal s
  else
    let vpn := aVpn a
    let n := if lg then 512 else 1
    if !fl.getLsbD 1 ∧ s.pinned vpn n then
      let cl := clusterOf s.cur.1
      let t := s.everyTlb fun l => l.map fun t => if t.within vpn n then { t with ret := true } else t
      let pages := (s.pinnedIn vpn n).filter fun v => !(s.cluster cl).deferred.contains v
      wrX rd 1 (t.setCluster cl { t.cluster cl with deferred := (t.cluster cl).deferred ++ pages })
    else
      let s := s.everyTlb fun l => l.filter fun t => !t.within vpn n
      let s := if lg then s else s.flushSubs vpn (fld fl 16 16)
      let s := s.sendPages vpn n
      if s.pagesBusy vpn n then stallIn s else wrX rd 0 s

/-! ## Notices (R359, R367, R368) -/

/-- A notice to an endpoint of a device (R551). -/
def State.notify (s : State) (dev : BitVec 10) (ep : Nat) (all : Bool) (code : BitVec 16) (status : BitVec 2) (reason : Nat) : State :=
  if dev = s.dev then s.post (.notice ep s.dev all code status reason)
  else s.send { blankPacket with
    what := 0x14, dst := dev, ep := ep, kind := reason, sat := all, code := code.toNat, value := status.zeroExtend 64 }

/-- The endpoints of the device that may hold tickets: cores, memory cores, the distributors and the host port (R368). -/
def State.holders (s : State) : List Nat :=
  (s.cores.filter fun c => c.2.accs.any Acc.entry).map (·.1) ++ (s.mcs.filter fun m => m.2.miss.isSome).map (·.1) ++
    (s.dists.filter fun d => !d.2.misses.isEmpty).map (fun d => 1032 + d.1) ++ (if s.hostAccs.any fun a => !a.press then [1036] else [])

/-- REPLAYALL (R368): the all notice of the cluster, to every unit that holds ticket entries and to every seen device. An
endpoint of 2,047 in an NTC packet names every unit of its device. -/
def execReplayall (s : State) : Res :=
  if !isService s.cur.1 then illegal s
  else
    let cl := clusterOf s.cur.1
    let c := s.cluster cl
    let code := ticketCode true cl 0 0
    let seen := c.seen
    let s := s.setCluster cl { c with seen := [] }
    let s := s.holders.foldl (fun (s : State) e => s.notify s.dev e true code 0 0) s
    retire (seen.foldl (fun (s : State) d => s.notify d 2047 true code 0 0) s)

/-! ## TKPOST (R367, R375) -/

/-- The pages of the handles of a converted range change their class, and with it the homes of the lines that they pin (R460). -/
def State.rehome (s : State) (ppn n : Nat) (lat : Bool) : State :=
  { s with cores := s.cores.map fun (c : Nat × Core) => (c.1, { c.2 with ctxs := c.2.ctxs.map fun x =>
      { x with handles := x.handles.map fun h => (h.1, { h.2 with pages := h.2.pages.map fun p =>
        if ppn ≤ p.2.1 ∧ p.2.1 < ppn + n then (p.1, p.2.1, lat) else p }) } }) }

/-- The press steps of a conversion (R117 step 3, R119 steps 3 and 4). A BOTTLE installs CORK = 1 and a RECYCLE CORK = 0. -/
def State.convertPage (s : State) (k : Slot) : State :=
  let ppn := (fld k.map 32 32 : BitVec 32).toNat
  let s := (s.snoopPage ppn (k.lines / 512)).rehome ppn (k.lines / 512) (fld k.map 30 2 == (2 : BitVec 2))
  if k.map.getLsbD 15 then
    overLines State.bottleLine (s.cleanLines k.team (ppn * 512) k.lines) (ppn * 512) k.lines
  else
    overLines (fun s l => s.recycleLine l (fld k.map 26 4) (fld k.map 24 2) (fld k.map 30 2 == (0 : BitVec 2))) s (ppn * 512) k.lines

/-- An operation older than the conversion is still on its way to the page's lines. -/
def State.convertBusy (s : State) (k : Slot) : Bool :=
  let ppn := (fld k.map 32 32 : BitVec 32).toNat
  let hit (l : Nat) : Bool := decide (ppn * 512 ≤ l ∧ l < ppn * 512 + k.lines)
  (s.pressQ.any fun o => hit o.line) || (s.routers.any fun e => hit e.op.line) || s.fab.gate.any fun e => hit e.2.2.line

/-- A slot is answered: a notice to every endpoint that it lists, and the slot is free (R367). -/
def State.answerSlot (s : State) (cl : Nat) (i : Fin 8) (status : BitVec 2) : State :=
  let k := (s.cluster cl).slots[i]
  let code := ticketCode false cl i k.gen
  let reason := if k.kind = 1 then 7 else 8
  let s := s.setCluster cl { s.cluster cl with
    slots := (s.cluster cl).slots.set i { k with st := 0, reqs := [], who := none }
    msgs := (s.cluster cl).msgs.filter fun m => m ≠ .slot i }
  k.reqs.foldl (fun (s : State) r => s.notify r.1 r.2 false code status reason) s

/-- TKPOST. -/
def execTkpost (rs1 rs2 : Reg) (s : State) : Res :=
  let v := s.x rs1
  let st := s.x rs2
  if !isService s.cur.1 then illegal s
  else if h : v.toNat < 8 then
    if st.toNat > 2 then trap 2 st s
    else
      let cl := clusterOf s.cur.1
      let c := s.cluster cl
      let i : Fin 8 := ⟨v.toNat, h⟩
      let k := c.slots[i]
      if k.st = 0 then trap 2 v s
      else if k.kind = 2 ∧ st ≠ 0 then illegal s
      else if k.kind = 2 ∧ s.convertBusy k then stall s
      else
        let s := if k.kind = 2 then s.convertPage k else s
        retire (s.answerSlot cl i (fld st 0 2))
  else trap 2 v s

/-- The entry of a page in an L2 TLB of the device. -/
def State.entryFor (s : State) (vpn : Nat) : Option Tlb := s.clusters.findSome? fun c => c.2.l2.find? fun t => t.covers vpn

/-- Choing resolves the collision of a slot as R355 fixes it, as one event. A split: the sub-page is written back, the page leaves every
TLB, and the cluster holds the entry with its second owner when the notice of status 0 leaves. Otherwise the notice has status 2. While
an access translated under the old entry is under way, nothing happens (R366). -/
def State.resolveSlot (s : State) (cl : Nat) (i : Fin 8) : State :=
  let k := (s.cluster cl).slots[i]
  match s.entryFor k.vpn with
  | none => s
  | some t =>
    if k.st = 0 ∨ k.kind ≠ 1 then s
    else
      let a : Word := w64 (k.vpn * 65536 + k.sub.toNat * 4096)
      match t.resolve k.team a with
      | none => s.answerSlot cl i 2
      | some t' =>
        let u := (s.flushSubs k.vpn (BitVec.ofNat 16 (2 ^ k.sub.toNat))).sendPages k.vpn 1
        if u.pagesBusy k.vpn 1 then u
        else
          let u := u.everyTlb fun l => l.filter fun e => !e.within k.vpn 1
          (u.setCluster cl ((u.cluster cl).install t')).answerSlot cl i (t.answer k.team a)

/-! ## FLUSHCTX (R369) -/

/-- The flush of an owner from a core; the L1 copies of LAT lines and the L1 TLB are dropped whole (log 26). -/
def State.flushOwner (s : State) (ep : Nat) (owner : BitVec 16) : State :=
  let s := s.cbDrain ep fun _ => true
  let s := ((s.core ep).l1.filter fun l => !l.2.lat && l.2.owner == owner).foldl (fun (s : State) l => s.writeBack ep l.1) s
  s.modCore ep fun c => { c with
    l1 := c.l1.filter fun l => !l.2.lat
    tlb := []
    ran := c.ran.filter fun t => t ≠ owner }

/-- FLUSHCTX: the acknowledgement comes within the instruction. -/
def execFlushctx (rd rs1 : Reg) (s : State) : Res :=
  let v := s.x rs1
  let ep := (fld v 16 11 : BitVec 11).toNat
  let owner : BitVec 16 := fld v 0 16
  if !isService s.cur.1 ∧ !s.ctx.csr.prv then illegal s
  else if fld v 27 37 ≠ (0 : BitVec 37) ∨ !isCompute ep then trap 2 v s
  else
    let ran := (s.core ep).ran.contains owner
    wrX rd (if ran then 0 else 1) (s.flushOwner ep owner)

/-! ## Requests at a fault buffer (R357) -/

/-- FAULT_BUFFER_REQUEST: a ticketed request of this device reaches its cluster's fault buffer, and the requester records the
ticket. -/
def execFaultBufferRequest (k : Nat) (s : State) : Res :=
  match s.net[k]? with
  | some (.request cl who vpn kind team sub acc age) =>
    let r := (s.cluster cl).request cl s.dev who vpn kind team sub acc
    let s := (s.take k).setCluster cl r.1
    let ep := who.2
    .next (
      if isMemCore ep then
        let m := s.mc ep
        s.setMc ep { m with miss := m.miss.map fun x => if x.code.isNone then { x with code := some r.2 } else x }
      else if 1032 ≤ ep ∧ ep < 1036 then
        let d := s.dist (ep - 1032)
        s.setDist (ep - 1032) { d with misses := d.misses.map fun x =>
          if x.vpn = vpn ∧ x.code.isNone then { x with code := some r.2 } else x }
      else if ep = 1036 then
        { s with hostAccs := s.hostAccs.map fun a =>
          if a.code.isNone && !a.press && (s.pkg.hvBase.toNat + a.w) % 2 ^ 53 / 65536 == vpn then { a with code := some r.2 } else a }
      else s.setStage ep age (.ticket s.dev r.2))
  | _ => .next s

end Sys2Proof.Machine
end

