-- ==== Sys2Proof/Machine/Cellar.lean ====
section
/-! DEFINITION.
Residency handles (R474 to R477), and the leases of memory cores as contexts take, renew and give them back, with their calls
(R487 to R493, R496), and the delivery of the SC announcements (R403). -/

namespace Sys2Proof.Machine

open Sys2Proof

/-! ## Residency handles -/

/-- Lines of one slice may take this much of the cellar (R475). -/
def pinLimit : Nat := 24576

/-- The pinned pages of the device: physical number and class. -/
def State.pinnedPages (s : State) : List (Nat × Bool) :=
  s.cores.foldl (fun (l : List (Nat × Bool)) c => allCtx.foldl (fun (l : List (Nat × Bool)) n =>
    (c.2.ctx n).handles.foldl (fun (l : List (Nat × Bool)) h =>
      if h.2.prio = 0 then l else h.2.pages.foldl (fun (l : List (Nat × Bool)) p =>
        if l.contains (p.2.1, p.2.2) then l else (p.2.1, p.2.2) :: l) l) l) l) []

/-- Lines by slice of the pinned pages (R460, R474). -/
def State.pinCounts (s : State) (pages : List (Nat × Bool)) : SMap Nat :=
  pages.foldl (fun (m : SMap Nat) p => (List.range 512).foldl (fun (m : SMap Nat) i =>
    let line := p.1 * 512 + i
    let n := if p.2 then homeSlice line else s.plainSlice line
    mput m n (mgetD m n 0 + 1)) m) []

/-- Some slice's pinned lines exceed the limit; few pages cannot. -/
def State.overPinned (s : State) : Bool :=
  let pages := s.pinnedPages
  decide (512 * pages.length > pinLimit) && (s.pinCounts pages).any fun c => decide (c.2 > pinLimit)

/-- The handle that is demoted next: the lowest priority, then the most recently made (R475). -/
def State.victim (s : State) : Option (Nat × Fin 11 × Nat × Handle) :=
  (s.cores.flatMap fun c => allCtx.flatMap fun n => ((c.2.ctx n).handles.filter fun h => h.2.prio ≠ 0).map fun h =>
    (c.1, n, h.1, h.2)).foldl (fun (b : Option (Nat × Fin 11 × Nat × Handle)) h =>
      match b with
      | none => some h
      | some g => if h.2.2.2.prio < g.2.2.2.prio ∨ (h.2.2.2.prio = g.2.2.2.prio ∧ h.2.2.2.made > g.2.2.2.made) then some h else some g) none

/-- Whole handles are demoted until the limit holds; `fuel` is at least their number. -/
def State.demote (s : State) : Nat → State
  | 0 => s
  | fuel + 1 =>
    if !s.overPinned then s
    else
      match s.victim with
      | none => s
      | some (e, n, k, h) =>
        let s := s.released h
        (s.modCtx e n fun x => { x with handles := mput x.handles k { h with prio := 0 } }).demote fuel

/-- R475 after a handle has been made or raised. -/
def State.applyPins (s : State) : State :=
  s.demote ((s.cores.map fun c => (allCtx.map fun n => (c.2.ctx n).handles.length).sum).sum)

/-- RHOLD's translation of its pages, first page first; a miss takes a ticket, and the instruction issues again after it. -/
def State.holdPages (s : State) (a : Word) (got : List (Nat × Nat × Bool)) : Nat → Except Res (State × List (Nat × Nat × Bool))
  | 0 => .ok (s, got)
  | k + 1 =>
    let ep := s.cur.1
    let r := s.look ep a
    match r.2 with
    | .hit t => r.1.holdPages (a + 65536) (got ++ [(aVpn a, t.pa a / 65536, decide (t.cls = .lat))]) k
    | .miss kind =>
      let acc := r.1.newAcc r.1.me.nextAge (.range 8 0 0 0) [(a, 0, 8)] (maskRun 512 0 8) 0 .none .remote
      if r.1.me.ticketRoom 1 then .error (.next ((r.1.addMissed ep acc kind).holdOn (.replay acc.age)))
      else .error (.next { r.1 with out := .stalled })

/-- The lowest number below `n` that a table does not list. -/
def freeKey {α : Type} (m : SMap α) (n : Nat) : Option Nat := (List.range n).find? fun k => (mget m k).isNone

/-- RHOLD (R477). -/
def execRhold (rd rs1 rs2 : Reg) (s : State) : Res :=
  let a := s.x rs1
  let d := s.x rs2
  let n := (fld d 32 32 : BitVec 32).toNat
  if n = 0 ∨ n > 65536 ∨ fld d 3 29 ≠ (0 : BitVec 29) then trap 2 d s
  else if a.toNat % 65536 ≠ 0 then trap 6 a s
  else if aDev a ≠ s.dev ∨ aWin a then trap 17 a s
  else
    match freeKey s.ctx.handles 8 with
    | none => illegal s
    | some k =>
      match s.holdPages a [] n with
      | .error r => r
      | .ok (s, pages) =>
        let s := { s.setCtx { s.ctx with handles := mput s.ctx.handles k ⟨pages, fld d 0 3, s.next⟩ } with next := s.next + 1 }
        wrX rd (w64 k) s.applyPins

/-- RPRIO (R477); a handle that stops pinning releases its pages (R475). -/
def execRprio (rs1 rs2 : Reg) (s : State) : Res :=
  let v := s.x rs1
  let p := s.x rs2
  match (if v.toNat ≤ 7 then mget s.ctx.handles v.toNat else none) with
  | none => trap 2 v s
  | some h =>
    if p.toNat > 7 then trap 2 v s
    else
      let s := if p = 0 then s.released h else s
      retire ((s.setCtx { s.ctx with handles := mput s.ctx.handles v.toNat { h with prio := fld p 0 3 } }).applyPins)

/-- RDROP (R477). -/
def execRdrop (rs1 : Reg) (s : State) : Res :=
  let v := s.x rs1
  match (if v.toNat ≤ 7 then mget s.ctx.handles v.toNat else none) with
  | none => trap 2 v s
  | some h =>
    let s := s.released h
    retire (s.setCtx { s.ctx with handles := mdel s.ctx.handles v.toNat })

/-! ## Leases at issue (R488 to R491) -/

/-- The team of a core: the leader's while it is ganged (R331). -/
def State.teamOf (s : State) (ep : Nat) : Option Team :=
  let c := s.core ep
  if c.gang.g then (s.core (c.gang.set.headD ep)).team else c.team

/-- The number of the team of a core. -/
def State.teamNum (s : State) (ep : Nat) : BitVec 16 := match s.teamOf ep with | some t => t.num | none => 0

/-- A command to a memory core that its access table denies: the master is frozen, and the instruction issues again (R543). -/
def State.denyCommand (s : State) (mc : Nat) : Res :=
  .next { s.freeze s.cur.1 s.cur.2 (s.win mc) 6 [] with out := .stalled }

/-- A malformed count of LEASE and RENEW. -/
def countBad (v : Word) : Bool := fld v 16 48 != (0 : BitVec 48) || fld v 0 16 == (0 : BitVec 16)

/-- An SC-class operation is announced once the context's earlier accesses are performed: they happen before every later SC-class
operation (R309, R319). -/
def State.announceSc (s : State) (k : ScKind) : Res :=
  let r := s.relStep
  if !r.2 then stallIn r.1 else .next ((r.1.holdOn .sc).announce s.cur.1 s.cur.2 k)

/-- LEASE (R489): the checks at issue; the outcome is decided at its place in the SC order. -/
def execLease (rd rs1 rs2 : Reg) (s : State) : Res :=
  let w := s.x rs1
  let n := s.x rs2
  let mc := aEp w
  if aDev w ≠ s.dev ∨ !aWin w ∨ aOff w ≠ 0 ∨ !isMemCore mc then trap 24 w s
  else if countBad n then trap 2 n s
  else
    match freeKey s.ctx.leases 4 with
    | none => illegal s
    | some k =>
      if !s.admitted (s.master s.cur.1) kMem mc rCommand then s.denyCommand mc
      else s.announceSc (.lease rd mc (fld n 0 16) k)

/-- The memory core of a lease slot named by X[rs1]. -/
def Ctx.leaseOf (x : Ctx) (v : Word) : Option Nat := if v.toNat ≤ 3 then mget x.leases v.toNat else none

/-- RENEW (R490). -/
def execRenew (rd rs1 rs2 : Reg) (s : State) : Res :=
  let v := s.x rs1
  let n := s.x rs2
  match s.ctx.leaseOf v with
  | none => trap 2 v s
  | some mc =>
    if countBad n then trap 2 n s
    else if !s.admitted (s.master s.cur.1) kMem mc rCommand then s.denyCommand mc
    else s.announceSc (.renew rd v.toNat (fld n 0 16))

/-- UNLEASE (R491). -/
def execUnlease (rs1 : Reg) (s : State) : Res :=
  let v := s.x rs1
  match s.ctx.leaseOf v with
  | none => trap 2 v s
  | some mc =>
    if !s.admitted (s.master s.cur.1) kMem mc rCommand then s.denyCommand mc
    else s.announceSc (.unlease v.toNat)

/-! ## MCALL at issue (R492) -/

/-- [base, base + n) and an address's line overlap. -/
def nearLine (ranges : List (Word × Nat)) (va : Word) : Bool :=
  ranges.any fun r => overlap r.1.toNat r.2 (lineVa va).toNat 128

/-- The named ranges of an argument block. -/
def argRanges (ws : List Word) (n : Nat) : List (Word × Nat) :=
  (List.range n).map fun i => (ws.getD (2 * i + 1) 0, (ws.getD (2 * i + 2) 0).toNat)

/-- The release of MCALL for its ranges: buffered entries of the team are sent on, and its dirty OWN lines go home. -/
def State.releaseRanges (s : State) (ep : Nat) (ranges : List (Word × Nat)) : State :=
  let o := (s.core ep).owner
  (s.cores.map (·.1)).foldl (fun (s : State) e =>
    let s := if (s.core e).owner = o then s.cbDrain e fun b => nearLine ranges b.va else s
    ((s.core e).l1.filter fun l => !l.2.lat && l.2.owner == o && nearLine ranges l.2.va).foldl
      (fun (s : State) l => s.writeBack e l.1) s) s

/-- What the team has sent on for the ranges has not been applied yet, or the context's accesses and the core's commands there, reads
among them, are not performed (R304, R306). -/
def State.rangesBusy (s : State) (ep : Nat) (ranges : List (Word × Nat)) : Bool :=
  let mine (o : PressOp) : Bool := (o.who.ep == ep || (match o.kind with | .join _ _ _ ps _ => ps.any fun p => p.ep == ep | _ => false)) &&
    nearLine ranges o.va
  (s.pressQ.any mine) || (s.routers.any fun e => mine e.op) ||
    ((s.core ep).accs.any fun a => a.ctx == s.cur.2 && (a.chunks.any fun c => nearLine ranges c.1)) ||
    (s.core ep).held.any fun h => ranges.any fun r => overlap r.1.toNat r.2 h.base.toNat h.len

/-- MCALL: the argument block is read with ordinary loads, the ranges are released, and the call is sent. -/
def execMcall (rd rs1 rs2 : Reg) (s : State) : Res :=
  let v := s.x rs1
  let a := s.x rs2
  let ep := s.cur.1
  if fld v 2 14 ≠ (0 : BitVec 14) ∨ fld v 28 36 ≠ (0 : BitVec 36) then trap 2 v s
  else
    match mget s.ctx.leases (v.toNat % 4) with
    | none => illegal s
    | some mc =>
      if a.toNat % 64 ≠ 0 then trap 4 a s
      else
        match s.innerWords a 8 with
        | .error r => r
        | .ok (s, ws) =>
          let hdr := ws.headD 0
          if fld hdr 2 62 ≠ (0 : BitVec 62) then trap 2 hdr s
          else if !s.ticketFree ep s.cur.2 then stallIn s
          else
            let ranges := argRanges ws hdr.toNat
            let s := s.releaseRanges ep ranges
            let m := s.mc mc
            let used := (if m.call.isSome then 1 else 0) + (if m.queued.isSome then 1 else 0) + m.sent.length
            if s.rangesBusy ep ranges ∨ used ≥ 2 then stallIn s
            else if !s.admitted (s.master ep) kMem mc rCommand then s.denyCommand mc
            else
              let words : Vector Word 8 := Vector.ofFn fun i => ws.getD i.val 0
              let c : Call := ⟨(fld v 16 12 : BitVec 12).toNat, words, ep, s.cur.2, rd, s.ctx.nCall, 0⟩
              let s := s.setMc mc { m with sent := m.sent ++ [c] }
              retire (s.setCtx { s.ctx with
                nCall := s.ctx.nCall + 1
                busyX := if rd = 0 then s.ctx.busyX else rd :: s.ctx.busyX })

/-! ## The places in the SC order (R403, R489 to R491, R496) -/

/-- The memory core is FREE from a window on (R487): its lease and what it held for it are gone. -/
def MemCore.free (m : MemCore) (w : Nat) : MemCore :=
  { m with
    st := .free, lessee := none, team := 0, owner := 0, count := 0, call := none, queued := none, jump := none
    miss := none, await := none, broke := false, tlb := [], lapsed := none, freed := w }

/-- LEASE at its place (R489): a marked or disabled core is not leased (R524). -/
def State.leaseAt (s : State) (w ep : Nat) (n : Fin 11) (rd : Reg) (mc : Nat) (count : BitVec 16) (k : Nat) : State :=
  let m := s.mc mc
  if m.st = .free ∧ m.freed ≤ w ∧ !m.disabled ∧ !m.marked then
    let s := s.setMc mc { m with
      st := .leased, lessee := some (ep, n, k), team := s.teamNum ep, owner := (s.core ep).owner, count := count
      g := Vector.replicate 16 0, bufs := Vector.replicate 4 0, p := Vector.replicate 8 false
      bad := m.bad.filter fun b => decide (b < 4096) }
    (s.modCtx ep n fun x => { x with leases := mput x.leases k mc }).endHold ep n rd (w64 k)
  else s.endHold ep n rd (BitVec.allOnes 64)

/-- The lease of a slot has not lapsed: its core, in one of the states at hand. -/
def State.holds (s : State) (ep : Nat) (n : Fin 11) (k : Nat) (st : McState → Bool) : Option Nat :=
  match mget (s.ctxAt ep n).leases k with
  | some mc =>
    let m := s.mc mc
    if m.lessee = some (ep, n, k) ∧ st m.st then some mc else none
  | none => none

/-- RENEW at its place (R490); a HELD core is leased until the host releases it or the lease lapses. -/
def State.renewAt (s : State) (ep : Nat) (n : Fin 11) (rd : Reg) (k : Nat) (count : BitVec 16) : State :=
  match s.holds ep n k (fun st => st == .leased || st == .running || st == .held) with
  | some mc => (s.setMc mc { s.mc mc with count := count, lapsed := none }).endHold ep n rd 0
  | none => s.endHold ep n rd 1

/-- UNLEASE at its place (R491): a core without calls is FREE at once. After a lapse it completes on a FREE core: its context waits
until the drain ends (R498). -/
def State.unleaseAt (s : State) (w ep : Nat) (n : Fin 11) (k : Nat) : State :=
  if (s.holds ep n k (· == .draining)).isSome then s
  else
    let s := match s.holds ep n k (fun st => st == .leased || st == .running) with
      | some mc =>
        let m := s.mc mc
        s.setMc mc (if m.call.isNone ∧ m.queued.isNone ∧ m.sent.isEmpty then m.free w else { m with st := .releasing, lapsed := none })
      | none => s
    (s.modCtx ep n fun x => { x with leases := mdel x.leases k }).endHold ep n 0 0

/-- The report of a lapse at the context that issued the LEASE, with the bundle and the entry of the interrupted call (R148, R496), and
klease.V of the slot; an UNLEASE of the context that waits for the drain completes (R498). -/
def State.lapseReport (s : State) (mc : Nat) (m : MemCore) : State :=
  match m.lessee with
  | none => s
  | some (ep, n, k) =>
    let va : Nat × Nat := match m.call with | some c => (8 * m.pc, c.entry) | none => (0, 0)
    let s := s.modCtx ep n fun x => { x with leases := mdel x.leases k }
    let s := if (s.ctxAt ep n).hold = .sc ∧ !(s.sc.any fun o => o.ep = ep && o.ctx = n) then s.endHold ep n 0 0 else s
    s.post (.report ep n (mkRecord 35 n 0 0 s.dev 1 mc (w64 va.1) (w64 va.2) true))

/-- A lapse at its place (R496): the memory core performs no further bundle. DESIGN CHOICE (log 138): a core that is HELD then stays
HELD, without the lease. -/
def State.lapseAt (s : State) (mc : Nat) : State :=
  let m := s.mc mc
  match m.st with
  | .leased => s.setMc mc { m with st := .draining, lapsed := none }
  | .running => s.setMc mc { m with st := .draining, lapsed := none }
  | .held => (s.setMc mc { m with lessee := none, lapsed := none }).lapseReport mc m
  | _ => s.setMc mc { m with lapsed := none }

/-- One announcement is delivered (R403): its context still waits for it. -/
def State.scAt (s : State) (o : ScOp) : State :=
  if (s.ctxAt o.ep o.ctx).hold ≠ .sc then s
  else match o.kind with
    | .fence => s.endHold o.ep o.ctx 0 0
    | .bar l => s.barPlaced o.ep o.ctx l
    | .lease rd mc count k => s.leaseAt o.window o.ep o.ctx rd mc count k
    | .renew rd k count => s.renewAt o.ep o.ctx rd k count
    | .unlease k => s.unleaseAt o.window o.ep o.ctx k

/-- The window whose announcements are delivered next: the earliest with one, or with a lapse. -/
def State.nextWindow (s : State) : Option Nat :=
  let ws := (s.sc.map (·.window)) ++ s.mcs.filterMap fun m => m.2.lapsed
  ws.foldl (fun (b : Option Nat) w => match b with | none => some w | some v => some (min v w)) none

/-- NOTIFICATION_WINDOW (R402, R403): 64 cycles after the end of a window its lapses take effect, and then its announcements
in the order of endpoint and context. -/
def execNotificationWindow (s : State) : Res :=
  match s.nextWindow with
  | none => .next s
  | some w =>
    if s.cycle < 32 * (w + 1) + 64 then .next s
    else
      let ops := sortBy (fun o => o.ep * 16 + o.ctx.val) (s.sc.filter fun o => o.window = w)
      let lapses := (s.mcs.filter fun m => m.2.lapsed = some w).map (·.1)
      let s := { s with sc := s.sc.filter fun o => o.window ≠ w, windows := w + 1 }
      let s := lapses.foldl (fun (s : State) mc => s.lapseAt mc) s
      .next (ops.foldl State.scAt s)

end Sys2Proof.Machine
end

