-- ==== Sys2Proof/Machine/Aes.lean ====
section
/-! DEFINITION.
AES-128-CMAC over the 9 bytes of a grant token's message (R537): FIPS 197 and NIST SP 800-38B, on lists of bytes as numbers. -/

namespace Sys2Proof.Machine

open Sys2Proof

/-- Multiplication by x in the field of AES. -/
def aesX (b : Nat) : Nat := if b < 128 then 2 * b else (2 * b) ^^^ 0x11B

/-- The substitution box of FIPS 197, a row for each high digit of the byte; in a row, the entry of the highest low digit comes first. -/
def aesBox : List Nat :=
  [0x76ABD7FE2B670130C56F6BF27B777C63,
   0xC072A49CAFA2D4ADF04759FA7DC982CA,
   0x1531D871F1E5A534CCF73F362693FDB7,
   0x75B227EBE28012079A059618C323C704,
   0x842FE329B3D63B52A05A6E1B1A2C8309,
   0xCF584C4A39BECB6A5BB1FC20ED00D153,
   0xA89F3C507F02F94585334D43FBAAEFD0,
   0xD2F3FF1021DAB6BCF5389D928F40A351,
   0x73195D643D7EA7C41744975FEC130CCD,
   0xDB0B5EDE14B8EE4688902A22DC4F8160,
   0x79E4959162ACD3C25C2406490A3A32E0,
   0x08AE7A65EAF4566CA94ED58D6D37C8E7,
   0x8A8BBD4B1F74DDE8C6B4A61C2E2578BA,
   0x9E1DC186B95735610EF6034866B53E70,
   0xDF2855CEE9871E9B948ED9691198F8E1,
   0x16BB54B00F2D99416842E6BF0D89A18C]

/-- The substitution of a byte. -/
def aesSub (b : Nat) : Nat := aesBox.getD (b / 16) 0 / 256 ^ (b % 16) % 256

/-- Exclusive or of two byte lists. -/
def xorBytes (a b : List Nat) : List Nat := List.zipWith (fun x y => x ^^^ y) a b

/-- The round keys from a round key on, with the round constant. -/
def aesKeys (key : List Nat) (rc : Nat) : Nat → List (List Nat)
  | 0 => [key]
  | k + 1 =>
    let w (i : Nat) : List Nat := (key.drop (4 * i)).take 4
    let t := xorBytes ((((w 3).drop 1) ++ (w 3).take 1).map aesSub) [rc, 0, 0, 0]
    let w0 := xorBytes (w 0) t
    let w1 := xorBytes (w 1) w0
    let w2 := xorBytes (w 2) w1
    let w3 := xorBytes (w 3) w2
    key :: aesKeys (w0 ++ w1 ++ w2 ++ w3) (aesX rc) k

/-- ShiftRows, on bytes in column order. -/
def aesShift (s : List Nat) : List Nat := (List.range 16).map fun i => s.getD ((i + 4 * (i % 4)) % 16) 0

/-- MixColumns. -/
def aesMix (s : List Nat) : List Nat :=
  (List.range 16).map fun i =>
    let c := i / 4 * 4
    let b (k : Nat) : Nat := s.getD (c + (i + k) % 4) 0
    aesX (b 0) ^^^ aesX (b 1) ^^^ b 1 ^^^ b 2 ^^^ b 3

/-- The rounds after the first key addition. -/
def aesRounds (s : List Nat) : List (List Nat) → List Nat
  | [] => s
  | [k] => xorBytes (aesShift (s.map aesSub)) k
  | k :: ks => aesRounds (xorBytes (aesMix (aesShift (s.map aesSub))) k) ks

/-- AES-128 of a block. -/
def aes (key block : List Nat) : List Nat :=
  match aesKeys key 1 10 with
  | k :: ks => aesRounds (xorBytes block k) ks
  | [] => block

/-- A number of n bytes, least significant first. -/
def leBytes (v : Nat) : Nat → List Nat
  | 0 => []
  | n + 1 => v % 256 :: leBytes (v / 256) n

/-- A block read as a number, most significant byte first. -/
def beNat (bs : List Nat) : Nat := bs.foldl (fun (v : Nat) b => 256 * v + b) 0
def beBytes (v n : Nat) : List Nat := (leBytes v n).reverse

/-- The subkey step of SP 800-38B. -/
def cmacDouble (b : List Nat) : List Nat :=
  let v := beNat b
  beBytes ((2 * v % 2 ^ 128) ^^^ (if v < 2 ^ 127 then 0 else 0x87)) 16

/-- The tag of a message shorter than a block. -/
def cmacShort (key msg : List Nat) : List Nat :=
  let k2 := cmacDouble (cmacDouble (aes key (List.replicate 16 0)))
  aes key (xorBytes (msg ++ 0x80 :: List.replicate (15 - msg.length) 0) k2)

/-- The MAC field that a token has to hold: T[0], T[1], T[2] (R537). -/
def tokenMac (fkey : BitVec 128) (token : Word) (src dst : BitVec 10) : BitVec 24 :=
  let t := cmacShort (leBytes fkey.toNat 16) (leBytes token.toNat 5 ++ leBytes src.toNat 2 ++ leBytes dst.toNat 2)
  BitVec.ofNat 24 (beNat (t.take 3))

end Sys2Proof.Machine
end

