-- ==== Sys2Proof/Machine/MemCore.lean ====
section
/-! DEFINITION.
Memory cores: bundles and ports (R478 to R484), the life of a call (R492 to R496) and errors (R497). -/

namespace Sys2Proof.Machine

open Sys2Proof

/-! ## Calls -/

/-- A call starts (R492). -/
def MemCore.start (m : MemCore) (c : Call) : MemCore :=
  { m with
    g := Vector.ofFn fun i => if h : i.val < 8 then c.words[i.val] else m.g[i]
    bad := m.bad.filter fun b => decide (b < 4096 ∨ 4104 ≤ b)
    pc := c.entry, bi := 0, lb := 0, p := Vector.replicate 8 false, jump := none, miss := none, await := none
    call := some c, st := if m.st = .leased then .running else m.st }

/-- The running call ends with a token; a queued call starts (R487, R493), but not on a core whose lease has lapsed (R496). -/
def MemCore.endCall (m : MemCore) (token : Word) : MemCore :=
  match m.call with
  | none => m
  | some c =>
    let m := { m with call := none, jump := none, miss := none, await := none, ended := m.ended ++ [(c, token)] }
    match m.queued with
    | some q => if m.st = .draining then m else ({ m with queued := none }).start q
    | none => { m with st := if m.st = .running then .leased else m.st }

/-- The calls of a core run (R487). -/
def MemCore.runs (m : MemCore) : Bool := m.call.isSome && (m.st == .running || m.st == .releasing)

/-- The party of the lessee. -/
def State.lesseeParty (s : State) (m : MemCore) : Party :=
  match m.lessee with
  | some (ep, n, _) => s.party ep n
  | none => ⟨s.dev, 0, 0, 0⟩

/-- Every access of a memory core is performed: nothing of its lessee is at a press, and no push is on its way. -/
def State.mcQuiet (s : State) (m : MemCore) : Bool :=
  let who := s.lesseeParty m
  m.pushes.isEmpty && !(s.pressQ.any fun o => o.who == who)

/-- A call ends with STATUS 3 (R482, R493): the cause in VALUE[31:24], the address in FADDR. -/
def MemCore.accessFault (m : MemCore) (cause : BitVec 6) (addr : Word) : MemCore :=
  match m.call with
  | none => m
  | some c => { m.endCall (callToken (BitVec.ofNat 32 (cause.toNat * 2 ^ 24)) m.pc c.seq 3) with faddr := addr }

/-- The index of the next bundle (R480). -/
def MemCore.nextPc (m : MemCore) : Nat := match m.jump with | some t => t | none => (m.pc + 1) % 4096

/-! ## The outcome of a move -/

/-- What a move that is carried out gives. -/
inductive McRes where
  | ok (s : State)
  /-- the bundle stalls: a translation miss to be ticketed, and sectors to be snooped (R481, R482, R515) -/
  | stall (miss : Option McMiss) (secs : List Nat)
  /-- the call ends with STATUS 3 -/
  | fail (s : State) (cause : BitVec 6) (addr : Word)
  /-- the access is denied, or the page is another team's: the memory core is frozen (R482, R543) -/
  | freeze (s : State) (addr : Word)
  /-- a word that the move reads cannot be corrected (R497) -/
  | broken
  deriving DecidableEq, Repr

/-! ## Translation (R478, R482) -/

/-- The lookup: the core's own 16 entries, then the L2 TLB of cluster VPN mod 72. -/
def State.mcLook (s : State) (mc : Nat) (a : Word) : State × Look :=
  let m := s.mc mc
  match m.tlb.find? fun t => t.covers (aVpn a) with
  | some t => (s, checkHit t m.owner a)
  | none =>
    match s.lookupL2 (some m.owner) a with
    | .hit t => (s.setMc mc { m with tlb := (t :: m.tlb).take 16 }, .hit t)
    | r => (s, r)

/-- An access of a memory core to translated memory of its device: alignment, device, translation and the access table; then
what the access does with the entry. -/
def State.mcMemory (s : State) (mc : Nat) (a : Word) (n : Nat) (need : Need) (act : State → Tlb → McRes) : McRes :=
  let write : Bool := need != .read
  if a.toNat % n ≠ 0 then .fail s (if write then 6 else 4) a
  else if aDev a ≠ s.dev then .fail s 17 a
  else
    let m := s.mc mc
    if m.miss.any (fun x => x.va == a && x.write == write && x.status == some 1) then .fail s (if write then 15 else 13) a
    else
      let r := s.mcLook mc a
      match r.2 with
      | .miss k => .stall (some ⟨a, k, write, none, none⟩) []
      | .hit t =>
        if s.admitted (s.master mc) kHome (t.pa a / 65536) (need.right t.cls) then act r.1 t
        else .freeze r.1 a

/-- The checks of an access to a window: a compute core's, admitted by the access table; it follows the memory core's pushes to its line
(R482). -/
def State.mcWindow (s : State) (mc : Nat) (a : Word) (n : Nat) (write : Bool) (act : State → McRes) : McRes :=
  if a.toNat % n ≠ 0 then .fail s (if write then 6 else 4) a
  else if aDev a ≠ s.dev ∨ !isCompute (aEp a) then .fail s 24 a
  else if !s.admitted (s.master mc) kCore (aEp a) (if write then rWrite else rRead) then .freeze s a
  else if (s.mc mc).pushes.any fun p => !p.canopy && p.ep == aEp a && p.addr / 128 == aOff a / 128 then .stall none []
  else act s

/-! ## Loads -/

/-- The error report of a poisoned line that the call meets, at its lessee (R149, R523). -/
def State.mcPoison (s : State) (mc reason line : Nat) (a : Word) : State :=
  match (s.mc mc).lessee with
  | some (ep, n, _) => s.tellPoison ep n reason line a
  | none => s

/-- The same for words of a scratchpad (R149, R290). -/
def State.mcTellPad (s : State) (mc : Nat) (a : Word) (n : Nat) : State :=
  match (s.mc mc).lessee with
  | some (ep, c, _) => s.tellPad ep c (aEp a) 0 [(aOff a, n)]
  | none => s

/-- A load of n bytes through an entry (R482): an exact read of a LAT page, a plain read of another. -/
def State.mcRead (s : State) (mc : Nat) (a : Word) (n : Nat) (act : State → Nat → State) (t : Tlb) : McRes :=
  let line := t.pa a / 128
  let off := a.toNat % 128
  let d := lineOf s.mem line
  if s.markers.any fun m => m.1 == line then .stall none []
  else match t.cls with
  | .lat =>
    let who := s.lesseeParty (s.mc mc)
    if s.pressQ.any fun o => o.line == line && o.who == who then .stall none []
    else
      -- a poisoned line gives a free value, and its report (R149, R523)
      let r := s.pressLine ⟨line, lineVa a, t.typ, t.vint, who, 0, .read t.width 0 t.cork, 0⟩
      if t.cork || (maskRun 128 off n &&& ~~~ readMask (s.line line) t.typ t.width r.2) == 0 then
        .ok (act r.1 (lineVal ((s.line line).shown t.typ t.width r.2) off n))
      else .fail r.1 16 a
  | c =>
    match (if c = .host then s.heldSectors line (maskRun 128 off n) false else []) with
    | [] =>
      if s.poisoned.contains line then
        let s := s.mcPoison mc 0 line a
        .ok (act s.fresh (lineVal (Config.freeElem s.free) off n))
      else .ok (act s (lineVal d off n))
    | secs => .stall none secs

/-- ld, lwz and lld: what is done with the bytes. -/
def State.mcLoad (s : State) (mc : Nat) (a : Word) (n : Nat) (act : State → Nat → State) : McRes :=
  if aWin a then s.mcWindow mc a n false fun s =>
    match s.winRead (aEp a) false (aOff a) n (2 ^ n - 1) with
    | .ok v => .ok (act (s.mcTellPad mc a n) v)
    | .empty _ => .fail s 16 a
    | .bad _ => .fail s 24 a
  else s.mcMemory mc a n .read fun s t => s.mcRead mc a n act t

/-! ## Stores and joins -/

/-- The call signature gets the bits of a line (R493). -/
def State.mcSign (s : State) (mc : Nat) (a : Word) : State :=
  let m := s.mc mc
  s.setMc mc { m with call := m.call.map fun c => { c with sig := sigAdd c.sig (aLine a) } }

/-- A store to an OWN line is performed at its home; the team's L1s lose the line (R482). -/
def State.mcOwn (s : State) (mc : Nat) (line : Nat) (a : Word) (valid : BitVec 128) (data : BitVec 1024) : State :=
  let o := (s.mc mc).owner
  let s := (s.cores.map (·.1)).foldl (fun (s : State) e =>
    match mget (s.core e).l1 line with
    | some l => if l.lat ∨ l.owner ≠ o then s else s.writeBack e line
    | none => s) s
  (s.putHome line valid data).mcSign mc a

/-- A store to a HOST line, after its back-invalidations (R515). -/
def State.mcHost (s : State) (mc line : Nat) (a : Word) (valid : BitVec 128) (data : BitVec 1024) : McRes :=
  match s.heldSectors line valid true with
  | [] =>
    let s := if s.poisoned.contains line ∧ valid ≠ BitVec.allOnes 128 then s.mcPoison mc 1 line a else s
    .ok (s.putHome line valid data)
  | secs => .stall none secs

/-- A join of the elements of a line, for the lessee (R149, R482). -/
def State.mcJoin (s : State) (mc : Nat) (t : Tlb) (line : Nat) (a : Word) (valid : BitVec 128) (data : BitVec 1024) : State :=
  let who := s.lesseeParty (s.mc mc)
  let s := s.toPress ⟨line, lineVa a, t.typ, t.vint, who, 0, .join t.width valid data [who] false, 0⟩
  if t.typ = 9 ∨ t.typ = 10 then s.mcSign mc a else s

/-- st and sw4, and lst, to translated memory. -/
def State.mcWrite (s : State) (mc : Nat) (a : Word) (n : Nat) (data : BitVec 1024) (t : Tlb) : McRes :=
  let line := t.pa a / 128
  let valid := maskRun 128 (a.toNat % 128) n
  let data := data <<< (8 * (a.toNat % 128))
  match t.cls with
  | .own => .ok (s.mcOwn mc line a valid data)
  | .host => s.mcHost mc line a valid data
  | .lat =>
    if n = 128 ∨ n ≠ wBytes t.width ∨ !joinAccepts t.typ then .fail s 17 a else .ok (s.mcJoin mc t line a valid data)

/-- st, sw4 and lst. -/
def State.mcStore (s : State) (mc : Nat) (a : Word) (n : Nat) (data : BitVec 1024) : McRes :=
  if aWin a then s.mcWindow mc a n true fun s =>
    match s.winPut (aEp a) false false (aOff a) n (data.toNat % 2 ^ (8 * n)) (2 ^ n - 1) with
    | .ok s => .ok s
    | .bad _ => .fail s 24 a
    | .full _ => .fail s 25 a
    | .busy => .stall none []
  else s.mcMemory mc a n .write fun s t => s.mcWrite mc a n data t

/-- ljoin (R482). -/
def State.mcLineJoin (s : State) (mc : Nat) (a : Word) (data : BitVec 1024) : McRes :=
  if aWin a then .fail s (if a.toNat % 128 ≠ 0 then 6 else if aDev a ≠ s.dev then 24 else 17) a
  else s.mcMemory mc a 128 .join fun s t =>
    if t.cls ≠ .lat ∨ ¬ (joinAccepts t.typ ∨ t.typ = 10) then .fail s 17 a
    else .ok (s.mcJoin mc t (t.pa a / 128) a (BitVec.allOnes 128) data)

/-! ## Errors of the line buffers (R497) -/

/-- Words that failed and are written whole are good again; the numbers of the words of the selected buffer (R497). -/
def MemCore.mend (m : MemCore) (ks : List Nat) : MemCore := { m with bad := m.bad.filter fun b => !ks.contains b }
def MemCore.bufWords (m : MemCore) : List Nat := (List.range 16).map fun k => 4112 + 16 * m.lb.val + k

/-- A port that reads the selected buffer whole (R480): a word of it that cannot be corrected breaks the call (R497). -/
def State.mcWhole (s : State) (mc : Nat) (r : McRes) : McRes :=
  if (s.mc mc).bufWords.any (s.mc mc).bad.contains then .broken else r

/-! ## Pushes (R483) -/

/-- A push leaves for its target core. -/
def State.mcPush (s : State) (mc ep addr : Nat) (canopy : Bool) (v : Word) : McRes :=
  let m := s.mc mc
  if !s.admitted (s.master mc) kCore ep rWrite then .freeze s v
  else .ok (s.setMc mc { m with pushes := m.pushes ++ [⟨mc, ep, canopy, addr, v, m.bufs[m.lb], m.team, m.pc, m.call.map fun c => (c.ctx, c.seq)⟩] })

/-- pw. -/
def State.mcPw (s : State) (mc : Nat) (v : Word) : McRes :=
  if v.toNat % 128 ≠ 0 then .fail s 6 v
  else if aDev v ≠ s.dev then .fail s (if aWin v then 24 else 17) v
  else if !aWin v ∨ !isCompute (aEp v) then .fail s 24 v
  else s.mcWhole mc (s.mcPush mc (aEp v) (aOff v) false v)

/-- pc. -/
def State.mcPc (s : State) (mc : Nat) (v : Word) : McRes :=
  let ep := (fld v 16 11 : BitVec 11).toNat
  if fld v 13 3 ≠ (0 : BitVec 3) ∨ fld v 27 37 ≠ (0 : BitVec 37) ∨ !isCompute ep then .fail s 24 v
  else s.mcWhole mc (s.mcPush mc ep (v.toNat % 8192) true v)

/-- A push that is refused ends the call that pushed, when that call still runs (R483, R493); a call that a lapse has stopped ends with
STATUS 1 alone (R496). -/
def MemCore.pushFails (m : MemCore) (p : Push) (cause : BitVec 6) : MemCore :=
  if m.st ≠ .draining ∧ (m.call.map fun c => (c.ctx, c.seq)) = p.call ∧ m.call.isSome then ({ m with pc := p.pc }).accessFault cause p.va
  else m

/-- The oldest push of a memory core reaches its target: it is accepted while the core runs the lessee's team, it waits while
that team is pre-empted from the core, and it fails otherwise. -/
def State.pushArrives (s : State) (mc : Nat) (p : Push) (rest : List Push) : State :=
  let s' := s.setMc mc { s.mc mc with pushes := rest }
  let fail (cause : BitVec 6) : State := s'.setMc mc ((s'.mc mc).pushFails p cause)
  if (s.teamOf p.ep).any fun t => t.num = p.team then
    if p.canopy then
      s'.modCore p.ep fun c => c.putCanopy (128 * p.addr) 128 p.data.toNat
    else
      match s'.winPut p.ep false false p.addr 128 p.data.toNat (2 ^ 128 - 1) with
      | .ok s => s
      | .bad _ => fail 24
      | .full _ => fail 25
      | .busy => s
  else if s.images.any fun i => i.team == p.team && i.cores.any fun c => c.1 == p.ep then s
  else fail 24

/-- MC_PUSH_ARRIVAL of memory core k's oldest push. A push to a window offset outside the scratchpad is refused. -/
def execMcPushArrival (k : Nat) (s : State) : Res :=
  match (s.mc k).pushes with
  | [] => .next s
  | p :: rest =>
    if p.canopy ∨ p.addr < (s.core p.ep).padSize ∨ !((s.teamOf p.ep).any fun t => t.num = p.team) then .next (s.pushArrives k p rest)
    else .next (s.setMc k (({ s.mc k with pushes := rest } : MemCore).pushFails p 24))

/-! ## Ports (R480) -/

/-- The ALU (R480): r := a OP v, by port. -/
def mcAlu (port : Nat) (a v : Word) : Word :=
  match port with
  | 17 => a + v
  | 18 => a - v
  | 19 => a &&& v
  | 20 => a ||| v
  | 21 => a ^^^ v
  | 22 => a <<< (v.toNat % 64)
  | 23 => a >>> (v.toNat % 64)
  | 24 => a.sshiftRight (v.toNat % 64)
  | 25 => a * v
  | 26 => wBool (a.ult v)
  | 27 => wBool (a.slt v)
  | 28 => wBool (a == v)
  | 29 => if a.ult v then a else v
  | 30 => if a.ult v then v else a
  | 31 => v + 1
  | 32 => v - 1
  | 61 => ~~~v
  | _ => -v

/-- The memory core changes only itself. -/
def State.mcSet (s : State) (mc : Nat) (f : MemCore → MemCore) : McRes := .ok (s.setMc mc (f (s.mc mc)))

/-- Word bi of the selected buffer, and the buffers with it replaced. -/
def MemCore.bufWord (m : MemCore) : Word := fld m.bufs[m.lb] (64 * m.bi.val) 64
def MemCore.setBufWord (m : MemCore) (v : Word) : MemCore :=
  let sh := 64 * m.bi.val
  let k : BitVec 1024 := (BitVec.allOnes 64).zeroExtend 1024 <<< sh
  { m with bufs := m.bufs.set m.lb ((m.bufs[m.lb] &&& ~~~k) ||| (v.zeroExtend 1024 <<< sh)) }

/-- bi advances modulo 16. -/
def MemCore.nextWord (m : MemCore) : MemCore := { m with bi := m.bi + 1 }

/-- One trigger of the ALU. -/
def State.mcAluPort (s : State) (mc port : Nat) (v : Word) : McRes := s.mcSet mc fun m => { m with r := mcAlu port m.a v }

/-- ld and lwz. -/
def State.mcLd (s : State) (mc n : Nat) (v : Word) : McRes :=
  s.mcLoad mc v n fun s x => s.setMc mc { s.mc mc with lr := w64 x }

/-- lld. -/
def State.mcLld (s : State) (mc : Nat) (v : Word) : McRes :=
  s.mcLoad mc v 128 fun s x =>
    let m := s.mc mc
    s.setMc mc ({ m with bufs := m.bufs.set m.lb (BitVec.ofNat 1024 x) }.mend m.bufWords)

/-- st and sw4. -/
def State.mcSt (s : State) (mc n : Nat) (v : Word) : McRes := s.mcStore mc (s.mc mc).sa n (v.zeroExtend 1024)

/-- lst. -/
def State.mcLst (s : State) (mc : Nat) (v : Word) : McRes := s.mcWhole mc (s.mcStore mc v 128 ((s.mc mc).bufs[(s.mc mc).lb]))

/-- ljoin. -/
def State.mcLjoin (s : State) (mc : Nat) (v : Word) : McRes := s.mcWhole mc (s.mcLineJoin mc v ((s.mc mc).bufs[(s.mc mc).lb]))

/-- bput. -/
def State.mcBput (s : State) (mc : Nat) (v : Word) : McRes := s.mcSet mc fun m => ((m.setBufWord v).mend [4112 + 16 * m.lb.val + m.bi.val]).nextWord

/-- jmp: the target comes after one delay bundle. -/
def State.mcJmp (s : State) (mc : Nat) (v : Word) : McRes := s.mcSet mc fun m => { m with jump := some v.toNat }

/-- fence: it stalls until every earlier access is performed (R481). -/
def State.mcFence (s : State) (mc : Nat) : McRes := if s.mcQuiet (s.mc mc) then .ok s else .stall none []

/-- A move of a value to a port; jmp, and the waiting of done and fence, are the bundle's. -/
def State.mcPort (s : State) (mc port : Nat) (v : Word) : McRes :=
  if port < 16 then
    s.mcSet mc fun m => ({ m with g := m.g.set (port % 16) v (Nat.mod_lt _ (by decide)) }).mend [4096 + port % 16]
  else if (17 ≤ port ∧ port ≤ 32) ∨ port = 61 ∨ port = 62 then s.mcAluPort mc port v
  else if 49 ≤ port ∧ port ≤ 55 then
    s.mcSet mc fun m => { m with p := m.p.set ((port - 48) % 8) (v != 0) (Nat.mod_lt _ (by decide)) }
  else match port with
    | 16 => s.mcSet mc fun m => { m with a := v }
    | 34 => s.mcLd mc 8 v
    | 35 => s.mcLd mc 4 v
    | 37 => s.mcSet mc fun m => { m with sa := v }
    | 38 => s.mcSt mc 8 v
    | 39 => s.mcSt mc 4 v
    | 40 => s.mcSet mc fun m => { m with lb := ⟨v.toNat % 4, Nat.mod_lt _ (by decide)⟩ }
    | 41 => s.mcLld mc v
    | 42 => s.mcLst mc v
    | 43 => s.mcLjoin mc v
    | 44 => s.mcPw mc v
    | 45 => s.mcPc mc v
    | 46 => s.mcSet mc fun m => { m with bi := ⟨v.toNat % 16, Nat.mod_lt _ (by decide)⟩ }
    | 47 => s.mcBput mc v
    | _ => .ok s

/-- The value of a readable port at the start of the cycle. -/
def MemCore.source (m : MemCore) (mc port : Nat) : Word :=
  if h : port < 16 then m.g[port]
  else if 49 ≤ port ∧ port ≤ 55 then wBool (m.p[(port - 48) % 8]'(Nat.mod_lt _ (by decide)))
  else match port with
    | 33 => m.r
    | 36 => m.lr
    | 48 => m.bufWord
    | 59 => w64 m.pc
    | 60 => w64 mc
    | _ => 0

/-! ## Bundles (R479, R484) -/

/-- A decoded move. -/
structure Move where
  imm : Bool
  dst : Nat
  src : Nat
  guard : Nat
  value : Word
  junk : Bool
  deriving DecidableEq, Repr

def moveOf (w : BitVec 32) : Move where
  imm := fld w 31 1 = 1
  dst := (fld w 25 6 : BitVec 6).toNat
  src := (fld w 19 6 : BitVec 6).toNat
  guard := (fld w 16 3 : BitVec 3).toNat
  value := (fld w 0 25 : BitVec 25).signExtend 64
  junk := fld w 0 16 != (0 : BitVec 16)

/-- Ports that may be read, and ports that may be written or trigger a unit. -/
def mcReadable (p : Nat) : Bool := decide (p < 16 ∨ p = 33 ∨ p = 36 ∨ (48 ≤ p ∧ p ≤ 55) ∨ p = 59 ∨ p = 60 ∨ p = 63)
def mcWritable (p : Nat) : Bool := !(decide (p = 33 ∨ p = 36 ∨ p = 48 ∨ p = 59 ∨ p = 60))
def mcAluTrigger (p : Nat) : Bool := decide ((17 ≤ p ∧ p ≤ 32) ∨ p = 61 ∨ p = 62)
/-- The move names bi, bput or bget. -/
def Move.indexed (v : Move) : Bool := decide (v.dst = 46 ∨ v.dst = 47) || (!v.imm && v.src == 48)

/-- A move fault that the bundle's word alone shows (R484); `delay`: it is the delay bundle of a taken jmp. -/
def bundleBad (a b : Move) (delay : Bool) : Bool :=
  let bad (v : Move) : Bool := !mcWritable v.dst || (!v.imm && (!mcReadable v.src || v.junk)) || (delay && v.dst == 56)
  bad a || bad b || (a.dst == b.dst && a.dst != 63) || (mcAluTrigger a.dst && mcAluTrigger b.dst) || (a.indexed && b.indexed)

/-- The move is carried out, and its value. -/
def Move.fires (v : Move) (m : MemCore) : Bool :=
  v.imm || v.guard == 0 || (m.p[v.guard % 8]'(Nat.mod_lt _ (by decide)))
def Move.get (v : Move) (m : MemCore) (mc : Nat) : Word := if v.imm then v.value else m.source mc v.src

/-- The word that a move reads cannot be corrected (R497). -/
def Move.broken (v : Move) (m : MemCore) : Bool :=
  !v.imm && ((decide (v.src < 16) && m.bad.contains (4096 + v.src)) || (v.src == 48 && m.bad.contains (4112 + 16 * m.lb.val + m.bi.val)))

/-- The move is a fence or a done. -/
def Move.fencing (v : Move) : Bool := v.dst == 57 || v.dst == 58

/-- One move of a bundle. -/
def State.mcMove (s : State) (mc : Nat) (fires : Bool) (dst : Nat) (v : Word) : McRes :=
  if !fires then .ok s else s.mcPort mc dst v

/-- The bundle stalls (R481): none of its moves is performed; a miss is sent to the fault buffer of its cluster. -/
def State.mcStall (s : State) (mc : Nat) (miss : Option McMiss) (secs : List Nat) : State :=
  let m := s.mc mc
  let s := secs.foldl (fun (s : State) sec =>
    if s.snoops.any fun p => p.sector = sec then s else { s with snoops := s.snoops ++ [⟨sec, mc, 0⟩] }) s
  match miss with
  | none => s
  | some x =>
    (s.setMc mc { m with miss := some x }).post
      (.request (aVpn x.va % 72) (s.dev, mc) (aVpn x.va) x.kind m.owner (fld x.va 12 4) (if x.write then 1 else 0) 0)

/-- A word of the instruction memory, of the g ports or of a line buffer that cannot be corrected (R497): STATUS 4, cause 36, and HELD. -/
def State.mcBroken (s : State) (mc : Nat) : State :=
  let m := s.mc mc
  let s := s.setMc mc { m.endAll 4 with st := .held, broke := true }
  match m.lessee with
  | some (ep, n, _) => (s.fresh).post (.report ep n (mkRecord 36 n 2 0 s.dev 1 mc (Config.freeSyndrome s.free) 0 true))
  | none => s

/-- The end of a bundle or of a trigger: the failure, freeze or stall that it meets. -/
def State.mcFinish (s : State) (mc : Nat) (r : McRes) (next : State → State) : State :=
  match r with
  | .broken => s.mcBroken mc
  | .ok t => next (t.setMc mc { t.mc mc with miss := none })
  | .stall miss secs => s.mcStall mc miss secs
  | .fail t cause a => t.setMc mc ((t.mc mc).accessFault cause a)
  | .freeze t a =>
    let t := t.setMc mc { t.mc mc with pc := (s.mc mc).nextPc }
    t.freeze mc 0 a 6 []

/-- The call ends with a move fault (R484). -/
def State.moveFault (s : State) (mc : Nat) : State :=
  let m := s.mc mc
  match m.call with
  | some c => s.setMc mc (m.endCall (callToken 0 m.pc c.seq 2))
  | none => s

/-- After both moves: the end of the call, or the next bundle. -/
def State.mcNext (s : State) (mc : Nat) (old : MemCore) (jump done : Option Word) : State :=
  let m := s.mc mc
  match done, m.call with
  | some v, some c => s.setMc mc (m.endCall (callToken (BitVec.ofNat 32 v.toNat) old.pc c.seq 0))
  | _, _ => s.setMc mc { m with pc := old.nextPc, jump := jump.map (·.toNat), await := none }

/-- After both moves of a bundle with a fence or a done, an access of the bundle itself may still have to be performed: the bundle goes
on when it is (R481). -/
def State.mcAwait (s : State) (mc : Nat) (old : MemCore) (fence : Bool) (jump done : Option Word) : State :=
  if fence && !s.mcQuiet (s.mc mc) then s.setMc mc { s.mc mc with await := some done } else s.mcNext mc old jump done

/-- MC_BUNDLE: the bundle at pc (R479 to R484). A bundle with a fence or a done stalls until the accesses before it are performed. -/
def execMcBundle (mc : Nat) (s : State) : Res :=
  let m := s.mc mc
  if !m.runs ∨ m.miss.any (fun x => x.status.isNone) ∨ s.pkg.ttrip then .next s
  else match m.await with
  | some done => .next (if s.mcQuiet m then s.mcNext mc m none done else s)
  | none =>
  if m.bad.contains m.pc then .next (s.mcBroken mc)
  else
    let w := mgetD m.imem m.pc 0
    let a := moveOf (fld w 0 32)
    let b := moveOf (fld w 32 32)
    let fa := a.fires m
    let fb := b.fires m
    let va := a.get m mc
    let vb := b.get m mc
    let far (v : Move) (f : Bool) (x : Word) : Bool := f && v.dst == 56 && decide (4096 ≤ x.toNat)
    let fence := (fa && a.fencing) || (fb && b.fencing)
    if bundleBad a b m.jump.isSome ∨ far a fa va ∨ far b fb vb then .next (s.moveFault mc)
    else if (fa && a.broken m) || (fb && b.broken m) then .next (s.mcBroken mc)
    else if fence && !s.mcQuiet m then .next s
    else
      let bget : Bool := (fa && !a.imm && a.src == 48) || (fb && !b.imm && b.src == 48)
      let t := if bget then s.setMc mc m.nextWord else s
      let r := match t.mcMove mc fa a.dst va with
        | .ok t => t.mcMove mc fb b.dst vb
        | r => r
      let pick (d : Nat) : Option Word := if fa && a.dst == d then some va else if fb && b.dst == d then some vb else none
      .next (s.mcFinish mc r fun t => t.mcAwait mc m fence (pick 56) (pick 57))

/-! ## Single triggers

Each of these is one port operation of a running call (R480, R482, R483): the move of a value to the port, without the advance
of the bundle index that the bundle makes. -/

/-- A trigger on a memory core whose call runs. -/
def State.mcTrigger (s : State) (mc : Nat) (r : McRes) : Res :=
  let m := s.mc mc
  if !m.runs ∨ m.miss.any (fun x => x.status.isNone) then .next s else .next (s.mcFinish mc r fun t => t)

def execMcAdd (mc : Nat) (v : BitVec 64) (s : State) : Res := s.mcTrigger mc (s.mcAluPort mc 17 v)
def execMcSub (mc : Nat) (v : BitVec 64) (s : State) : Res := s.mcTrigger mc (s.mcAluPort mc 18 v)
def execMcAnd (mc : Nat) (v : BitVec 64) (s : State) : Res := s.mcTrigger mc (s.mcAluPort mc 19 v)
def execMcOr (mc : Nat) (v : BitVec 64) (s : State) : Res := s.mcTrigger mc (s.mcAluPort mc 20 v)
def execMcXor (mc : Nat) (v : BitVec 64) (s : State) : Res := s.mcTrigger mc (s.mcAluPort mc 21 v)
def execMcShl (mc : Nat) (v : BitVec 64) (s : State) : Res := s.mcTrigger mc (s.mcAluPort mc 22 v)
def execMcShr (mc : Nat) (v : BitVec 64) (s : State) : Res := s.mcTrigger mc (s.mcAluPort mc 23 v)
def execMcSra (mc : Nat) (v : BitVec 64) (s : State) : Res := s.mcTrigger mc (s.mcAluPort mc 24 v)
def execMcMul (mc : Nat) (v : BitVec 64) (s : State) : Res := s.mcTrigger mc (s.mcAluPort mc 25 v)
def execMcLtu (mc : Nat) (v : BitVec 64) (s : State) : Res := s.mcTrigger mc (s.mcAluPort mc 26 v)
def execMcLt (mc : Nat) (v : BitVec 64) (s : State) : Res := s.mcTrigger mc (s.mcAluPort mc 27 v)
def execMcEq (mc : Nat) (v : BitVec 64) (s : State) : Res := s.mcTrigger mc (s.mcAluPort mc 28 v)
def execMcMinu (mc : Nat) (v : BitVec 64) (s : State) : Res := s.mcTrigger mc (s.mcAluPort mc 29 v)
def execMcMaxu (mc : Nat) (v : BitVec 64) (s : State) : Res := s.mcTrigger mc (s.mcAluPort mc 30 v)
def execMcInc (mc : Nat) (v : BitVec 64) (s : State) : Res := s.mcTrigger mc (s.mcAluPort mc 31 v)
def execMcDec (mc : Nat) (v : BitVec 64) (s : State) : Res := s.mcTrigger mc (s.mcAluPort mc 32 v)
def execMcNot (mc : Nat) (v : BitVec 64) (s : State) : Res := s.mcTrigger mc (s.mcAluPort mc 61 v)
def execMcNeg (mc : Nat) (v : BitVec 64) (s : State) : Res := s.mcTrigger mc (s.mcAluPort mc 62 v)
def execMcLd (mc : Nat) (v : BitVec 64) (s : State) : Res := s.mcTrigger mc (s.mcLd mc 8 v)
def execMcLwz (mc : Nat) (v : BitVec 64) (s : State) : Res := s.mcTrigger mc (s.mcLd mc 4 v)
def execMcSt (mc : Nat) (v : BitVec 64) (s : State) : Res := s.mcTrigger mc (s.mcSt mc 8 v)
def execMcSw4 (mc : Nat) (v : BitVec 64) (s : State) : Res := s.mcTrigger mc (s.mcSt mc 4 v)
def execMcLld (mc : Nat) (v : BitVec 64) (s : State) : Res := s.mcTrigger mc (s.mcLld mc v)
def execMcLst (mc : Nat) (v : BitVec 64) (s : State) : Res := s.mcTrigger mc (s.mcLst mc v)
def execMcLjoin (mc : Nat) (v : BitVec 64) (s : State) : Res := s.mcTrigger mc (s.mcLjoin mc v)
def execMcPw (mc : Nat) (v : BitVec 64) (s : State) : Res := s.mcTrigger mc (s.mcPw mc v)
def execMcPc (mc : Nat) (v : BitVec 64) (s : State) : Res := s.mcTrigger mc (s.mcPc mc v)
def execMcBput (mc : Nat) (v : BitVec 64) (s : State) : Res := s.mcTrigger mc (s.mcBput mc v)

/-- bget, with its value left in lr: a read has no destination of its own, and the bundle supplies one (log 27). -/
def execMcBget (mc : Nat) (s : State) : Res :=
  let m := s.mc mc
  s.mcTrigger mc (if m.bad.contains (4112 + 16 * m.lb.val + m.bi.val) then .broken
    else s.mcSet mc fun m => { m.nextWord with lr := m.bufWord })

/-- jmp: a value of 4,096 or above, and a jmp in the delay bundle of a taken jmp, are move faults (R484). -/
def execMcJmp (mc : Nat) (v : BitVec 64) (s : State) : Res :=
  let m := s.mc mc
  if m.runs ∧ m.miss.isNone ∧ (4096 ≤ v.toNat ∨ m.jump.isSome) then .next (s.moveFault mc)
  else s.mcTrigger mc (s.mcJmp mc v)

/-- done: the call ends when every earlier access is performed. -/
def execMcDone (mc : Nat) (v : BitVec 64) (s : State) : Res :=
  let m := s.mc mc
  if !m.runs ∨ m.miss.any (fun x => x.status.isNone) then .next s
  else .next (s.mcFinish mc (s.mcFence mc) fun t => t.mcNext mc m none (some v))

def execMcFence (mc : Nat) (s : State) : Res := s.mcTrigger mc (s.mcFence mc)

/-! ## Arrival of calls, tokens, and the end of a lease -/

/-- The STATUS of a call that reaches a HELD core: 6 after a freeze (R496), 4 after an uncorrectable error (R497, log 33). -/
def MemCore.heldStatus (m : MemCore) : BitVec 4 := if m.broke then 4 else 6

/-- MC_CALL_START (R492, R496): the oldest call on its way arrives. -/
def execMcCallStart (mc : Nat) (s : State) : Res :=
  let m := s.mc mc
  match m.sent with
  | [] => .next s
  | c :: rest =>
    let m := { m with sent := rest }
    let mine : Bool := m.lessee.any fun l => l.1 == c.ep && l.2.1 == c.ctx
    .next (s.setMc mc (
      if mine && (m.st == .leased || m.st == .running || m.st == .releasing) then
        if m.call.isNone then m.start c else { m with queued := some c }
      else
        let status : BitVec 4 := if m.st ≠ .held then 1 else m.heldStatus
        { m with ended := m.ended ++ [(c, callToken 0 0 c.seq status)] }))

/-- A token and the call's signature at the issuer (R493): rd holds the token until its first read takes the signature; with
rd = x0 the signature is taken at once. -/
def Ctx.takeToken (x : Ctx) (c : Call) (token : Word) : Ctx :=
  if c.rd = 0 then { x with sig := x.sig ||| c.sig }
  else { (x.wx c.rd token) with
    busyX := x.busyX.filter fun r => r ≠ c.rd
    tokens := mput x.tokens c.rd.toNat c.sig }

/-- MCALL_TOKEN (R493): a call has ended, its accesses are performed, and its token reaches the issuer. -/
def execMcallToken (mc : Nat) (s : State) : Res :=
  let m := s.mc mc
  match m.ended with
  | [] => .next s
  | (c, token) :: rest =>
    if !s.mcQuiet m then .next s
    else
      let s := s.setMc mc { m with ended := rest }
      .next (if (s.ctxAt c.ep c.ctx).alive then s.modCtx c.ep c.ctx fun x => x.takeToken c token else s)

/-- The tokens of a lapse (R496). -/
def MemCore.lapseTokens (m : MemCore) : List (Call × Word) :=
  (match m.call with | some c => [(c, callToken 0 m.pc c.seq 1)] | none => []) ++
    (match m.queued with | some c => [(c, callToken 0 0 c.seq 1)] | none => [])

/-- MC_DRAIN_COMPLETE: a draining core whose accesses are performed delivers its tokens and is FREE (R496); a releasing core
without calls is FREE (R487, R491). -/
def execMcDrainComplete (mc : Nat) (s : State) : Res :=
  let m := s.mc mc
  if !s.mcQuiet m ∨ !m.sent.isEmpty then .next s
  else if m.st = .draining then
    let s := s.setMc mc { m.free (s.cycle / 32) with ended := m.ended ++ m.lapseTokens }
    .next (s.lapseReport mc m)
  else if m.st = .releasing ∧ m.call.isNone ∧ m.queued.isNone then .next (s.setMc mc (m.free (s.cycle / 32)))
  else .next s

/-- One count of a lease (R489), of a HELD core too: the step from 1 to 0 is a lapse of this window. -/
def MemCore.countDown (m : MemCore) (w : Nat) : MemCore :=
  if (m.st = .leased ∨ m.st = .running ∨ (m.st = .held ∧ m.lessee.isSome)) ∧ m.count ≠ 0 then
    { m with count := m.count - 1, lapsed := if m.count = 1 then some w else m.lapsed }
  else m

/-- LEASE_COUNT_TICK: the cycle counter has passed a multiple of 1,024. -/
def execLeaseCountTick (s : State) : Res :=
  let k := s.pkg.leaseTicks + 1
  if s.cycle / 1024 < k then .next s
  else .next { s with
    pkg := { s.pkg with leaseTicks := k }
    mcs := s.mcs.map fun (m : Nat × MemCore) => (m.1, m.2.countDown (1024 * k / 32)) }

/-- LEASE_LAPSE (R489, R496): the lapse takes its place in the SC order, before the operations of its window. -/
def execLeaseLapse (mc : Nat) (s : State) : Res :=
  match (s.mc mc).lapsed with
  | none => .next s
  | some w =>
    if s.cycle < 32 * (w + 1) + 64 ∨ s.sc.any (fun o => decide (o.window < w)) then .next s
    else .next (s.lapseAt mc)

end Sys2Proof.Machine
end

