-- ==== Sys2Proof/Machine/Tasks.lean ====
section
/-! DEFINITION.
Distributors: queue entries and task records (R419 to R427), range tasks (R438 to R442), TASKPUT (R443), and the completion of
teams (R434, R435). -/

namespace Sys2Proof.Machine

open Sys2Proof

/-! ## Loads of a distributor (R429) -/

/-- What a distributor's load or write gives: a value, a wait for a ticket or a snoop, or a failure. -/
inductive DistRes (α : Type) where
  | ok (v : α)
  | wait (s : State)
  | failed

/-- The master of a distributor. -/
def State.distMaster (s : State) (d : Nat) : Master := ⟨s.dev, 1032 + d, false⟩

/-- The translation of an access of a distributor. A miss is ticketed once per page; a failed replay fails the access. -/
def State.distLook (s : State) (d : Nat) (a : Word) (write : Bool) : DistRes Tlb :=
  if aDev a ≠ s.dev ∨ aWin a then .failed
  else
    let x := s.dist d
    match x.misses.find? fun m => m.vpn = aVpn a with
    | some m => if m.failed then .failed else .wait s
    | none =>
      match s.lookupL2 none a with
      | .hit t => .ok t
      | .miss k =>
        .wait ((s.setDist d { x with misses := x.misses ++ [⟨aVpn a, none, false⟩] }).post
          (.request (aVpn a % 72) (s.dev, 1032 + d) (aVpn a) k 0 0 (if write then 1 else 0) 0))

/-- A byte that a distributor loads (R429): of a HOST page, or readable of a LAT page. DESIGN CHOICE (log 63): what lies on an OWN page,
in a window, on another device or on a poisoned line, or is not readable, fails the load, and the record is refused with reason 1. -/
def State.distByte (s : State) (d : Nat) (a : Word) : DistRes (BitVec 8) :=
  match s.distLook d a false with
  | .ok t =>
    let pa := t.pa a
    if !s.admitted (s.distMaster d) kHome (pa / 65536) rRead ∨ s.poisoned.contains (pa / 128) then .failed
    else
      match t.cls with
      | .own => .failed
      | .lat =>
        if t.cork ∨ (readMask (s.line (pa / 128)) t.typ t.width (lineOf s.mem (pa / 128))).getLsbD (pa % 128) then
          .ok (BitVec.ofNat 8 (lineVal ((s.line (pa / 128)).shown t.typ t.width (lineOf s.mem (pa / 128))) (pa % 128) 1))
        else .failed
      | .host =>
        match s.heldSectors (pa / 128) (maskRun 128 (pa % 128) 1) false with
        | [] => .ok (byteAt s.mem pa)
        | secs => .wait (s.sendSnoops (1032 + d) 0 secs)
  | .wait s => .wait s
  | .failed => .failed

/-- `n` bytes from an address, as a little-endian number. -/
def State.distNat (s : State) (d : Nat) (a : Word) : Nat → DistRes Nat
  | 0 => .ok 0
  | n + 1 =>
    match s.distByte d a with
    | .ok b =>
      (match s.distNat d (a + 1) n with
       | .ok v => .ok (b.toNat + 256 * v)
       | r => r)
    | .wait s => .wait s
    | .failed => .failed

/-- The failed pages of a distributor are forgotten, once their failure has had its effect. -/
def State.clearFailed (s : State) (d : Nat) : State :=
  let x := s.dist d
  s.setDist d { x with misses := x.misses.filter fun m => !m.failed }

/-! ## Completion records (R434) -/

/-- The eight words of a completion record. -/
def completion (status : Nat) (team : BitVec 16) (value : Word) (tag cause epc tval : Word) (nrep rank : Nat) : List Word :=
  [w64 (status * 2 ^ 48 + team.toNat * 2 ^ 32 + value.toNat % 2 ^ 32), tag, cause, epc, tval,
   w64 (rank * 2 ^ 32 + min nrep 0xFFFFFFFF), 0, 0]

/-- Words as one number, first word lowest. -/
def wordsNat : List Word → Nat
  | [] => 0
  | w :: ws => w.toNat + 2 ^ 64 * wordsNat ws

/-- The write of a record at CREC + 64·rank: the state, and whether it could not be made. A conflict or a late join is recorded
at the press only. -/
def State.writeCrec (s : State) (d : Nat) (crec : Word) (rank : Nat) (ws : List Word) : DistRes (State × Bool) :=
  let a := crec + w64 (64 * rank)
  if crec = 0 then .ok (s, false)
  else
    match s.distLook d a true with
    | .failed => .ok (s, true)
    | .wait s => .wait s
    | .ok t =>
      let pa := t.pa a
      let line := pa / 128
      let valid := maskRun 128 (pa % 128) 64
      let data := BitVec.ofNat 1024 (wordsNat ws * 2 ^ (8 * (pa % 128)))
      match t.cls with
      | .own => .ok (s, true)
      | .host =>
        if !s.admitted (s.distMaster d) kHome (pa / 65536) rWrite then .ok (s, true)
        else
          (match s.heldSectors line valid true with
           | [] => .ok (s.putHome line valid data, false)
           | secs => .wait (s.sendSnoops (1032 + d) 0 secs))
      | .lat =>
        if t.typ ≠ 9 ∨ t.width ≠ 3 ∨ !s.admitted (s.distMaster d) kHome (pa / 65536) rJoin then .ok (s, true)
        else
          .ok (s.toPress ⟨line, lineVa a, t.typ, t.vint, ⟨s.dev, 1032 + d, 0, 0⟩, 0, .join t.width valid data [] false, 0⟩, false)

/-- A report finds room in the package buffer (R519). -/
def State.canPost (s : State) : Bool := decide (s.reports.length < Config.nReports)

/-- A completion record is written at CREC and posted to the host; none where it has to wait, with what has been asked for. -/
def State.postRecord (s : State) (d : Nat) (crec : Word) (rank : Nat) (ws : List Word) : Except State State :=
  if !s.canPost then .error s
  else
    match s.writeCrec d crec rank ws with
    | .ok (s, fail) => .ok ((s.clearFailed d).tell 1 (if fail then ws.set 6 1 else ws))
    | .wait s => .error s
    | .failed => .error s

/-! ## Task records (R424, R425) -/

def Task.ctrl (t : Task) : Word := t.f[0]
def Task.deadline (t : Task) : Nat := t.f[1].toNat
def Task.tag (t : Task) : Word := t.f[14]
def Task.crec (t : Task) : Word := t.f[15]
def Task.cores (t : Task) : Nat := (fld t.ctrl 16 8 : BitVec 8).toNat + 1
def Task.shape (t : Task) : BitVec 2 := fld t.ctrl 6 2
def Task.mode1 (t : Task) : Bool := t.ctrl.getLsbD 9
def Task.move (t : Task) : Bool := t.ctrl.getLsbD 8
def Task.drop (t : Task) : Bool := t.ctrl.getLsbD 1

/-- Cores of a gang set, by SHAPE (R330); a core that belongs to no set is alone. -/
def setSize (shape : BitVec 2) : Nat := if shape = 0 then 1 else if shape = 1 then 2 else 4

/-- A refused record, or a dropped one (R426, R427): status 3 with the reason, or status 4. -/
def State.refuse (s : State) (d : Nat) (t : Task) (status reason : Nat) : Except State State :=
  s.postRecord d t.crec 0 (completion status 0 (w64 reason) t.tag 0 0 0 0 0)

/-! ## Entries (R422, R423, R426) -/

/-- The fields of a record: those of FMASK from the entry's words, the rest from the base. -/
def recordFields (base : Vector Word 16) (mask : BitVec 16) (ws : List Word) : Vector Word 16 :=
  ((List.range 16).foldl (fun (r : Vector Word 16 × List Word) i =>
    if mask.getLsbD i then (r.1.set (i % 16) (r.2.headD 0) (Nat.mod_lt _ (by decide)), r.2.drop 1) else r) (base, ws)).1

/-- The number of bits set in FMASK. -/
def maskCount (mask : BitVec 16) : Nat := ((List.range 16).filter mask.getLsbD).length

/-- The checks of R426, in their order: the first reason that applies. -/
def entryReason (hdr : Word) (f : Vector Word 16) (app : Bool) : Option Nat :=
  let c := f[0]
  let t : Task := ⟨f, app, 0, false, 0, none, none, false⟩
  let n := t.cores
  if (fld hdr 16 8 : BitVec 8).toNat ≠ maskCount (fld hdr 0 16) ∨ fld hdr 24 40 ≠ (0 : BitVec 40) ∨ fld c 25 7 ≠ (0 : BitVec 7) ∨
      fld c 14 2 ≠ (0 : BitVec 2) ∨ f[2].toNat % 4 ≠ 0 ∨ fld f[3] 15 49 ≠ (0 : BitVec 49) ∨
      (fld f[12] 32 32 : BitVec 32) < fld f[12] 0 32 ∨ f[15].toNat % 64 ≠ 0 then some 1
  else if (carveDesc f[3] f[4]).isNone then some 2
  else if (t.shape ≠ 0 ∧ !t.mode1) ∨ n % setSize t.shape ≠ 0 ∨ (t.move ∧ t.mode1) ∨ (c.getLsbD 24 ∧ !t.mode1) then some 3
  else if c.getLsbD 0 ∧ app then some 5
  else none

/-- The task record that an entry decodes to. -/
def Entry.task (e : Entry) (x : Dist) : Task :=
  let hdr := e.words.headD 0
  let base : Vector Word 16 := if e.host then x.bases[e.q] else Vector.replicate 16 0
  ⟨recordFields base (fld hdr 0 16) (e.words.drop 1), e.app, x.arrivals, false, 0, none, none, false⟩

/-- The heads of a distributor's queues, each with the time at which it became the head (R427). -/
def Dist.headed (x : Dist) (now : Nat) : Dist :=
  { x with queues := x.queues.map fun q => match q with
      | t :: rest => { t with headAt := some (t.headAt.getD now) } :: rest
      | [] => [] }

/-- Records that have become heads are compared with the time of this moment. -/
def State.newHeads (s : State) (d : Nat) : State := s.setDist d ((s.dist d).headed s.time)

/-- An entry enters its queue, or is refused (R419, R426); it waits where its queue is full. -/
def State.acceptEntry (s : State) (d : Nat) (e : Entry) : Except State State :=
  let x := s.dist d
  let t := e.task x
  let based (x : Dist) : Dist := if e.host then { x with bases := x.bases.set e.q t.f } else x
  match entryReason (e.words.headD 0) t.f e.app with
  | some r =>
    match s.refuse d t 3 r with
    | .ok s => .ok (s.setDist d (based (s.dist d)))
    | .error s => .error s
  | none =>
    if x.queues[e.q].length ≥ Config.nQueue then .error s
    else .ok ((s.setDist d (based { x with queues := x.queues.set e.q (x.queues[e.q] ++ [t]), arrivals := x.arrivals + 1 })).newHeads d)

/-- TASK_RECORD_DECODE (R422 to R426): an entry on its way to a distributor, the oldest for its queue, is decoded. -/
def execTaskRecordDecode (dist : Fin 4) (k : Nat) (s : State) : Res :=
  let x := s.dist dist
  match x.entries[k]? with
  | none => .next s
  | some e =>
    if (x.entries.take k).any fun o => o.q = e.q then .next s
    else
      match s.acceptEntry dist e with
      | .error s => .next s
      | .ok s =>
        let x := s.dist dist
        let s := s.setDist dist { x with entries := dropAt x.entries k }
        .next (match e.who with
          | some (ep, n) => s.endHold ep n 0 0
          | none => s)

/-! ## TASKPUT (R443) -/

/-- TASKPUT: the entry is read with ordinary loads, what came before is released, and the entry goes to its distributor. -/
def execTaskput (rs1 rs2 : Reg) (s : State) : Res :=
  let a := s.x rs1
  let q := s.x rs2
  if a.toNat % 8 ≠ 0 then trap 4 a s
  else if fld q 6 58 ≠ (0 : BitVec 58) then trap 2 q s
  else
    match s.innerWords a 1 with
    | .error r => r
    | .ok (s, h) =>
      match s.innerWords (a + 8) (fld (h.headD 0) 16 8 : BitVec 8).toNat with
      | .error r => r
      | .ok (s, ws) =>
        let r := s.relStep
        if !r.2 then stallIn r.1
        else
          let d := (fld q 4 2 : BitVec 2).toNat
          let e : Entry := ⟨(fld q 0 4 : BitVec 4).toFin, false, !s.ctx.csr.prv, h ++ ws, some s.cur⟩
          let x := r.1.dist d
          .next ((r.1.setDist d { x with entries := x.entries ++ [e] }).holdOn .put)

/-! ## The head of a queue (R427) -/

/-- HEAD_LATENESS_CHECK: the head of a queue is compared with the time at which it became the head, once. LATES counts a late one at
once; its lateness record waits for room in the package buffer (R519), and what follows waits for that record: the record may be
selected, or with DROP it is retired with a completion record of status 4. -/
def execHeadLatenessCheck (dist : Fin 4) (q : Fin 16) (s : State) : Res :=
  let x := s.dist dist
  match x.queues[q] with
  | [] => .next s
  | t :: rest =>
    let now := t.headAt.getD s.time
    let put (x : Dist) (t : Task) : Dist := { x with queues := x.queues.set q (t :: rest) }
    if t.checked then .next s
    else if now ≤ t.deadline then .next (s.setDist dist (put x { t with checked := true }))
    else if !t.noted then
      let x := if t.late = 0 then { x with lates := x.lates.set q (inc32 x.lates[q]) } else x
      let t := { t with late := w64 (now - t.deadline) }
      if !s.canPost then .next (s.setDist dist (put x t))
      else
        .next ((s.setDist dist (put x (if t.drop then { t with noted := true } else { t with checked := true }))).tell 2
          [w64 (dist.val * 16 + q.val), t.tag, t.f[1], w64 now])
    else
      match s.refuse dist t 4 0 with
      | .error s => .next s
      | .ok s =>
        let x := s.dist dist
        .next ((s.setDist dist { x with drops := x.drops.set q (inc32 x.drops[q]), queues := x.queues.set q rest }).newHeads dist)

/-! ## Range tasks (R438 to R442) -/

/-- A request of the context at hand to its distributor; TASKQ takes the next age. -/
def State.askTask (s : State) (t : Team) (fin : Bool) (off : Nat) : State :=
  let age := s.me.nextAge
  let s := s.modCore s.cur.1 fun c => { c with nextAge := age + 1 }
  let x := s.dist t.dist.toNat
  s.setDist t.dist.toNat { x with taskqs := x.taskqs ++ [⟨t.launch, fin, s.cur.1, s.cur.2, off, s.pc, age, s.cycle⟩] }

/-- TASKQ (R440). -/
def execTaskq (rs1 : Reg) (s : State) : Res :=
  let o := s.x rs1
  match s.teamOf s.cur.1 with
  | none => illegal s
  | some t =>
    if !t.rt then illegal s
    else if o.toNat % 8 ≠ 0 then trap 4 o s
    else
      match s.padBad o.toNat 8 with
      | some v => trap 24 v s
      | none =>
        if !s.me.isSync o.toNat then trap 24 (s.padAddr o.toNat) s
        else if s.ctx.taskqs ≥ 2 then stall s
        else
          let s := s.setCtx { s.ctx with taskqs := s.ctx.taskqs + 1 }
          retire (s.askTask t false o.toNat)

/-- TASKEND (R442). -/
def execTaskend (s : State) : Res :=
  match s.teamOf s.cur.1 with
  | none => illegal s
  | some t => if !t.rt then illegal s else retire (s.askTask t true 0)

/-- The returned interval with the lowest start, and the others. -/
def lowestInterval (l : List (Nat × Nat)) : Option ((Nat × Nat) × List (Nat × Nat)) :=
  match sortBy (fun i => i.1) l with
  | [] => none
  | i :: rest => some (i, rest)

/-- The holder with the most indices left, ties to the lower endpoint and context. DESIGN CHOICE (log 142): a holder whose team is
pre-empted is compared by the number of its image's place, above every endpoint. -/
def largestHolder (l : List (Nat × Nat × Nat × Nat)) : Option (Nat × Nat × Nat × Nat) :=
  l.foldl (fun (b : Option (Nat × Nat × Nat × Nat)) h =>
    match b with
    | none => some h
    | some g =>
      let len (h : Nat × Nat × Nat × Nat) : Nat := h.2.2.2 - h.2.2.1
      if len g < len h ∨ (len g = len h ∧ (h.1 < g.1 ∨ (h.1 = g.1 ∧ h.2.1 < g.2.1))) then some h else b) none

/-- The holder entries with one context's replaced. -/
def setHolder (l : List (Nat × Nat × Nat × Nat)) (h : Nat × Nat × Nat × Nat) : List (Nat × Nat × Nat × Nat) :=
  (l.filter fun g => !(g.1 == h.1 && g.2.1 == h.2.1)) ++ [h]

/-- The end-of-work token. -/
def endOfWork : Nat := 0xFFFFFFFF

/-- A holder entry (context, c, e) answers with c and e and goes on at c + 1. -/
def Pool.give (p : Pool) (ep ctx c e : Nat) : Pool × Nat × Nat := ({ p with holders := setHolder p.holders (ep, ctx, c + 1, e) }, c, e)

/-- The answer to a context whose holder entry is empty: the pool's next chunk, a returned interval, half of the largest
holder's interval, or the end of work. -/
def Pool.refill (p : Pool) (ep ctx : Nat) : Pool × Nat × Nat :=
  if p.p < p.hi then
    let e := min (p.p + max 1 p.chunk) p.hi
    ({ p with p := e } : Pool).give ep ctx p.p e
  else
    match lowestInterval p.returned with
    | some (i, rest) => ({ p with returned := rest } : Pool).give ep ctx i.1 i.2
    | none =>
      match largestHolder p.holders with
      | some g =>
        if g.2.2.2 - g.2.2.1 ≥ 2 then
          let mid := g.2.2.1 + (g.2.2.2 - g.2.2.1 + 1) / 2
          ({ p with holders := setHolder p.holders (g.1, g.2.1, g.2.2.1, mid) } : Pool).give ep ctx mid g.2.2.2
        else ({ p with holders := p.holders.filter fun h => !(h.1 = ep && h.2.1 = ctx) }, endOfWork, endOfWork)
      | none => (p, endOfWork, endOfWork)

/-- The answer to a context's TASKQ (R440): the pool after it, the index and the end of the interval. -/
def Pool.answer (p : Pool) (ep ctx : Nat) : Pool × Nat × Nat :=
  match p.holders.find? fun h => h.1 = ep && h.2.1 = ctx with
  | some (_, _, c, e) => if c < e then p.give ep ctx c e else p.refill ep ctx
  | none => p.refill ep ctx

/-- An index is none: the end-of-work token. -/
def noIndex (i : Nat) : Bool := i == endOfWork

/-- Holder entries and returned intervals of a distributor, with the entries that answers held for pre-empted teams reserve for an
index that finds its pair full (R439, R450). -/
def State.poolEntries (s : State) (d : Nat) : Nat :=
  ((s.launches.filter fun l => l.dist = d).map fun l =>
    (match l.pool with | some p => p.holders.length + p.returned.length | none => 0) +
      ((s.images.flatMap (·.answers)).filter fun a => a.1.launch = l.id && !noIndex a.2.1).length).sum

/-- The entry that a TASKQ reserves for its answer: one that may find its pair full returns its index (R439). -/
def State.reserved (s : State) (r : TaskqReq) (i : Nat) : Nat :=
  if noIndex i then 0
  else if r.ep < 4096 then (if [r.off, r.off + 4].any (s.core r.ep).isFull then 1 else 0) else 1

/-- An answer is filled into its pair; when a word is full nothing is written, the index returns, and cause 25 is deferred. -/
def State.fillPair (s : State) (r : TaskqReq) (i e : Nat) : State :=
  let c := s.core r.ep
  let s := s.modCtx r.ep r.ctx fun x => { x with taskqs := x.taskqs - 1 }
  match [r.off, r.off + 4].find? c.isFull with
  | some w => (s.returnIndex r.launch i).defer r.ep r.ctx r.age 25 r.pc (winAddr s.dev r.ep w) .none
  | none => s.modCore r.ep fun c => c.padWrite r.off 8 (i + 2 ^ 32 * e) 255

/-- An answer on its way to its pair: held for a pre-empted team (R450). -/
def State.sendAnswer (s : State) (r : TaskqReq) (i e : Nat) : State :=
  if r.ep < 4096 then s.fillPair r i e
  else { s with images := s.images.map fun m =>
    if m.cores.any fun c => c.2 = r.ep then { m with answers := m.answers ++ [(r, i, e)] } else m }

/-- TASKQ_ANSWER (R439, R440): the oldest request of a context is answered; a new holder entry needs a free place, and so does an
index that may come back. -/
def execTaskqAnswer (dist : Fin 4) (k : Nat) (s : State) : Res :=
  let x := s.dist dist
  match x.taskqs[k]? with
  | none => .next s
  | some r =>
    if (x.taskqs.take k).any fun o => o.ep == r.ep && o.ctx == r.ctx then .next s
    -- the askers of one cycle are served in the order of endpoint and context (R453)
    else if x.taskqs.any fun o => o.asked == r.asked && o.launch == r.launch &&
        decide (o.ep < r.ep ∨ (o.ep = r.ep ∧ o.ctx.val < r.ctx.val)) then .next s
    else
      let t := s.setDist dist { x with taskqs := dropAt x.taskqs k }
      if r.fin then .next (t.giveBack r.launch r.ep r.ctx)
      else
        match (s.launches.find? fun l => l.id = r.launch).bind (·.pool) with
        | none => .next t
        | some p =>
          let new : Bool := !(p.holders.any fun h => h.1 == r.ep && h.2.1 == r.ctx.val)
          let a := p.answer r.ep r.ctx
          if 2048 < s.poolEntries dist + (if new then 1 else 0) + s.reserved r a.2.1 then .next s
          else
            let t : State := { t with launches := t.launches.map fun (l : Launch) => if l.id = r.launch then { l with pool := some a.1 } else l }
            .next (t.sendAnswer r a.2.1 a.2.2)

/-! ## Completion of a team (R434, R435) -/

/-- A command of a team that has ended, on one of its cores, can still go on: the engine's or the copy engine's head, or a cask command.
One that waits on an empty word cannot (log 20); but every join that the team issued is applied first, so a CPJ and the copies before it
are awaited however long they wait (R434). -/
def State.workBusy (s : State) (e : Nat) : Bool :=
  let c := s.core e
  (match c.mrun, c.mq with
   | some d, _ => (match d.copying with | some q => !s.copyWaits e q | none => true)
   | none, q :: _ => s.mayStart e q
   | none, [] => false) ||
    (match c.cq with | q :: _ => q.over || !s.copyWaits e q | [] => false) || (c.cq.any fun q => q.kind == 2) ||
    (c.casks.zipIdx.any fun p => p.1.ep == e && s.caskReady e p.2 p.1)

/-- Something that the team issued is not applied or reported yet: at a press, in a router, at the gateway, in a command, at a memory
core, or in a report on its way (R149, R434). -/
def State.teamBusy (s : State) (team : List Nat) : Bool :=
  let mine (p : Party) : Bool := p.dev == s.dev && team.contains p.ep
  let op (o : PressOp) : Bool := mine o.who || (match o.kind with | .join _ _ _ ps _ => ps.any mine | _ => false)
  (s.pressQ.any op) || (s.routers.any fun e => op e.op) || (s.fab.merge.any fun e => e.2.parties.any mine) ||
    (s.fab.out.any fun p => p.what < 0x10 && team.contains p.ep) ||
    (s.net.any fun m => match m with | .report ep _ _ => team.contains ep | _ => false) ||
    (team.any fun e => s.workBusy e || (s.core e).accs.any fun a => a.stage == .orphan) ||
    (s.mcs.any fun m => m.2.lessee.any (fun l => team.contains l.1) && !s.mcQuiet m.2)

/-- Commands that other cores have sent to a core, and that have not started, are rejected (R269; at the end of its
team, DESIGN CHOICE, log 67). -/
def State.rejectSent (s : State) (team : List Nat) (e : Nat) : State :=
  let mine (q : MCmd) : Bool := team.contains q.ep
  let others := (s.core e).mq.filter fun q => !mine q
  let s := s.modCore e fun c => { c with mq := c.mq.filter mine }
  others.foldl (fun (s : State) q => s.giveDone e { q.plain with status := 1, reason := 6 }) s

/-- A core is free for the next launch: no team, an empty L1 and an empty combining buffer, and no command of the team, because what is
left waits on empty words (log 20). -/
def State.freeCore (s : State) (ep : Nat) : State :=
  let s := s.emptyL1 ep
  s.modCore ep fun c => { c with
    team := none, gang := {}, mq := [], mrun := none, cq := [], casks := c.casks.filter fun k => k.ep ≠ ep, held := [], accs := [] }

/-- The barrier slot of a cluster-level domain is free again (R344). -/
def State.freeSlot (s : State) (d : Domain) : State :=
  if d.lvl ≠ 1 then s
  else
    { s with clusters := s.clusters.map fun (c : Nat × Cluster) =>
        (c.1, { c.2 with bars := c.2.bars.map fun b => if b.valid ∧ b.dom = d.dom then {} else b }) }

/-- Member cores have ended; a domain whose members have all ended is gone (R389), a level-3 domain only when all its NCORE member
cores have been launched (R430), a level-4 domain with its last release (`State.fabricBarrier`). -/
def State.endMembers (s : State) (eps : List Nat) : State :=
  let mark (d : Domain) : Domain := { d with ended := d.ended ++ eps.filter fun e => d.members.contains e && !d.ended.contains e }
  let s : State := { s with domains := s.domains.map mark }
  let gone (d : Domain) : Bool := d.live.isEmpty && d.lvl != 4 && (d.lvl != 3 || decide (d.ncore ≤ d.members.length))
  let s := (s.domains.filter gone).foldl (fun (s : State) d => s.freeSlot d) s
  { s with domains := s.domains.filter fun d => !gone d }

/-- The numbers of a completed team are no longer live; a launch without live numbers is over (R431, R435). -/
def State.endNumbers (s : State) (launch : Nat) (nums : List (BitVec 16)) : State :=
  { s with launches := (s.launches.map fun l =>
      if l.id = launch then { l with live := l.live.filter fun n => !nums.contains n } else l).filter fun l => !l.live.isEmpty }

/-- The cores whose completion one record reports: after a HEXIT of a gang every member's team completes under its own number,
with its own record (R339); otherwise a gang is one team, under the leader's number (R431). -/
def recordCores (status : Nat) (cores : List Nat) : List Nat := if status = 0 then cores.take 1 else cores

/-- TEAM_COMPLETION (R434): the team of a core has ended, all that it issued is applied, and its record is posted. -/
def execTeamCompletion (ep : Nat) (s : State) : Res :=
  let cores := (s.core ep).teamCores ep
  let lead := cores.headD ep
  match (s.core lead).team with
  | none => .next s
  | some t =>
    match t.ended with
    | none => .next s
    | some (status, value, cause, epc, tval) =>
      if cores.any fun e => !(s.core e).cb.isEmpty then .next (s.sendOn cores)
      else if s.teamBusy cores then .next s
      else
        let gone := recordCores status cores
        let teams := gone.filterMap fun e => (s.core e).team
        let nrep := (teams.map (·.nrep)).sum
        match s.postRecord t.dist.toNat t.crec t.rank.toNat
            (completion status t.num (if status = 0 then value else 0) t.tag cause epc tval nrep t.rank.toNat) with
        | .error s => .next s
        | .ok s =>
          let s := gone.foldl (fun (s : State) e => (s.rejectSent cores e).freeCore e) s
          let rest := cores.filter fun e => !gone.contains e
          let s := rest.foldl (fun (s : State) e => s.modCore e fun c => { c with gang := { c.gang with set := rest } }) s
          let s := s.endMembers gone
          .next (s.endNumbers t.launch (teams.map (·.num)))

end Sys2Proof.Machine
end

