-- ==== Sys2Proof/Machine/Launch.lean ====
section
/-! DEFINITION.
Selection and dispatch (R428 to R433), domains at their creation (R389, R396, R397, R430, R471), pre-emption, resumption and
migration (R447 to R452), and the balancer (R444 to R446). -/

namespace Sys2Proof.Machine

open Sys2Proof

/-! ## Free cores (R429, R451) -/

/-- A pre-empted team resumes on its own cores only (R451); a marked or disabled core is left (R524). -/
def State.fixed (s : State) (i : Image) : Bool :=
  !(i.cores.any fun c => (s.core c.1).marked || (s.core c.1).disabled) &&
    (i.task.mode1 || i.cores.any fun c =>
      let k := s.core c.2
      (!k.gang.set.isEmpty && !k.gang.g) ||
        allCtx.any fun n => (k.ctx n).alive && ((k.ctx n).csr.dom[1].v || (k.ctx n).csr.dom[2].t))

/-- A core that may take a team of a candidate with a deadline: in service, without a team, and not held for a pre-empted team with an
earlier deadline (R429, R451). DESIGN CHOICE (log 143): a frozen core is not free; it waits for the host (R553). -/
def State.coreFree (s : State) (ep deadline : Nat) : Bool :=
  let c := s.core ep
  !c.disabled && !c.marked && !c.frozen && c.team.isNone &&
    !(s.images.any fun i => s.fixed i && (i.cores.any fun k => k.1 == ep) && decide (i.deadline.toNat < deadline))

/-- The free cores of a die, lowest number first. -/
def State.freeCores (s : State) (d deadline : Nat) : List Nat :=
  ((List.range 144).map fun k => 144 * d + k).filter fun e => s.coreFree e deadline

/-- Later than every deadline. -/
def never : Nat := 2 ^ 64

/-! ## Selection (R428) -/

/-- The candidates of a distributor, each with its source. -/
def Dist.candidates (x : Dist) : List (Nat × Task) :=
  (match x.resume with | t :: _ => [(0, t)] | [] => []) ++
    ((x.queues.toList.zipIdx).filterMap fun p => p.1.head?.map fun t => (1 + p.2, t)) ++ x.transfer.map fun t => (17, t)

/-- The candidate with the smallest key: deadline, source, arrival. -/
def Dist.best (x : Dist) : Option (Nat × Task) :=
  x.candidates.foldl (fun (b : Option (Nat × Task)) c =>
    match b with
    | none => some c
    | some g =>
      if c.2.deadline < g.2.deadline ∨ (c.2.deadline = g.2.deadline ∧ (c.1 < g.1 ∨ (c.1 = g.1 ∧ c.2.arrival < g.2.arrival)))
      then some c else b) none

/-- A head of a queue has not been compared with the time yet. -/
def Dist.unchecked (x : Dist) : Bool := x.queues.toList.any fun q => match q with | t :: _ => !t.checked | [] => false

/-- The selection stands: every head has been compared with the time, and the candidate is still the best (R428). -/
def Dist.stands (x : Dist) : Bool := !x.unchecked && x.best == x.selected

/-- DISTRIBUTOR_SELECT (R428). -/
def execDistributorSelect (dist : Fin 4) (s : State) : Res :=
  let x := s.dist dist
  if x.unchecked ∨ x.best = x.selected then .next s else .next (s.setDist dist { x with selected := x.best })

/-- The selected candidate leaves its source. -/
def Dist.take (x : Dist) : Dist :=
  match x.selected with
  | none => x
  | some (src, t) =>
    let x := { x with selected := none }
    if src = 0 then { x with resume := x.resume.drop 1 }
    else if h : 1 ≤ src ∧ src < 17 then
      let q : Fin 16 := ⟨src - 1, by omega⟩
      { x with queues := x.queues.set q ((x.queues[q]).drop 1) }
    else { x with transfer := x.transfer.filter fun u => u.arrival ≠ t.arrival }

/-! ## Placement (R429, R330) -/

/-- A group of cores has a shape of R330, in the order of its ranks. -/
def shapeOk (shape : BitVec 2) (eps : List Nat) : Bool :=
  let one : Bool := match eps with | e :: rest => rest.all fun f => clusterOf f == clusterOf e | [] => false
  let c0 := ccol (eps.headD 0)
  let at_ (want : Nat → Nat × Nat) : Bool := eps.zipIdx.all fun p => (crow p.1, ccol p.1) == want p.2
  let r := crow (eps.headD 0)
  match shape.toNat with
  | 0 => true
  | 1 => one && c0 % 2 == 0 && at_ fun k => (r, c0 + k)
  | 2 => one && c0 % 2 == 0 && at_ fun k => (k / 2, c0 + k % 2)
  | _ => one && at_ fun k => (r, k)

/-- A list cut into groups. -/
def groups (n : Nat) : Nat → List Nat → List (List Nat)
  | 0, _ => []
  | _ + 1, [] => []
  | fuel + 1, l => l.take n :: groups n fuel (l.drop n)

/-- The listed cores are admitted (R429). -/
def State.listOk (s : State) (d : Nat) (t : Task) (eps : List Nat) : Bool :=
  (eps.all fun e => isCompute e && stackOf e == d && s.coreOn e) && eps.eraseDups.length == eps.length &&
    (groups (setSize t.shape) eps.length eps).all fun g => shapeOk t.shape g

/-- Halfwords of a number, lowest first. -/
def halfwords (v : Nat) (n : Nat) : List Nat := (List.range n).map fun k => v / 2 ^ (16 * k) % 2048

/-- The cores that a record needs: those of its list, or the lowest free ones. None: too few are free. -/
inductive Place where
  | cores (eps : List Nat)
  | short (eps : List Nat)
  | refuse (reason : Nat)
  | wait (s : State)
  deriving DecidableEq, Repr

def State.place (s : State) (d : Nat) (t : Task) : Place :=
  if t.mode1 then
    match s.distNat d t.f[13] (2 * t.cores) with
    | .wait s => .wait s
    | .failed => .refuse 1
    | .ok v =>
      let eps := halfwords v t.cores
      if !s.listOk d t eps then .refuse 3
      else if eps.all fun e => s.coreFree e t.deadline then .cores eps else .short eps
  else
    let free := s.freeCores d t.deadline
    if free.length ≥ t.cores then .cores (free.take t.cores) else .short []

/-! ## Domain descriptors (R389, R430) -/

/-- Words of a number, lowest first. -/
def natWords (v n : Nat) : List Word := (List.range n).map fun k => w64 (v / 2 ^ (64 * k) % 2 ^ 64)

/-- The limits of a descriptor, and its level at its place. -/
def descOk (place : Nat) (ws : List Word) : Bool :=
  let w (k : Nat) : Word := ws.getD k 0
  let lvl := (fld (w 0) 61 3 : BitVec 3).toNat
  let timed := (w 0).getLsbD 60
  (lvl == place || (place == 3 && lvl == 4)) && (!timed || lvl == 2) &&
    fld (w 0) 48 11 == (0 : BitVec 11) && fld (w 0) 23 9 == (0 : BitVec 9) && decide ((fld (w 0) 0 23 : BitVec 23).toNat ≤ 4194304) &&
    decide (1 ≤ (w 1).toNat ∧ (w 1).toNat ≤ 589824) && fld (w 2) 0 6 == (0 : BitVec 6) &&
    fld (w 3) 26 38 == (0 : BitVec 38) && fld (w 3) 8 8 == (0 : BitVec 8) && (!timed || decide ((fld (w 3) 16 10 : BitVec 10).toNat ≥ 15)) &&
    fld (w 4) 42 22 == (0 : BitVec 22) && fld (w 4) 10 22 == (0 : BitVec 22) && w 5 == 0 && w 6 == 0 && w 7 == 0

/-! ## Slot plans (R396, R397) -/

/-- The directed links of the X-then-Y route between two cores of a die: place·5 + direction (0 east, 1 west, 2 south,
3 north), and last the receiver's core port (4). `fuel` bounds the length. -/
def routeFrom (row col toRow toCol : Nat) : Nat → List Nat
  | 0 => []
  | k + 1 =>
    let here := (12 * row + col) * 5
    if col < toCol then here :: routeFrom row (col + 1) toRow toCol k
    else if toCol < col then (here + 1) :: routeFrom row (col - 1) toRow toCol k
    else if row < toRow then (here + 2) :: routeFrom (row + 1) col toRow toCol k
    else if toRow < row then (here + 3) :: routeFrom (row - 1) col toRow toCol k
    else [here + 4]

def route (src dst : Nat) : List Nat := routeFrom (src % 144 / 12) (src % 12) (dst % 144 / 12) (dst % 12) 24

/-- What a slot holds: router port and first cycle. -/
def SlotRec.holds (r : SlotRec) : List (Nat × Nat) := (route r.src r.dst).zipIdx.map fun p => (p.1, r.off + 2 * p.2)

/-- A slot record (R396); none when a zero field is not, or its ends are not two compute cores. -/
def slotOf (w : Word) : Option SlotRec :=
  let src := (fld w 16 11 : BitVec 11).toNat
  let dst := (fld w 5 11 : BitVec 11).toNat
  if fld w 42 22 ≠ (0 : BitVec 22) ∨ fld w 27 5 ≠ (0 : BitVec 5) ∨ fld w 3 2 ≠ (0 : BitVec 2) ∨
      !isCompute src ∨ !isCompute dst ∨ src = dst then none
  else some ⟨(fld w 32 10 : BitVec 10).toNat, src, dst, (fld w 0 3 : BitVec 3).toFin, 0⟩

/-- Every slot record of a plan. -/
def slotsOf : List Word → Option (List SlotRec)
  | [] => some []
  | w :: ws =>
    match slotOf w, slotsOf ws with
    | some r, some rs => some (r :: rs)
    | _, _ => none

/-- Two reservations hold one port in the same cycle. -/
def clash : List (Nat × Nat) → Bool
  | [] => false
  | h :: rest => (rest.any fun g => g.1 == h.1 && decide (g.2 < h.2 + 4 ∧ h.2 < g.2 + 4)) || clash rest

/-- The plan is accepted beside the reservations of the other timed domains of the die: every core of it lies on one die (R397). -/
def State.planOk (s : State) (plen : Nat) (rs : List SlotRec) : Bool :=
  let mine := rs.flatMap SlotRec.holds
  let die := stackOf ((rs.map (·.src)).headD 0)
  let others : List (Nat × Nat) := (s.domains.filter fun d => d.timed).flatMap fun d =>
    (d.plan.filter fun r => stackOf r.src = die).flatMap SlotRec.holds
  let count (p : Nat) : Nat := ((mine ++ others).filter fun g => g.1 = p).length
  (rs.all fun r => stackOf r.src == die && stackOf r.dst == die) && (mine.all fun h => decide (h.2 + 3 ≤ plen)) && !clash mine &&
    mine.all fun h => decide (count h.1 ≤ 64)

/-- The descriptors of a record with the words of their plans, read before anything is created; the refusal reason. -/
def State.readDomains (s : State) (d : Nat) (t : Task) : DistRes (Except Nat (List (Nat × List Word × List Word))) :=
  if t.f[11] = 0 then .ok (.ok [])
  else
    match s.distNat d t.f[11] 192 with
    | .wait s => .wait s
    | .failed => .ok (.error 1)
    | .ok v =>
      let ws := natWords v 24
      [1, 2, 3].foldl (fun (r : DistRes (Except Nat (List (Nat × List Word × List Word)))) place =>
        let w := (ws.drop (8 * (place - 1))).take 8
        match r with
        | .ok (.ok l) =>
          if w.headD 0 = 0 then r
          else if !descOk place w then .ok (.error 4)
          else if !(w.headD 0).getLsbD 60 then .ok (.ok (l ++ [(place, w, [])]))
          else
            let n := (fld (w.getD 3 0) 0 8 : BitVec 8).toNat + 1
            (match s.distNat d (w.getD 2 0) (8 * n) with
             | .wait s => .wait s
             | .failed => .ok (.error 1)
             | .ok p => .ok (.ok (l ++ [(place, w, natWords p n)])))
        | r => r) (.ok (.ok []))

/-! ## Domains at their creation -/

/-- A domain as its descriptor creates it. -/
def newDomain (ws : List Word) (plan : List SlotRec) (members : List Nat) : Domain :=
  let w (k : Nat) : Word := ws.getD k 0
  { words := ws
    lvl := fld (w 0) 61 3, dom := fld (w 0) 32 16, timed := (w 0).getLsbD 60, hwake := (w 0).getLsbD 59
    quota := (fld (w 0) 0 23 : BitVec 23).toNat, ncore := (w 1).toNat, members := members, ended := [], phase := false
    plan := plan, plen := (fld (w 3) 16 10 : BitVec 10).toNat, nslot := plan.length, start := 0
    coord := fld (w 4) 0 10, ndev := (fld (w 4) 32 10 : BitVec 10).toNat + 1, declared := false
    count0 := 0, count1 := 0, appended0 := [], appended1 := [], arrived := [], counts := [], finished := [], step := 0
    sent := 0, recvd := 0, wave := 0, answers := [], first := [], failedAt := none }

/-- The level-0 domain of a team (R388, R471). -/
def teamDomain (num : BitVec 16) (members : List Nat) : Domain :=
  { newDomain [] [] members with lvl := 0, dom := num, quota := 65536, ncore := members.length, ndev := 0 }

/-- Lees records of first-tier memory (R471, R508), and those that domains have reserved. -/
def State.leesPool (s : State) : Nat := 983040 * s.slices.length
def State.leesUsed (s : State) : Nat := (s.domains.map (·.quota)).sum

/-- kdom of a member at a place. -/
def Domain.kdom (d : Domain) : KDom := ⟨true, d.timed, d.lvl, d.phase, d.dom⟩

/-- A barrier slot of the cluster of a launch is taken (R344); none where the cores lie in several clusters or no slot is free. -/
def State.takeSlot (s : State) (d : Domain) (eps : List Nat) : Option State :=
  let cl := clusterOf (eps.headD 0)
  if eps.any fun e => clusterOf e ≠ cl then none
  else
    let c := s.cluster cl
    match ([0, 1, 2, 3] : List (Fin 4)).find? fun k => !(c.bars[k]).valid with
    | some k => some (s.setCluster cl { c with bars := c.bars.set k ⟨true, d.dom, false, eps⟩ })
    | none => none

/-- COORD may be the lowest device of a level-4 domain: not above this member, and this one when the domain has no other (R389; a device
does not know the others, log 127). -/
def State.coordOk (s : State) (d : Domain) : Bool :=
  d.lvl != 4 || (decide (d.coord ≤ s.dev) && (d.ndev != 1 || d.coord == s.dev))

/-- One domain of a launch is created, or joined when another record has created it with the same words; none where it is
refused (reason 4). DESIGN CHOICE (log 139): the number of a team, its level-0 domain (R388), is no DOM in use. -/
def State.addDomain (s : State) (eps : List Nat) (ws planWords : List Word) : Option (State × KDom) :=
  let lvl : BitVec 3 := fld (ws.headD 0) 61 3
  let dom : BitVec 16 := fld (ws.headD 0) 32 16
  match s.domains.find? fun g => g.lvl ≠ 0 && g.dom = dom with
  | some g =>
    if lvl.toNat < 3 ∨ g.lvl ≠ lvl ∨ g.words ≠ ws ∨ g.members.length + eps.length > g.ncore then none
    else
      let g := { g with members := g.members ++ eps }
      some (s.setDomain g, g.kdom)
  | none =>
    match slotsOf planWords with
    | none => none
    | some plan =>
      let g := newDomain ws plan eps
      if !s.planOk g.plen plan ∨ !s.coordOk g then none
      else
        let s1 : State := { s with domains := s.domains ++ [g] }
        if lvl = 1 then (s1.takeSlot g eps).map fun s => (s, g.kdom) else some (s1, g.kdom)

/-- Every domain of a launch: the state and kdom1 to kdom3. -/
def State.addDomains (s : State) (eps : List Nat) : List (Nat × List Word × List Word) → Option (State × List (Nat × KDom))
  | [] => some (s, [])
  | (place, ws, plan) :: rest =>
    match s.addDomain eps ws plan with
    | none => none
    | some (s, k) =>
      match s.addDomains eps rest with
      | none => none
      | some (s, ks) => some (s, (place, k) :: ks)

/-! ## Team numbers (R431) -/

/-- The next number that is not live, from a last one on. -/
def State.nextNumber (s : State) (d : Nat) (taken : List (BitVec 16)) (last : Nat) : Nat → Nat × BitVec 16
  | 0 => (last, 0)
  | fuel + 1 =>
    let n := last % 0x3FFF + 1
    let v : BitVec 16 := BitVec.ofNat 16 (0x4000 * d + n)
    if v = 0xFFFF ∨ taken.contains v ∨ s.launches.any fun l => l.live.contains v then s.nextNumber d taken n fuel else (n, v)

/-- Numbers for the cores of a launch, in rank order. -/
def State.numbers (s : State) (d last : Nat) (taken : List (BitVec 16)) : Nat → Nat × List (BitVec 16)
  | 0 => (last, taken)
  | n + 1 =>
    let r := s.nextNumber d taken last 0x4000
    s.numbers d r.1 (taken ++ [r.2]) n

/-! ## Dispatch (R432, R433) -/

/-- The array, engines and canopy of a core at a dispatch (R433). -/
def Core.launched (old : Core) (d : CarveDesc) (keep : Bool) : Core :=
  let stays (off : Nat) : Bool := keep && decide (off / 65536 < min old.sbanks d.sbanks)
  let c : Core := {
    disabled := old.disabled, marked := old.marked, frozen := old.frozen, fills := old.fills, nextAge := old.nextAge
    ran := old.ran, casks := old.casks
    pad := old.pad.filter fun b => stays b.1
    padErr := old.padErr.filter stays
    full := old.full.filter fun w => stays (4 * w) && old.sync.getLsbD (w / 16384) && d.sync.getLsbD (w / 16384)
    canopy := if keep then old.canopy else []
    canErr := if keep then old.canErr else []
    z := if keep && old.mx && d.mx then old.z else []
    amax := if keep then old.amax else [] }
  c.setCarve d

/-- Context 0 of a core at a dispatch (R432). -/
def Task.start (t : Task) (win : Word) (rank : Nat) (doms : Vector KDom 4) : Ctx :=
  let x : Ctx := {
    life := .live, pc := t.f[2]
    csr := { prv := t.ctrl.getLsbD 0, gset := fld t.ctrl 10 4, dom := doms } }
  let sp := if t.ctrl.getLsbD 3 then win + t.f[5] else t.f[5]
  let a0 := t.f[6] + w64 (rank * (fld t.ctrl 48 16 : BitVec 16).toNat)
  ((((((x.wx 2 sp).wx 10 a0).wx 11 t.f[7]).wx 12 t.f[8]).wx 13 t.f[9]).wx 14 t.f[10])

/-- The facts that every core of a launch shares. -/
structure Plan where
  task : Task
  carve : CarveDesc
  eps : List Nat
  nums : List (BitVec 16)
  doms : List (Nat × KDom)
  launch : Nat
  dist : Nat

/-- The rank in the launch of the leader of a core's set. -/
def Plan.leader (p : Plan) (k : Nat) : Nat := k / setSize p.task.shape * setSize p.task.shape

/-- The core of rank k starts. -/
def State.startCore (s : State) (p : Plan) (k : Nat) : State :=
  let t := p.task
  let ep := p.eps.getD k 0
  let size := setSize t.shape
  let lead := p.leader k
  let ganged : Bool := t.shape != 0 && t.ctrl.getLsbD 5
  let num := p.nums.getD k 0
  let owner := p.nums.getD lead 0
  let rank := if ganged then lead else k
  let s := s.emptyL1 ep
  let old := s.core ep
  let set := (p.eps.drop lead).take size
  let dom0 : KDom := ⟨true, false, 0, false, if ganged then owner else num⟩
  let doms : Vector KDom 4 := p.doms.foldl (fun (v : Vector KDom 4) d => v.set (d.1 % 4) d.2 (Nat.mod_lt _ (by decide)))
    ((Vector.replicate 4 ({} : KDom)).set 0 dom0)
  let team : Team := {
    num := num, owner := owner, rank := BitVec.ofNat 8 k
    nteam := BitVec.ofNat 8 ((if ganged then p.eps.length / size else p.eps.length) - 1)
    dist := BitVec.ofNat 2 p.dist, deadline := t.f[1], tag := t.tag, crec := t.crec, late := t.late
    rt := t.ctrl.getLsbD 2, mode1 := t.mode1, launch := p.launch, nrep := 0, img := false, stop := false, ended := none }
  let c := old.launched p.carve (t.ctrl.getLsbD 24)
  let c := { c with
    team := some team
    gang := if t.shape = 0 then {} else ⟨t.shape, BitVec.ofNat 2 (k - lead), set, ganged, 0, false⟩ }
  let c := c.setCtx 0 (t.start (s.win ep) rank doms)
  let members := if ganged ∧ k = lead then set else [ep]
  let s := s.setCore ep c
  { s with domains := s.domains ++ [teamDomain num members] }

/-- The launch of a record on its cores; none where a domain is refused (reason 4). -/
def State.launch (s : State) (d : Nat) (t : Task) (eps : List Nat) (descs : List (Nat × List Word × List Word)) : Option State :=
  match carveDesc t.f[3] t.f[4], s.addDomains eps descs with
  | some carve, some (s, doms) =>
    if s.leesUsed + 65536 * eps.length > s.leesPool then none
    else
      let r := s.numbers d (s.dist d).lastTeam [] eps.length
      let id := s.next
      let chunk := (fld t.ctrl 32 16 : BitVec 16).toNat
      let pool : Option Pool := if t.ctrl.getLsbD 2 then
          some ⟨(fld t.f[12] 0 32 : BitVec 32).toNat, (fld t.f[12] 32 32 : BitVec 32).toNat, max 1 chunk, [], []⟩ else none
      let l : Launch := ⟨id, d, t, r.2, pool, doms.map fun k => (k.2.lvl, k.2.dom)⟩
      let s : State := { s with next := id + 1, launches := s.launches ++ [l] }
      let s := s.setDist d { s.dist d with lastTeam := r.1 }
      let p : Plan := ⟨t, carve, eps, r.2, doms, id, d⟩
      some ((List.range eps.length).foldl (fun (s : State) k => s.startCore p k) s)
  | _, _ => none

/-- The selected record is refused (R429, R430). -/
def State.refuseSelected (s : State) (d : Nat) (t : Task) (reason : Nat) : State :=
  match s.refuse d t 3 reason with
  | .ok s => (s.setDist d (s.dist d).take).newHeads d
  | .error s => s

/-- DISPATCH (R429 to R433): the selected record is placed when its cores are free. -/
def execDispatch (dist : Fin 4) (s : State) : Res :=
  match (s.dist dist).selected with
  | none => .next s
  | some (_, t) =>
    if t.image.isSome ∨ s.pkg.boot ≠ 7 ∨ !s.canPost ∨ s.pkg.ttrip ∨ !(s.dist dist).stands then .next s
    else
      match s.place dist t with
      | .wait s => .next s
      | .refuse r => .next (s.refuseSelected dist t r)
      | .short _ => .next s
      | .cores eps =>
        match s.readDomains dist t with
        | .wait s => .next s
        | .failed => .next s
        | .ok (.error r) => .next (s.refuseSelected dist t r)
        | .ok (.ok descs) =>
          match s.launch dist t eps descs with
          | none => .next (s.refuseSelected dist t 4)
          | some s => .next ((s.setDist dist (s.dist dist).take).newHeads dist)

/-! ## Pre-emption (R447 to R449) -/

/-- The leaders of the teams that run on a die. -/
def State.leaders (s : State) (d : Nat) : List Nat :=
  (s.cores.filter fun c => isCompute c.1 && stackOf c.1 == d && c.2.team.isSome && (c.2.teamCores c.1).headD c.1 == c.1).map (·.1)

/-- A team has its image slots, or its pre-emption has reserved them. -/
def Team.slotted (t : Team) : Bool := t.img || t.stop

/-- Image slots that are free, and those that a team still needs (R447). -/
def State.slotsFree (s : State) : Nat := s.pkg.imgN - (s.cores.filter fun c => c.2.team.any Team.slotted).length
def State.slotsNeeded (s : State) (lead : Nat) : Nat :=
  (((s.core lead).teamCores lead).filter fun e => !(s.core e).team.any Team.slotted).length

/-- The team of a leader may be pre-empted for a candidate (R448). -/
def State.preemptable (s : State) (t : Task) (lead : Nat) : Bool :=
  (s.core lead).team.any fun v => decide (t.deadline < v.deadline.toNat) && v.ended.isNone

/-- The latest deadline first, ties to the higher number. -/
def State.victimOrder (s : State) (leads : List Nat) : List Nat :=
  sortBy (fun e => match (s.core e).team with
    | some v => (2 ^ 64 - v.deadline.toNat) * 65536 + (65535 - v.num.toNat)
    | none => 0) leads

/-- Victims until enough cores are free, as far as image slots are available for them (R448). DESIGN CHOICE (log 141): none where they
do not suffice. -/
def State.takeVictims (s : State) (need slots : Nat) : List Nat → Option (List Nat)
  | [] => if need = 0 then some [] else none
  | e :: rest =>
    if need = 0 then some []
    else if slots < s.slotsNeeded e then s.takeVictims need slots rest
    else
      let n := (((s.core e).teamCores e).filter fun k => !(s.core k).marked && !(s.core k).frozen).length
      (s.takeVictims (need - n) (slots - s.slotsNeeded e) rest).map fun l => e :: l

/-- The teams that the selected candidate of a distributor pre-empts. -/
def State.victims (s : State) (d : Nat) : List Nat :=
  match (s.dist d).selected with
  | none => []
  | some (_, t) =>
    if t.image.isSome ∨ !t.ctrl.getLsbD 4 ∨ !(s.dist d).stands then []
    else
      let vs := match s.place d t with
        | .short eps =>
          if t.mode1 then
            let leads := ((eps.filter fun e => (s.core e).team.isSome).map fun e => ((s.core e).teamCores e).headD e).eraseDups
            let others := eps.filter fun e => (s.core e).team.isNone && !s.coreFree e t.deadline
            if others.isEmpty && leads.all (s.preemptable t) then leads else []
          else
            let free := (s.freeCores d t.deadline).length
            (s.takeVictims (t.cores - free) s.slotsFree (s.victimOrder ((s.leaders d).filter (s.preemptable t)))).getD []
        | _ => []
      if (vs.map s.slotsNeeded).sum ≤ s.slotsFree then vs else []

/-- The communication of a timed domain stops at the next period boundary (R398, R414). -/
def Domain.stopAfter (d : Domain) (now : Nat) : Domain :=
  let p := d.plen + 1
  { d with stopAt := some (d.start + (now - d.start + p - 1) / p * p) }

/-- The issue of a team stops; the timed domain of its cores stops at its next period boundary, unless it has stopped before. -/
def State.stopTeam (s : State) (lead : Nat) : State :=
  let team := (s.core lead).teamCores lead
  let stops (d : Domain) : Bool := d.timed && team.any d.live.contains && !(d.stopAt.isSome && s.someStops d)
  let s : State := { s with domains := s.domains.map fun d => if stops d then d.stopAfter s.cycle else d }
  team.foldl (fun (s : State) e =>
    s.modCore e fun c => { c with team := c.team.map fun t => { t with stop := true } }) s

/-- An outstanding access that an image may hold, or that leaves with the wait that it belongs to (R133): one with a ticket, a failed
portion, a returned one that waits for such, one at another device, whose reply finds it there (R553), or a wait at a press. -/
def Core.keeps (c : Core) (a : Acc) : Bool :=
  match a.stage with
  | .ticket .. => (match a.op with | .range what .. => decide (what ≠ 3 ∧ what ≠ 4 ∧ what ≠ 20) | _ => true)
  | .frozen .. => true
  | .failed .. => true
  | .back _ => a.heldLine || c.accs.any fun b => b.grp == a.grp && b.stage.kept
  | .remote => true
  | .orphan => true
  | .press => (match a.op with | .wait .. => true | _ => false)
  | _ => false

/-- A core may be written to its image (R449): its reads in this device are back, no conversion, engine command or started cask command
runs (R269, R299), no landing pad is due, no trap can be taken first (R153), and its timed domain has reached the boundary of its stop
(R414). -/
def State.coreStill (s : State) (e : Nat) : Bool :=
  let c := s.core e
  (c.accs.all c.keeps) && (match c.mrun with | none => true | some d => d.copying.isSome) &&
    !(c.casks.any Cask.started) &&
    (s.domains.all fun d => !d.live.contains e || d.stopAt.all fun b => decide (b ≤ s.cycle)) &&
    (c.alive.all fun n =>
      let x := c.ctx n
      x.pad.isNone && !(match x.hold with | .convert _ => true | _ => false) &&
        (x.deferred.isEmpty || !s.mayTake e n) && !s.reportDue e n) &&
    !(s.net.any fun m => match m with
      | .send to_ a _ _ => to_ == e || a.ep == e
      | .request _ who _ _ _ _ _ _ => who == (s.dev, e)
      | _ => false)

/-! ## Renaming of endpoints -/

/-- The new name of an endpoint. -/
def rename1 (m : List (Nat × Nat)) (e : Nat) : Nat := match m.find? fun p => p.1 = e with | some p => p.2 | none => e

def renameParty (p : Party) (dev : BitVec 10) (m : List (Nat × Nat)) : Party :=
  if p.dev = dev then { p with ep := rename1 m p.ep } else p

def PressOp.rename (o : PressOp) (dev : BitVec 10) (m : List (Nat × Nat)) : PressOp :=
  { o with
    who := renameParty o.who dev m
    kind := match o.kind with
      | .join w v d ps h => .join w v d (ps.map fun p => renameParty p dev m) h
      | k => k }

def Call.rename (c : Call) (m : List (Nat × Nat)) : Call := { c with ep := rename1 m c.ep }

def MemCore.rename (c : MemCore) (m : List (Nat × Nat)) : MemCore :=
  { c with
    lessee := c.lessee.map fun l => (rename1 m l.1, l.2)
    call := c.call.map (Call.rename · m), queued := c.queued.map (Call.rename · m)
    sent := c.sent.map (Call.rename · m), ended := c.ended.map fun e => (e.1.rename m, e.2) }

def MCmd.rename (q : MCmd) (m : List (Nat × Nat)) : MCmd := { q with ep := rename1 m q.ep, lead := rename1 m q.lead }
def Cask.rename (k : Cask) (m : List (Nat × Nat)) : Cask := { k with ep := rename1 m k.ep }

def Core.rename (c : Core) (m : List (Nat × Nat)) : Core :=
  { c with
    mq := c.mq.map (MCmd.rename · m)
    mrun := c.mrun.map fun d => { d with cmd := d.cmd.rename m }
    casks := c.casks.map (Cask.rename · m)
    gang := { c.gang with set := c.gang.set.map (rename1 m) }
    ctxs := c.ctxs.map fun x => { x with done := x.done.map fun d => { d with ep := rename1 m d.ep } } }

def Msg.rename (g : Msg) (dev : BitVec 10) (m : List (Nat × Nat)) : Msg :=
  match g with
  | .report ep n ws => .report (rename1 m ep) n ws
  | .retry t op => .retry t (op.rename dev m)
  | .msend to_ q key => .msend to_ (q.rename m) key
  | .cask to_ k => .cask to_ (k.rename m)
  | .caskDone k f r => .caskDone (k.rename m) f r
  | .notice ep d a c st r => .notice (rename1 m ep) d a c st r
  | g => g

def Domain.rename (d : Domain) (dev : BitVec 10) (m : List (Nat × Nat)) : Domain :=
  { d with
    members := d.members.map (rename1 m), ended := d.ended.map (rename1 m)
    appended0 := d.appended0.map fun p => renameParty p dev m, appended1 := d.appended1.map fun p => renameParty p dev m }

/-- Everything that names the cores of a team by their endpoints names them anew (log 23). -/
def State.rename (s : State) (m : List (Nat × Nat)) : State :=
  { s with
    cores := s.cores.map fun (c : Nat × Core) => (c.1, c.2.rename m)
    mcs := s.mcs.map fun (c : Nat × MemCore) => (c.1, c.2.rename m)
    dists := s.dists.map fun (d : Nat × Dist) =>
      (d.1, { d.2 with taskqs := d.2.taskqs.map fun r => { r with ep := rename1 m r.ep } })
    clusters := s.clusters.map fun (c : Nat × Cluster) =>
      (c.1, { c.2 with slots := c.2.slots.map fun k =>
        { k with reqs := k.reqs.map fun r => if r.1 = s.dev then (r.1, rename1 m r.2) else r } })
    launches := s.launches.map fun (l : Launch) =>
      { l with pool := l.pool.map fun p => { p with holders := p.holders.map fun h => (rename1 m h.1, h.2) } }
    images := s.images.map fun (i : Image) => { i with answers := i.answers.map fun a => ({ a.1 with ep := rename1 m a.1.ep }, a.2) }
    pressQ := s.pressQ.map fun o => o.rename s.dev m
    routers := s.routers.map fun (e : RouteEntry) => { e with op := e.op.rename s.dev m }
    lees := s.lees.map fun (r : LeesRec) => { r with who := renameParty r.who s.dev m }
    net := s.net.map fun g => g.rename s.dev m
    domains := s.domains.map fun d => d.rename s.dev m }

/-! ## The image (R449) -/

/-- The contexts of a core leave what they wait for (R22, R133, R151): each one reissues at its resumption. A context whose
instruction has portions with tickets keeps them. -/
def State.withdraw (s : State) (e : Nat) : State :=
  (s.core e).alive.foldl (fun (s : State) n =>
    match (s.ctxAt e n).hold with
    | .exact _ => s
    | .gen _ => s
    | .replay _ => s
    | _ => if (s.ctxAt e n).life = .live ∧ (s.ctxAt e n).hold = .free then s else s.abandon e n) s

/-- What stays at a core that a team leaves: its L1, tagged with owners, its L1 TLB, and the casks of other teams (R299, R449). -/
def Core.left (c : Core) (team : List Nat) : Core :=
  { ({} : Core) with
    disabled := c.disabled, marked := c.marked, frozen := c.frozen, fills := c.fills, nextAge := c.nextAge
    l1 := c.l1, tlb := c.tlb, ran := c.ran, pred := c.pred, casks := c.casks.filter fun k => !team.contains k.ep }

/-- What the image of a core holds. -/
def Core.imaged (c : Core) (team : List Nat) : Core :=
  { c with
    l1 := [], tlb := [], pred := [], frozen := false, casks := c.casks.filter fun k => team.contains k.ep
    team := c.team.map fun t => { t with img := true, stop := false } }

/-- The team's cores are written to their images and become free; the team enters the resume list. -/
def State.writeImage (s : State) (team : List Nat) : State :=
  let id := s.next
  let m := team.zipIdx.map fun p => (p.1, 4096 + 16 * id + p.2)
  match (s.core (team.headD 0)).team with
  | none => s
  | some t =>
    let l := (s.launches.find? fun l => l.id = t.launch)
    -- the distributor of the die on which the team runs resumes it (R448)
    let d := stackOf (team.headD 0)
    let x := s.dist d
    let task : Task := match l with
      | some l => { l.task with image := some id, checked := true, arrival := x.arrivals }
      | none => ⟨Vector.replicate 16 0, false, x.arrivals, true, 0, some id, none, false⟩
    let img : Image := ⟨id, d, t.num, t.deadline, m, task, []⟩
    let s : State := { s with next := id + 1 }
    let s := s.rename m
    let s := m.foldl (fun (s : State) p =>
      let c := s.core p.1
      let new := team.map (rename1 m)
      (s.setCore p.2 (c.imaged new)).setCore p.1 (c.left new)) s
    let s := s.setDist d { x with resume := x.resume ++ [task], arrivals := x.arrivals + 1, taskqs := (s.dist d).taskqs }
    { s with images := s.images ++ [img] }

/-- PREEMPT (R447 to R449): the issue of a victim stops, and when its units are still the team is written to its image. -/
def execPreempt (ep : Nat) (s : State) : Res :=
  let team := (s.core ep).teamCores ep
  let lead := team.headD ep
  match (s.core lead).team with
  | none => .next s
  | some t =>
    if t.ended.isSome then .next s
    else if !t.stop then
      if (s.victims (stackOf lead)).contains lead then .next (s.stopTeam lead) else .next s
    else if !(team.all s.coreStill) then .next s
    else
      let s := team.foldl (fun (s : State) e => (allCtx.foldl (fun (s : State) n => s.modCtx e n Ctx.goOn) s).withdraw e) s
      let s := s.sendOn team
      let s := team.foldl (fun (s : State) e => s.rejectSent team e) s
      .next (s.writeImage team)

/-! ## Resumption and migration (R450 to R452) -/

/-- A pre-empted team's own cores are free, on the die of the distributor that is to resume it, so that it resumes there (R451). -/
def State.ownFree (s : State) (d : Nat) (i : Image) : Bool := i.cores.all fun c => s.coreFree c.1 i.deadline.toNat && stackOf c.1 == d

/-- Nothing that the image holds is outstanding at another device (log 144). -/
def State.answered (s : State) (i : Image) : Bool := i.cores.all fun c => !((s.core c.2).accs.any fun a => a.stage == .remote || a.stage == .orphan)

/-- The cores on which an image may be resumed by a distributor are a list's (R451); while one of the team's endpoints is
frozen, the team is not resumed (R553). -/
def State.targetOk (s : State) (d : Nat) (i : Image) (target : List Nat) : Bool :=
  !(i.cores.any fun c => (s.core c.1).frozen) && s.answered i &&
  let own := i.cores.map (·.1)
  let deadline := i.deadline.toNat
  let free (e : Nat) : Bool := s.coreFree e deadline
  let shape : BitVec 2 := match i.cores with
    | c :: _ => if (s.core c.2).gang.g then (s.core c.2).gang.shape else 0
    | [] => 0
  if s.fixed i || s.ownFree d i then target == own && own.all free
  else
    target.length == own.length && target.eraseDups.length == target.length &&
      (target.all fun e => isCompute e && stackOf e == d && s.coreFree e deadline) && shapeOk shape target

/-- A core takes up an image. -/
def Core.resumed (img phys : Core) : Core :=
  { img with
    disabled := phys.disabled, marked := phys.marked, frozen := phys.frozen, fills := phys.fills
    nextAge := max img.nextAge phys.nextAge
    l1 := phys.l1, tlb := phys.tlb, pred := phys.pred, casks := phys.casks ++ img.casks, ran := phys.ran }

/-- The markers of the team's dirty lines in its old core, and the flush that is to clear them (R452). -/
def State.migrate1 (s : State) (old new : Nat) (owner : BitVec 16) : State :=
  let dirty := (s.core old).l1.filter fun l => !l.2.lat && l.2.owner == owner && l.2.mask != 0
  let s : State := { s with markers := s.markers ++ dirty.map fun l => (l.1, old) }
  s.post (.flushed old new owner)

/-- Every ticket of a core is replayed once, as for status 0 (R373). -/
def State.replayAll (s : State) (ep : Nat) : State :=
  ((s.core ep).accs.filter Acc.entry).foldl (fun (s : State) a =>
    match s.findAcc ep a.age with
    | some a => s.replay ep a
    | none => s) s

/-- The communication of a timed domain goes on once every member team has resumed (R414): a TSEND whose occurrence fell into the stop
takes the next one. -/
def State.restartTimed (s : State) (d : Domain) : State :=
  match d.stopAt with
  | none => s
  | some b =>
    if d.someOut then s
    else
      let s := s.modDomain d.lvl d.dom fun g => { g with stopAt := none }
      d.live.foldl (fun (s : State) e => allCtx.foldl (fun (s : State) n =>
        let x := s.ctxAt e n
        match x.hold with
        | .tsend slot dst ch data due =>
          (match d.plan[slot]? with
           | some r =>
             if x.csr.dom[2].lvl == d.lvl && x.csr.dom[2].dom == d.dom && decide (b ≤ due) then
               s.modCtx e n fun x => { x with hold := .tsend slot dst ch data (d.occurrence r s.cycle) }
             else s
           | none => s)
        | _ => s) s) s

/-- The image is restored on a list of cores, the held answers are filled, and the tickets replay. -/
def State.restore (s : State) (i : Image) (target : List Nat) : State :=
  let m := (i.cores.zip target).map fun p => (p.1.2, p.2)
  let s := s.rename m
  let answers := ((s.images.find? fun j => j.id = i.id).map (·.answers)).getD []
  let s : State := { s with images := s.images.filter fun j => j.id ≠ i.id }
  let s := m.foldl (fun (s : State) p =>
    let img := s.core p.1
    let s := s.setCore p.2 (img.resumed (s.core p.2))
    { s with cores := mdel s.cores p.1 }) s
  let s := (i.cores.zip target).foldl (fun (s : State) p =>
    if p.1.1 = p.2 then s else s.migrate1 p.1.1 p.2 (s.core p.2).owner) s
  let s := answers.foldl (fun (s : State) a => s.fillPair a.1 a.2.1 a.2.2) s
  let s := s.domains.foldl (fun (s : State) d => s.restartTimed d) s
  let s := target.foldl (fun (s : State) e => s.replayAll e) s
  target.foldl (fun (s : State) e => allCtx.foldl (fun (s : State) n => s.catchUp e n) s) s

/-- RESUME: the selected pre-empted team is restored on its own or other cores. -/
def execResume (dist : Fin 4) (target : List Nat) (s : State) : Res :=
  match (s.dist dist).selected with
  | none => .next s
  | some (_, t) =>
    match t.image.bind fun id => s.images.find? fun i => i.id = id with
    | none => .next s
    | some i =>
      if !s.targetOk dist i target ∨ s.pkg.boot ≠ 7 ∨ !s.canPost ∨ s.pkg.ttrip ∨ !(s.dist dist).stands then .next s
      else
        let t := s.restore i target
        .next ((t.setDist dist (t.dist dist).take).newHeads dist)

/-- FLUSH_ACK (R452): the old core of a team migrated to a core has written back the team's lines, which clears their markers, and
acknowledges. The markers of another team's lines in that core stay. -/
def execFlushAck (ep : Nat) (s : State) : Res :=
  match s.net.findIdx? fun m => match m with | .flushed _ to_ _ => to_ == ep | _ => false with
  | none => .next s
  | some k =>
    match s.net[k]? with
    | some (.flushed old _ owner) =>
      let s := (s.take k).flushOwner old owner
      .next { s with markers := s.markers.filter fun m => m.2 ≠ old ∨ (mget (s.core old).l1 m.1).isSome }
    | _ => .next s

/-! ## The balancer (R444 to R446) -/

/-- The records of a distributor that may be moved (R444): not a selected one, and no head that has not been compared with the time or is
to be dropped (R427); pre-empted teams that may. -/
def State.movable (s : State) (d : Nat) : List Task :=
  let x := s.dist d
  let sel (t : Task) : Bool := match x.selected with | some (_, u) => u.arrival == t.arrival | none => false
  (x.queues.toList.flatMap fun q => (q.zipIdx.filter fun t => t.1.move && !sel t.1 && (t.2 != 0 || t.1.checked)).map (·.1)) ++
    x.resume.filter fun t => !sel t && (match t.image.bind fun id => s.images.find? fun i => i.id = id with
      | some i => !s.fixed i && !s.ownFree d i
      | none => false)

/-- The distributor with the largest value, ties to the lower number. -/
def argMax (f : Nat → Int) : Nat := ([1, 2, 3] : List Nat).foldl (fun (b : Nat) d => if f b < f d then d else b) 0

/-- The commands of one balancing round. -/
def balance (free work : List Int) : Nat → List (Nat × Nat × Nat)
  | 0 => []
  | k + 1 =>
    let f (d : Nat) : Int := free.getD d 0
    let w (d : Nat) : Int := work.getD d 0
    let src := argMax fun d => w d - f d
    let dst := argMax fun d => f d - w d
    if src ≠ dst ∧ w src - f src ≥ 1 ∧ f dst - w dst ≥ 1 then
      let n := min (min (w src - f src) (f dst - w dst)) 16
      (src, dst, n.toNat) :: balance free (setAt (setAt work src (w src - n)) dst (w dst + n)) k
    else []

/-- BALANCER_TICK (R444): every 4,096 cycles. -/
def execBalancerTick (s : State) : Res :=
  if s.cycle < 4096 * (s.pkg.balanced + 1) then .next s
  else
    let free := ([0, 1, 2, 3] : List Nat).map fun d => ((s.freeCores d never).length : Int)
    let work := ([0, 1, 2, 3] : List Nat).map fun d => ((s.movable d).length : Int)
    let s : State := { s with pkg := { s.pkg with balanced := s.cycle / 4096 } }
    .next ((balance free work 4).foldl (fun (s : State) c => s.post (.migrate c.1 c.2.1 c.2.2 ((s.movable c.1).map (·.arrival)))) s)

/-- A record moves into the transfer list of a distributor. -/
def State.transfer (s : State) (src dst : Nat) (t : Task) : State :=
  let x := s.dist src
  let s := (s.setDist src { x with
    queues := x.queues.map fun q => q.filter fun u => u.arrival ≠ t.arrival
    resume := x.resume.filter fun u => u.arrival ≠ t.arrival }).newHeads src
  let y := s.dist dst
  let s := s.setDist dst { y with transfer := y.transfer ++ [{ t with arrival := y.arrivals, checked := true }], arrivals := y.arrivals + 1 }
  { s with images := s.images.map fun (i : Image) => if some i.id = t.image then { i with dist := dst } else i }

/-- MIGRATION_COMMAND (R445, R446): the latest arrivals first, as many as fit, of the records that the balancer has counted (R453). -/
def execMigrationCommand (k : Nat) (s : State) : Res :=
  match s.net[k]? with
  | some (.migrate src dst n counted) =>
    let s := s.take k
    let room := 64 - (s.dist dst).transfer.length
    let go := ((sortBy (fun t => t.arrival) ((s.movable src).filter fun t => counted.contains t.arrival)).reverse).take (min n room)
    .next (go.foldl (fun (s : State) t => s.transfer src dst t) s)
  | _ => .next s

end Sys2Proof.Machine
end

