-- ==== Sys2Proof/Machine/Package.lean ====
section
/-! DEFINITION.
The package (R506 to R525): boot, the control block as the host writes it, the queue pair, the host's accesses, power and
temperature, and the marking and disabling of units. -/

namespace Sys2Proof.Machine

open Sys2Proof

/-! ## Units (R524) -/

/-- A unit that counts corrected errors: a compute core, a memory core, or a pseudo-channel as 2,048 plus its slice. -/
def isUnit (u : Nat) : Bool := decide (u < 960 ∨ (2048 ≤ u ∧ u < 2048 + Config.nSlices))

/-- The corrected errors of a unit in this epoch. -/
def State.errors (s : State) (u : Nat) : Nat := mgetD s.pkg.corrected u 0

/-- A unit event: code 0 marked, 1 disabled (R517 kind 5). -/
def State.unitEvent (s : State) (u : Nat) (code : Nat) : List Word := [5, w64 (code * 2 ^ 62 + u), w64 (s.errors u)]

/-- UNIT_MARK: a unit over ETHR, or with an uncorrectable error in its own logic, is marked and logged; RREQ is set. -/
def execUnitMark (unit : Nat) (logic : Bool) (s : State) : Res :=
  if !isUnit unit ∨ s.pkg.log.contains unit ∨ s.unitOff unit ∨ !(logic || decide (s.pkg.ethr.toNat < s.errors unit)) ∨
      !s.canPost then .next s
  else
    let s : State := { s with
      pkg := { s.pkg with rreq := true, log := s.pkg.log ++ [unit] }, reports := s.reports ++ [s.unitEvent unit 0] }
    .next (if isCompute unit then s.modCore unit fun c => { c with marked := true }
      else if isMemCore unit then s.setMc unit { s.mc unit with marked := true }
      else s)

/-- UNIT_DISABLE: a marked compute core whose team has ended or left, or a marked memory core that is FREE, is disabled. -/
def execUnitDisable (unit : Nat) (s : State) : Res :=
  let ready : Bool :=
    if isCompute unit then (s.core unit).marked && (s.core unit).team.isNone
    else isMemCore unit && (s.mc unit).marked && decide ((s.mc unit).st = .free)
  if !ready ∨ s.unitOff unit ∨ !s.canPost then .next s
  else
    let s : State := { s with reports := s.reports ++ [s.unitEvent unit 1] }
    .next (if isCompute unit then s.modCore unit fun c => { c with disabled := true }
      else s.setMc unit { s.mc unit with disabled := true })

/-- ERROR_EPOCH_END: at each multiple of 2^40 ns the counts restart. -/
def execErrorEpochEnd (s : State) : Res :=
  if s.time / 2 ^ 40 ≤ s.pkg.epochs then .next s
  else .next { s with pkg := { s.pkg with epochs := s.time / 2 ^ 40, corrected := [] } }

/-! ## Power and temperature (R521, R522) -/

/-- The hottest sensor, in units of 1/8 °C. -/
def hottest (temps : Vector (BitVec 16) 4) : Nat := temps.toList.foldl (fun (m : Nat) t => max m t.toNat) 0

/-- The throttle level after one step of the power loop. -/
def throttle (old : BitVec 2) (h : Nat) : BitVec 2 :=
  if h < 8 * 95 then 0 else if h < 8 * 105 then (if old = 3 then 3 else old + 1) else 3

/-- THERMAL_STEP: once a millisecond THROT follows the hottest sensor; a rise posts a power event, at 105 °C with the
warning of a thermal trip (log 29). -/
def execThermalStep (temps : Vector (BitVec 16) 4) (power : BitVec 16) (s : State) : Res :=
  if s.time / 1000000 ≤ s.pkg.ms ∨ !s.canPost then .next s
  else
    let h := hottest temps
    let k := throttle s.pkg.throt h
    let rise := decide (s.pkg.throt < k ∧ h < 8 * 115)
    let s : State := { s with pkg := { s.pkg with temps := temps, pavg := power, throt := k, ms := s.time / 1000000 } }
    .next (if rise then s.tell 6 [w64 (k.toNat + (if 8 * 105 ≤ h then 256 else 0))] else s)

/-- THERMAL_TRIP: at 115 °C the device stops issuing and sets TTRIP; nothing is posted. -/
def execThermalTrip (s : State) : Res :=
  if hottest s.pkg.temps < 8 * 115 then .next s else .next { s with pkg := { s.pkg with ttrip := true } }

/-! ## Power-off, reset and boot (R511) -/

/-- A state with the units of the disable log out of service. -/
def State.disableLogged (s : State) : State :=
  s.pkg.log.foldl (fun (s : State) u =>
    if isCompute u then s.modCore u fun c => { c with disabled := true }
    else if isMemCore u then s.setMc u { s.mc u with disabled := true }
    else { s with pkg := { s.pkg with badPch := insertNat s.pkg.badPch (u - 2048) } }) s

/-- POWER_OFF: the disable log survives, RREQ is cleared, and the contents of the device are lost. -/
def execPowerOff (s : State) : Res :=
  .next { State.reset with
    pkg := { log := s.pkg.log, badPch := s.pkg.badPch, off := true }
    cores := (s.cores.filter fun c => c.2.disabled).map fun c => (c.1, { disabled := true })
    mcs := (s.mcs.filter fun m => m.2.disabled).map fun m => (m.1, { disabled := true })
    hostMem := s.hostMem, agenda := s.agenda, free := s.free }

/-- DEVICE_RESET: every unit at its reset state (R31), with the units of the disable log out of service; a pseudo-channel that
was only marked is disabled now, and its unit event waits in the package buffer. Memory keeps its contents (log 30). -/
def execDeviceReset (s : State) : Res :=
  let newly := s.pkg.log.filter fun u => !s.unitOff u
  let t : State := { State.reset with
    pkg := { log := s.pkg.log, rreq := s.pkg.rreq, boot := 1 }
    mem := s.mem, lines := s.lines, poisoned := s.poisoned
    reports := newly.map fun u => s.unitEvent u 1
    hostMem := s.hostMem, agenda := s.agenda, free := s.free }
  .next t.disableLogged

/-- SELF_TEST (stage 2): units that fail are out of service, the device requests replacement for them (R1; their entry in the disable
log: log 84), and the capacity fields are written. -/
def execSelfTest (badCores : List Nat) (badMcores : List Nat) (badPch : List Nat) (s : State) : Res :=
  if s.pkg.boot ≠ 1 ∨ s.pkg.off then .next s
  else
    let s := (badCores.filter isCompute).foldl (fun (s : State) e => s.modCore e fun c => { c with disabled := true }) s
    let s := (badMcores.filter fun n => n < Config.nSlices).foldl
      (fun (s : State) n => s.setMc (576 + n) { s.mc (576 + n) with disabled := true }) s
    let pch := badPch.filter fun n => n < Config.nSlices
    let fails := badCores.any isCompute || (badMcores.any fun n => n < Config.nSlices) || !pch.isEmpty
    .next { s with pkg := { s.pkg with
      boot := 2, tested := true, badPch := pch.foldl insertNat s.pkg.badPch, rreq := s.pkg.rreq || fails } }

/-- MEMORY_TRAINING (stage 3): T1SIZE and T2LEN are written; a failure leaves BOOT at 15. -/
def execMemoryTraining (t2len : Vector (BitVec 41) 12) (ok : Bool) (s : State) : Res :=
  if s.pkg.boot ≠ 2 then .next s
  else if !ok then .next { s with pkg := { s.pkg with boot := 15 } }
  else .next { s with pkg := { s.pkg with
    boot := 3, t1size := w64 (s.slices.length * 1216 * 2 ^ 20), t2len := t2len.map fun l => l &&& ~~~0xFFFF } }

/-- LINE_STATE_ZERO: stage 4, in which the line-state, waiter and lees parts are zeroed, and after it the beginning of stage 5. -/
def execLineStateZero (s : State) : Res :=
  if s.pkg.boot = 3 then .next { s with lines := [], rings := [], regs := [], lees := [], pkg := { s.pkg with boot := 4 } }
  else if s.pkg.boot = 4 then .next { s with pkg := { s.pkg with boot := 5 } }
  else .next s

/-- The stage under way fails: BOOT stays at 15, and nothing is posted (R511). The wait of stage 5 has nothing that fails. -/
def State.bootFail (s : State) : State :=
  if 1 ≤ s.pkg.boot ∧ s.pkg.boot ≤ 6 ∧ s.pkg.boot ≠ 5 then { s with pkg := { s.pkg with boot := 15 } } else s

/-- The translation service cores. -/
def serviceCores : List Nat := (List.range Config.nClusters).map fun c => 960 + c

/-- A piece of the Choing image: its place in memory, its offset from BOOTIMG in host memory, its bytes. -/
abbrev BootPiece := Nat × Nat × Nat

/-- CHOING_LOAD: the beginning of stage 6, and then its end: pieces of host memory at BOOTIMG are in memory, every service core starts
at its entry, at system level, and the device is ready (stage 7). A pc keeps bits [1:0] at zero (R12). Which pieces the image has, where
they lie and its entry are the event's, as the spec gives the image no format (log 28). -/
def execChoingLoad (entry : BitVec 64) (image : List (Nat × Nat × Nat)) (s : State) : Res :=
  if s.pkg.boot = 5 ∧ s.pkg.hostReady then .next { s with pkg := { s.pkg with boot := 6 } }
  else if s.pkg.boot ≠ 6 then .next s
  else
    let s : State := { s with
      mem := image.foldl (fun (m : List Host.Cell) (p : BootPiece) =>
        writeRange m p.1 p.2.2 (readRange s.hostMem (s.pkg.bootImg.toNat + p.2.1) p.2.2)) s.mem
      pkg := { s.pkg with boot := 7 } }
    .next (serviceCores.foldl (fun (s : State) e =>
      s.setCtxAt e 0 { life := .live, pc := entry &&& ~~~3, csr := { prv := true } }) s)

/-! ## The control block as the host writes it (R510) -/

/-- The ring and pool registers take writes only while BOOT is below 6. -/
def Pkg.setup (p : Pkg) (f : Pkg → Pkg) : Pkg := if p.boot < 6 then f p else p

/-- HSQLOG and DEQLOG: 0 takes the ring down, 4 to 16 set it up with its sequence registers at 0, any other value is ignored. -/
def Pkg.setLog (p : Pkg) (deq : Bool) (v : Word) : Pkg :=
  let k := (fld v 0 5 : BitVec 5).toNat
  p.setup fun p =>
    if k = 0 then (if deq then { p with deqLog := 0 } else { p with hsqLog := 0 })
    else if k < 4 ∨ 16 < k then p
    else if deq then { p with deqLog := k, dcons := 0, dseq := 0 }
    else { p with hsqLog := k, htail := 0, hseq := 0 }

/-- RING_LOG_WRITE. -/
def execRingLogWrite (deq : Bool) (v : BitVec 64) (s : State) : Res := .next { s with pkg := s.pkg.setLog deq v }

/-- The host doorbell: a value outside the ring is ignored (R518); 0 in stage 5 ends the wait for the host (R511). -/
def Pkg.setTail (p : Pkg) (v : BitVec 32) : Pkg :=
  if 2 ^ p.hsqLog < (v - p.hseq).toNat then p
  else { p with htail := v, stopped := false, hostReady := p.hostReady || (p.boot == 5 && v == 0) }

/-- HTAIL_WRITE. -/
def execHtailWrite (v : BitVec 32) (s : State) : Res := .next { s with pkg := s.pkg.setTail v }

/-- A write of DCONS outside [DCONS, DSEQ] is ignored (R519). -/
def Pkg.setCons (p : Pkg) (v : BitVec 32) : Pkg := if p.dseq - p.dcons < v - p.dcons then p else { p with dcons := v }

/-- DCONS_WRITE. -/
def execDconsWrite (v : BitVec 32) (s : State) : Res := .next { s with pkg := s.pkg.setCons v }

/-- A host write of one doubleword of the block (R510). -/
def Pkg.hostPut (p : Pkg) (off : Nat) (v : Word) : Pkg :=
  match off with
  | 0x018 => { p with ethr := fld v 0 16 }
  | 0x080 =>
    let c : BitVec 12 := fld v 16 12
    if 1200 ≤ c ∧ c ≤ 2800 then { p with pcap := c } else p
  | 0x200 => p.setup fun p => { p with hsqBase := v &&& ~~~0xFF }
  | 0x208 => p.setLog false v
  | 0x210 => p.setTail (fld v 0 32)
  | 0x220 => p.setup fun p => { p with deqBase := v &&& ~~~0xFF }
  | 0x228 => p.setLog true v
  | 0x230 => p.setCons (fld v 0 32)
  | 0x240 => p.setup fun p => { p with imgBase := v &&& ~~~0xFFFF }
  | 0x248 => p.setup fun p => { p with imgN := (fld v 0 16 : BitVec 16).toNat }
  | 0x250 => p.setup fun p => { p with hvBase := v }
  | 0x258 => p.setup fun p => { p with bootImg := v }
  | _ => p

/-- HOST_CONTROL_WRITE: a CXL.io write; one beyond the block is ignored. -/
def execHostControlWrite (off : BitVec 64) (v : BitVec 64) (s : State) : Res :=
  .next { s with pkg := s.pkg.hostPut off.toNat v }

/-- A CXL.io read of the host; beyond the block it gives zero (R510). -/
def State.hostControlRead (s : State) (off : Nat) : State :=
  { s with hostAns := s.hostAns ++ [⟨off, false, 8, ((s.pkgDw (off / 8 * 8)).getD 0).toNat, true⟩] }

/-! ## The host ring (R517, R518) -/

/-- The words of a 256-byte entry of host memory. -/
def entryWords (m : List Host.Cell) (a : Nat) : List Word := natWords (readRange m a 256) 32

/-- The entry at the head of the host ring, while intake runs. -/
def State.hsqEntry (s : State) : Option (List Word) :=
  let p := s.pkg
  let n := (p.htail - p.hseq).toNat
  if p.boot ≠ 7 ∨ p.stopped ∨ p.hsqLog = 0 ∨ n = 0 ∨ 2 ^ p.hsqLog < n then none
  else some (entryWords s.hostMem (p.hsqBase.toNat + 256 * ((p.hseq + 1).toNat % 2 ^ p.hsqLog)))

def hdrSeq (ws : List Word) : BitVec 32 := fld (ws.headD 0) 0 32
def hdrKind (ws : List Word) : Nat := (fld (ws.headD 0) 32 8 : BitVec 8).toNat
def hdrDist (ws : List Word) : Nat := (fld (ws.headD 0) 40 2 : BitVec 2).toNat
def hdrQueue (ws : List Word) : Fin 16 := (fld (ws.headD 0) 44 4 : BitVec 4).toFin
/-- Word 1 of an entry. -/
def hdrArg (ws : List Word) : Word := ws.getD 1 0

/-- The head entry has the next sequence number and a kind. -/
def State.hsqOf (s : State) (kind : Nat) : Option (List Word) :=
  s.hsqEntry.filter fun ws => hdrSeq ws == s.pkg.hseq + 1 && hdrKind ws == kind

/-- The entry is accepted. -/
def State.accepted (s : State) : State := { s with pkg := { s.pkg with hseq := s.pkg.hseq + 1 } }

/-- HSQ_TASK_ENTRY (kind 1): the entry enters its queue or is refused; it waits while its queue is full. -/
def execHsqTaskEntry (s : State) : Res :=
  match s.hsqOf 1 with
  | none => .next s
  | some ws =>
    match s.acceptEntry (hdrDist ws) ⟨hdrQueue ws, true, false, ws.drop 1, none⟩ with
    | .ok s => .next s.accepted
    | .error s => .next s

/-- The leader of the live team of a number. -/
def State.teamLead (s : State) (num : BitVec 16) : Option Nat :=
  (s.cores.find? fun c => isCompute c.1 && (c.2.team.any fun t => t.num == num && t.ended.isNone)).map fun c =>
    (c.2.teamCores c.1).headD c.1

/-- HSQ_PREEMPT (kind 2): the team's issue stops, and PREEMPT then writes its image; without enough image slots, or for a
number that is not live, there is no effect (R447, R525). -/
def execHsqPreempt (s : State) : Res :=
  match s.hsqOf 2 with
  | none => .next s
  | some ws =>
    .next (match s.teamLead (fld (hdrArg ws) 0 16) with
      | some e => if s.slotsNeeded e ≤ s.slotsFree then (s.stopTeam e).accepted else s.accepted
      | none => s.accepted)

/-- A core goes on (R24), and its denied accesses replay from the beginning (R545); in a gang the other members go on with it
(R342). -/
def State.unfreeze (s : State) (ep : Nat) : State :=
  let c := s.core ep
  if !c.frozen then s
  else
    let held := c.accs.filter fun a => a.stage.isFrozen
    let s := held.foldl (fun (s : State) a => if (s.findAcc ep a.age).any fun b => b.stage.isFrozen then s.replay ep a else s)
      (s.setCore ep { c with frozen := false })
    (c.teamCores ep).foldl (fun (s : State) e => allCtx.foldl (fun (s : State) n => s.catchUp e n) s) s

/-- HSQ_UNFREEZE (kind 3). -/
def execHsqUnfreeze (s : State) : Res :=
  match s.hsqOf 3 with
  | none => .next s
  | some ws =>
    let ep := (fld (hdrArg ws) 0 11 : BitVec 11).toNat
    .next (if isCompute ep ∨ isService ep then (s.unfreeze ep).accepted else s.accepted)

/-- HSQ_WAKE (kind 4): HWAKE of a domain is set or cleared (R409); after a clear the next two samples decide (R525). -/
def execHsqWake (s : State) : Res :=
  match s.hsqOf 4 with
  | none => .next s
  | some ws =>
    let w := hdrArg ws
    let lvl : BitVec 3 := fld w 16 3
    let dom : BitVec 16 := fld w 0 16
    let s := s.modDomain lvl dom fun d => { d with hwake := fld w 63 1 == (1 : BitVec 1) }
    .next ({ s with det := { s.det with idle := s.det.idle.filter fun i => i ≠ (lvl, dom) } } : State).accepted

/-- A HELD memory core is released (R487, R497): its lease with the lessee's slot, g ports, buffers, predicates and translations
are gone; a word that failed holds unspecified bits; a call that has not arrived ends as one that arrives in HELD does. -/
def State.releaseHeld (s : State) (mc : Nat) : State :=
  let m0 := s.mc mc
  if m0.st ≠ .held then s
  else
    let lost := m0.broke && m0.bad.contains m0.pc
    let t := if lost then (mput m0.imem m0.pc (Config.freeBundle s.free), s.free + 1) else (m0.imem, s.free)
    let m := m0.free (s.cycle / 32)
    let s := s.setMc mc { m with
      imem := t.1, bad := m0.bad.filter fun b => decide (b < 4096) && !(lost && b == m0.pc)
      g := Vector.replicate 16 0, bufs := Vector.replicate 4 0, p := Vector.replicate 8 false
      sent := [], ended := m.ended ++ m0.sent.map fun c => (c, callToken 0 0 c.seq m0.heldStatus) }
    let s := match m0.lessee with
      | some (ep, n, k) => s.modCtx ep n fun x => { x with leases := mdel x.leases k }
      | none => s
    { s with free := t.2 }

/-- HSQ_RELEASE_HELD (kind 5). -/
def execHsqReleaseHeld (s : State) : Res :=
  match s.hsqOf 5 with
  | none => .next s
  | some ws => .next (s.releaseHeld (fld (hdrArg ws) 0 11 : BitVec 11).toNat).accepted

/-- HSQ_QUEUE_RESET (kind 6): the queue's host base becomes the all-zero record (R423). -/
def execHsqQueueReset (s : State) : Res :=
  match s.hsqOf 6 with
  | none => .next s
  | some ws =>
    let d := s.dist (hdrDist ws)
    .next (s.setDist (hdrDist ws) { d with bases := d.bases.set (hdrQueue ws) (Vector.replicate 16 0) }).accepted

/-- HSQ_MALFORMED: an entry of another kind posts a sequence event of reason 2 and counts as accepted; one with a wrong SEQ posts
reason 1, and intake stops until HTAIL is written (R518). -/
def execHsqMalformed (s : State) : Res :=
  match s.hsqEntry with
  | none => .next s
  | some ws =>
    if !s.canPost then .next s
    else if hdrSeq ws ≠ s.pkg.hseq + 1 then
      .next (({ s with pkg := { s.pkg with stopped := true } } : State).tell 7 [1, (hdrSeq ws).zeroExtend 64])
    else if 1 ≤ hdrKind ws ∧ hdrKind ws ≤ 6 then .next s
    else .next (s.tell 7 [2, (hdrSeq ws).zeroExtend 64]).accepted

/-! ## The device ring (R519) -/

/-- An entry as a number of 256 bytes: header, payload, zeros. -/
def deqEntry (seq : BitVec 32) (report : List Word) : Nat :=
  wordsNat ((report.headD 0 <<< 32 ||| seq.zeroExtend 64) :: report.drop 1) % 2 ^ 2048

/-- DEQ_POST: the oldest waiting report is written whole, and DSEQ is advanced; not over an entry that DCONS does not cover. -/
def execDeqPost (s : State) : Res :=
  let p := s.pkg
  match s.reports with
  | [] => .next s
  | r :: rest =>
    let q := p.dseq + 1
    if p.deqLog = 0 ∨ p.boot = 15 ∨ 2 ^ p.deqLog < (q - p.dcons).toNat then .next s
    else .next { s with
      hostMem := writeRange s.hostMem (p.deqBase.toNat + 256 * (q.toNat % 2 ^ p.deqLog)) 256 (deqEntry q r)
      pkg := { p with dseq := q }, reports := rest }

/-! ## Host accesses (R513, R514) -/

/-- The host port of this device as a master (R541). -/
def State.hostMaster (s : State) : Master := ⟨s.dev, 1036, true⟩

/-- The global address of a window offset. -/
def State.hostAddr (s : State) (w : Nat) : Word := w64 (s.dev.toNat * 2 ^ 54 + (s.pkg.hvBase.toNat + w) % 2 ^ 54)

/-- The byte enables of a host write as a mask of its line. -/
def beMask (off len be : Nat) : BitVec 128 := BitVec.ofNat 128 (be % 2 ^ len * 2 ^ off)

/-- A translated host access, by the class of its page (R514). -/
def State.hostServe (s : State) (a : HostAcc) (t : Tlb) (va : Word) : State :=
  let pa := t.pa va
  let line := pa / 128
  let off := pa % 128
  let right := (if a.write then Need.write else Need.read).right t.cls
  let who : Party := ⟨s.dev, 1036, 0, 0⟩
  if !s.admitted s.hostMaster kHome (pa / 65536) right then s.hostDone a none (some 4)
  else
    match t.cls with
    | .own => s.hostDone a none (some 1)
    | .host =>
      if a.write then
        (s.putHome line (beMask off a.len a.be) (BitVec.ofNat 1024 (a.data % 2 ^ (8 * a.len) * 2 ^ (8 * off)))).hostDone a none none
      else if s.poisoned.contains line then s.hostDone a none none
      else s.hostDone a (some (lineVal (lineOf s.mem line) off a.len)) none
    | .lat =>
      if a.write then
        let valid := beMask off a.len a.be
        let bad : Bool := !joinAccepts t.typ || wholeElems t.width valid != valid
        if bad then s.hostDone a none (some 3)
        else
          (s.toPress ⟨line, lineVa va, t.typ, t.vint, who, 0,
            .join t.width valid (BitVec.ofNat 1024 (a.data % 2 ^ (8 * a.len) * 2 ^ (8 * off))) [] true, 0⟩).hostDone a none none
      else
        ({ s with hostAccs := (s.hostAccs.filter fun b => b.id ≠ a.id) ++ [{ a with press := true, code := none }] } : State).toPress
          ⟨line, lineVa va, t.typ, t.vint, who, 0, .read t.width a.id t.cork, 0⟩

/-- A host access whose replay failed: poisoned or dropped, with an access event whose reason the spec does not state (log 31). -/
def State.hostFail (s : State) (a : HostAcc) : State := (s.fresh).hostDone a none (some (Config.freeReason s.free))

/-- A doubleword of the windows that the host port may read (R485, R468, R510, R535, R559). -/
def State.hostDw (s : State) (ep off : Nat) : Option Word :=
  if isMemCore ep then (if s.mcOn ep then s.mcDw ep true off else none)
  else if ep = 960 then (if 0x100000 ≤ off then s.fabDw (off - 0x100000) else none)
  else if ep = 1036 then s.pkgDw off
  else none

/-- The doublewords of a block that a host write touches, with their bytes replaced (R510). -/
def State.hostPutDws (s : State) (off len data be : Nat) : State :=
  (List.range ((off % 8 + len + 7) / 8)).foldl (fun (s : State) k =>
    let o := off / 8 * 8 + 8 * k
    let mask := be % 2 ^ len * 2 ^ (off % 8) / 2 ^ (8 * k) % 256
    let v := w64 (data % 2 ^ (8 * len) * 2 ^ (8 * (off % 8)) / 2 ^ (64 * k))
    if mask = 0 then s else { s with pkg := s.pkg.hostPut o (mergeDw ((s.pkgDw o).getD 0) v mask) }) s

/-- A host access to a window (R559): the blocks whose rules name the host, under the access table; any other completes poisoned or is
dropped (log 145). -/
def State.hostServeWin (s : State) (a : HostAcc) (va : Word) : State :=
  let ep := aEp va
  let off := aOff va
  if !s.admitted s.hostMaster (winKind ep) ep (if a.write then rWrite else rRead) then s.hostDone a none (some 4)
  else if a.write then
    if ep = 1036 ∧ off + a.len ≤ 0x1000 then (s.hostPutDws off a.len a.data a.be).hostDone a none none else s.hostFail a
  else
    match (List.range ((off % 8 + a.len + 7) / 8)).mapM fun k => s.hostDw ep (off / 8 * 8 + 8 * k) with
    | some ws => s.hostDone a (some (wordsNat ws / 2 ^ (8 * (off % 8)) % 2 ^ (8 * a.len))) none
    | none => s.hostFail a

/-- A host access is translated (R513); a miss waits in the port's ticket table. -/
def State.hostTry (s : State) (a : HostAcc) : State :=
  let va := s.hostAddr a.w
  if aWin va then s.hostServeWin a va
  else match s.lookupL2 none va with
  | .hit t => s.hostServe a t va
  | .miss k =>
    ({ s with hostAccs := (s.hostAccs.filter fun b => b.id ≠ a.id) ++ [{ a with press := false, code := none }] } : State).post
      (.request (aVpn va % 72) (s.dev, 1036) (aVpn va) k 0xFFFF 0 (if a.write then 1 else 0) a.id)

/-- A new host access of at most one sector; while the ticket table or the package buffer is full it is not taken. -/
def State.hostAccess (s : State) (write : Bool) (w len data be : Nat) : Res :=
  if len = 0 ∨ 64 < (s.pkg.hvBase.toNat + w) % 64 + len ∨ !s.canPost ∨ 64 ≤ (s.hostAccs.filter fun a => !a.press).length then .next s
  else .next (({ s with next := s.next + 1 } : State).hostTry ⟨s.next, w, write, len, data, be, false, none⟩)

/-- HOST_READ. -/
def execHostRead (w : BitVec 40) (len : Nat) (s : State) : Res := s.hostAccess false w.toNat len 0 0

/-- HOST_WRITE. -/
def execHostWrite (w : BitVec 40) (len : Nat) (data : Nat) (be : Nat) (s : State) : Res := s.hostAccess true w.toNat len data be

/-- BACK_INVALIDATE_RESPONSE (R515): the host has given a sector up, and the access that waits for it proceeds when it issues
again. -/
def execBackInvalidateResponse (k : Nat) (s : State) : Res :=
  match s.snoops[k]? with
  | some p => .next { s with
      snoops := dropAt s.snoops k
      snoop := s.snoop.filter fun h => h.1 ≠ p.sector }
  | none => .next s

end Sys2Proof.Machine
end

