-- ==== Sys2Proof/Machine/Fabric.lean ====
section
/-! DEFINITION.
The fabric (R526 to R554): ports and gateways, the checks of a request at its target, and the arrival of each kind of packet. -/

namespace Sys2Proof.Machine

open Sys2Proof

/-! ## Ports, gateways and configuration (R531, R532, R536, R548) -/

/-- PORT_TRAINED: the port carries traffic. -/
def execPortTrained (port : Fin 36) (s : State) : Res :=
  .next (if s.fab.up.contains port then s else { s with fab := { s.fab with up := s.fab.up ++ [port] } })

/-- PORT_DOWN: the port's bit of kflinks clears; the packets that it carried stay at the gateway and are sent again. -/
def execPortDown (port : Fin 36) (s : State) : Res :=
  .next { s with fab := { s.fab with up := s.fab.up.filter fun p => p ≠ port } }

/-- GATEWAY_ACKNOWLEDGEMENT: a packet that the receiving gateway has acknowledged is no longer kept. -/
def execGatewayAcknowledgement (k : Nat) (s : State) : Res :=
  .next { s with fab := { s.fab with out := dropAt s.fab.out k } }

/-- GATEWAY_MERGE_SEND: the 32 cycles of a join entry have ended, at a source gateway or, numbered behind those, at a target gateway. -/
def execGatewayMergeSend (k : Nat) (s : State) : Res :=
  match s.fab.merge[k]? with
  | some e =>
    if e.1 + 32 ≤ s.cycle then
      .next (({ s with fab := { s.fab with merge := dropAt s.fab.merge k } } : State).send e.2)
    else .next s
  | none =>
    match s.fab.gate[k - s.fab.merge.length]? with
    | some e => if e.1 + 32 ≤ s.cycle then .next (s.gateFlush e.2.2.line) else .next s
    | none => .next s

/-- DEV_WRITE. -/
def execDevWrite (v : BitVec 64) (s : State) : Res := .next { s with fab := s.fab.setDev v }

/-- REGION_TABLE_WRITE. The model's checks read the region table in memory, so that no cached entry is left to empty. -/
def execRegionTableWrite (rtn : Bool) (v : BitVec 64) (s : State) : Res :=
  .next { s with fab := s.fab.setRegion rtn v }

/-! ## Arrival (R532) -/

/-- A packet is dropped and counted. -/
def State.dropPacket (s : State) : State := { s with fab := { s.fab with drops := inc32 s.fab.drops } }

/-- A packet of a kind arrives: it is dropped when it is not for this device, and accepted when it is the next of its stream; a
packet that was accepted before changes nothing. `f` is its effect; none while it has to wait at the gateway. -/
def State.arrive (s : State) (p : Packet) (code : Nat) (f : State → Option State) : Res :=
  if p.what ≠ code then .next s
  else if p.src = s.dev ∨ p.dst ≠ s.dev then .next s.dropPacket
  else
    let key := p.src.toNat * 4 + (classOf code).num
    let n := mgetD s.fab.rx key 0
    if p.seq ≠ n then .next s
    else
      let t : State := { s with fab := { s.fab with rx := mput s.fab.rx key (n + 1) } }
      .next ((f (if counted code then t.countRecvd p.fdom else t)).getD s)

/-! ## The checks at the target (R540, R541) -/

/-- The width of the lattice page at an address as the target's L2 TLB has it, in bytes; 1 where it has none. -/
def State.elemBytes (s : State) (a : Word) : Nat :=
  match s.lookupL2 none a with
  | .hit t => if t.cls = .lat then wBytes t.width else 1
  | .miss _ => 1

/-- The active bytes of a line. -/
def lineBytes (a : Word) (mask : BitVec 512) : List (Nat × Nat) :=
  ((List.range 128).filter fun b => mask.getLsbD b).map fun b => (aVa a / 128 * 128 + b, 1)

/-- The active bytes of pieces. -/
def chunkBytes (cs : List Chunk) (mask : BitVec 512) : List (Nat × Nat) :=
  cs.flatMap fun c => ((List.range c.2.2).filter fun b => mask.getLsbD (c.2.1 + b)).map fun b => (aVa c.1 + b, 1)

/-- Every byte of a request, as runs of addresses without the device. -/
def State.extent (s : State) (p : Packet) : List (Nat × Nat) :=
  let elem : List (Nat × Nat) := [(aVa p.addr, if aWin p.addr then 1 else s.elemBytes p.addr)]
  match p.what with
  | 0x01 => if p.kind = 1 then elem else if p.words = [] then lineBytes p.addr p.mask else chunkBytes (pkChunks p) p.mask
  | 0x02 =>
    if p.kind = 1 ∨ p.kind = 5 then elem else if p.words = [] then lineBytes p.addr p.mask else chunkBytes (pkChunks p) p.mask
  | 0x03 => p.recs.map fun r => (aVa r.addr, 4)
  | 0x06 => [(aVa p.addr, p.len)]
  | 0x07 => chunkBytes (pkChunks p) p.mask
  | _ => elem

/-- The bit of a token that is the right for a packet (R540 step 3). -/
def tokenRight (what : Nat) : Nat :=
  match what with
  | 0x01 => 38
  | 0x04 => 37
  | 0x08 => 37
  | 0x06 => 36
  | _ => 39

/-- The region of a token covers the request (R538, R540 step 4). -/
def State.inRegion (s : State) (p : Packet) : Bool :=
  let i := (fld p.token 20 16 : BitVec 16).toNat
  let base := s.fab.rtbase.toNat * 64 + 16 * i
  let w0 := w64 (readNat s.mem base 8)
  let w1 := w64 (readNat s.mem (base + 8) 8)
  let start := aVa w0
  let len := (fld w1 0 48 : BitVec 48).toNat
  decide (i < s.fab.rtn) && fld w1 63 1 == (1 : BitVec 1) && aWin w0 == aWin p.addr &&
    (s.extent p).all fun e => decide (start ≤ e.1 ∧ e.1 + e.2 ≤ start + len)

/-- The token's expiry is not past (R540 step 2). -/
def State.tokenLive (s : State) (token : Word) : Bool :=
  decide (((fld token 0 20 : BitVec 20) - BitVec.ofNat 20 s.epoch).toNat < 2 ^ 19)

/-- The first check of R540 that a request fails, as the reason of its violation. -/
def State.tokenReason (s : State) (p : Packet) : Option Nat :=
  if (fld p.token 40 24 : BitVec 24) ≠ tokenMac s.fab.fkey p.token p.src s.dev then some 2
  else if !s.tokenLive p.token then some 3
  else if !p.token.getLsbD (tokenRight p.what) then some 4
  else if !s.inRegion p then some 5
  else none

/-! ## Replies -/

/-- A reply to the sender of a request, naming it by its tag (R533). -/
def State.reply (s : State) (p : Packet) (what : Nat) (f : Packet → Packet) : State :=
  s.send (f { blankPacket with
    what := what, dst := p.src, fdom := p.fdom, ep := p.ep, ctx := p.ctx, tag := p.tag, addr := p.addr, kind := 1 })

/-- A reply to every contributor of a request, a merged join having several, each by the tag of its own portion. -/
def State.replyAll (s : State) (p : Packet) (what : Nat) (f : Packet → Packet) : State :=
  if p.what = 2 then
    p.parties.foldl (fun (s : State) w => s.reply p what fun q => f { q with ep := w.ep, ctx := w.ctx, tag := w.tag, kind := 0 }) s
  else s.reply p what f

/-- REJ: a rejection with its cause and ktval (R551). -/
def State.reject (s : State) (p : Packet) (cause : Nat) (tval : Word) : State :=
  s.replyAll p 0x15 fun q => { q with code := cause, value := tval }

/-- NACK: a violation, counted in VIOL (R543). -/
def State.nack (s : State) (p : Packet) (reason : Nat) : State :=
  ({ s with fab := { s.fab with viol := inc32 s.fab.viol } } : State).replyAll p 0x16 fun q => { q with code := reason }

/-- TKT: the ticket of a request that misses translation here (R551). -/
def State.ticketReply (s : State) (p : Packet) (k : BitVec 2) (acc : BitVec 2) : State :=
  let cl := aVpn p.addr % 72
  let eps := if p.what = 2 then (p.parties.map (·.ep)).eraseDups else [p.ep]
  let r := eps.foldl (fun (r : Cluster × BitVec 16) e =>
    r.1.request cl s.dev (p.src, e) (aVpn p.addr) k (fld p.aux 0 16) 0 acc) (s.cluster cl, 0)
  (s.setCluster cl r.1).replyAll p 0x13 fun q => { q with code := r.2.toNat }

/-- The requester as a party. -/
def pkWho (p : Packet) : Party := ⟨p.src, p.ep, p.ctx, 0⟩
/-- The requester as a master (R541). -/
def pkMaster (p : Packet) : Master := ⟨p.src, p.ep, false⟩

/-- A request to a page: the checks of the gateway, translation, the access table under the right `need`, then `go` with the
entry and the line. -/
def State.serve (s : State) (p : Packet) (need : Need) (acc : BitVec 2) (go : State → Tlb → Nat → Option State) : Option State :=
  match s.tokenReason p with
  | some r => some (s.nack p r)
  | none =>
    match s.lookupL2 none p.addr with
    | .miss k => some (s.ticketReply p k acc)
    | .hit t =>
      let pa := t.pa p.addr
      if !s.admitted (pkMaster p) kHome (pa / 65536) (need.right t.cls) then some (s.nack p 6) else go s t (pa / 128)

/-- A packet carries a lattice access, which is cause 17 in every window (R94). -/
def latOnly (p : Packet) : Bool := !decide (p.what = 0x07 ∨ (p.what = 0x01 ∧ ¬ (p.kind = 1 ∨ p.kind = 3 ∨ p.kind = 6 ∨ p.kind = 7)))

/-- A request to a window: the checks of the gateway, the endpoint, the access table, then `go`. -/
def State.serveWin (s : State) (p : Packet) (right : Nat) (go : State → State) : State :=
  let tgt := aEp p.addr
  match s.tokenReason p with
  | some r => s.nack p r
  | none =>
    if 1036 < tgt then s.reject p (if latOnly p then 17 else 24) p.addr
    else if !s.admitted (pkMaster p) (winKind tgt) tgt right then s.nack p 6
    else go s

/-- An operation of a request for a press. -/
def pkOp (p : Packet) (t : Tlb) (line : Nat) (va : Word) (k : PressKind) : PressOp :=
  ⟨line, lineVa va, t.typ, t.vint, pkWho p, p.fdom, k, p.tag⟩

/-! ## Reads (R546) -/

/-- The first active byte of pieces in a window that a remote master may not reach: no core, outside the carve, or in a word that is not
synchronised (R528). -/
def State.plainWord (s : State) (tgt : Nat) (cs : List Chunk) (mask : BitVec 512) : Option Nat :=
  let on : Bool := isCompute tgt && s.coreOn tgt
  cs.findSome? fun c =>
    ((maskWords (aOff c.1) c.2.2 (chunkMask mask c)).find? fun w =>
      !on || !decide (w + 4 ≤ (s.core tgt).padSize) || !(s.core tgt).isSync w).map fun w => firstActive (aOff c.1) c.2.2 (chunkMask mask c) w

/-- A read of synchronised words (R274): empty ones are cause 16. -/
def State.readSync (s : State) (p : Packet) : State :=
  let tgt := aEp p.addr
  let c := s.core tgt
  if latOnly p then s.reject p 17 p.addr
  else
    match s.plainWord tgt (pkChunks p) p.mask with
    | some w => s.reject p 24 (winAddr s.dev tgt w)
    | none =>
      match (pkChunks p).findSome? fun k => c.emptyWord (aOff k.1) k.2.2 (chunkMask p.mask k) with
      | some w => s.reject p 16 (winAddr s.dev tgt w)
      | none =>
        let v := (pkChunks p).foldl (fun (v : Nat) k => v ||| readNat c.pad (aOff k.1) k.2.2 * 2 ^ (8 * k.2.1)) 0
        let s := match c.padErr.find? fun w => (pkChunks p).any fun k => overlap w 4 (aOff k.1) k.2.2 with
          | some w => (s.fresh).reportTo (pkWho p) p.fdom (mkRecord 36 p.ctx 0 (winAddr s.dev tgt w) s.dev 3 (w / 65536)
              (Config.freeSyndrome s.free) 0 true)
          | none => s
        s.reply p 0x11 fun q => { q with data := BitVec.ofNat 4096 v, mask := BitVec.allOnes 512 }

/-- RD: kinds 0 load, 1 XLD, 2 vector load or copy of any page, 3 exact, 4 gather, 5 copy of plain data, 6 exact gather,
7 exact copy. -/
def execPktRd (p : Packet) (s : State) : Res :=
  s.arrive p 0x01 fun s =>
    if aWin p.addr then some (s.serveWin p rRead fun s => s.readSync p)
    else s.serve p .read 0 fun s t line => some (
      if t.cls ≠ .lat ∨ p.kind = 5 ∨ ((p.kind = 4 ∨ p.kind = 6) ∧ t.width ≠ 2) then s.reject p 17 p.addr
      else if (p.kind = 1 ∨ p.kind = 7) ∧ p.addr.toNat % wBytes t.width ≠ 0 then s.reject p 4 p.addr
      else s.toPress (pkOp p t line p.addr (.read t.width p.tag t.cork)))

/-! ## Joins, folds and fills (R547) -/

/-- JN: kinds 0 store, 1 JOIN, 2 VST, 3 VJOIN, 4 scatter, 5 AMXJOIN, 7 plain copy, 8 joining copy, 9 merged joins, 10 rows of MCVTST.
The joins enter the target gateway, but for copies and the lanes of a scatter (R385, R548). A portion without an active whole element is
acknowledged at once. -/
def execPktJn (p : Packet) (s : State) : Res :=
  s.arrive p 0x02 fun s =>
    let plain := decide (p.kind = 0 ∨ p.kind = 2 ∨ p.kind = 4 ∨ p.kind = 7)
    if aWin p.addr then some (s.serveWin p (if plain then rWrite else rJoin) fun s => s.reject p 17 p.addr)
    else s.serve p (if plain then .write else .join) 1 fun s t line => some (
      if t.cls ≠ .lat then s.reject p 17 p.addr
      else
        match joinBytes p t with
        | .error c => s.reject p c p.addr
        | .ok js =>
          let op (j : BitVec 128 × BitVec 1024) : PressOp := pkOp p t line p.addr (.join t.width j.1 j.2 p.parties false)
          match js.filter fun j => j.1 ≠ 0 with
          | [] => s.ackAll (op (0, 0)) p.parties
          | [j] => if p.kind < 7 ∨ p.kind = 9 then s.toGate (op j) else s.toPress (op j)
          | js => js.foldl (fun (s : State) j => s.toPress (op j)) s)

/-- FD: kinds 0 FOLD.S, 1 FOLD.H, 2 VFOLD. -/
def execPktFd (p : Packet) (s : State) : Res :=
  s.arrive p 0x03 fun s =>
    if aWin p.addr then some (s.serveWin p rJoin fun s => s.reject p 17 p.addr)
    else s.serve p .join 1 fun s t line => some (
      if t.cls ≠ .lat ∨ ¬ ((t.typ = 12 ∧ p.kind ≠ 1) ∨ (t.typ = 13 ∧ p.kind ≠ 0)) then s.reject p 17 p.addr
      else if p.kind ≠ 2 ∧ p.addr.toNat % 4 ≠ 0 then s.reject p 6 p.addr
      else if p.recs = [] then s.ackLast (pkOp p t line p.addr .cork)
      else p.recs.foldl (fun (s : State) r =>
        let r : FoldRec := if t.typ = 13 then { r with value := widenBf16 r.value } else r
        s.toPress (pkOp p t line r.addr (.fold (r.addr.toNat % 128) r))) s)

/-- A fill of synchronised words: the whole block of VSTF, the pieces of the others bank by bank (R233, R275). -/
def State.fillSync (s : State) (p : Packet) : State :=
  let tgt := aEp p.addr
  let c := s.core tgt
  let ack (s : State) : State := s.reply p 0x18 id
  match s.plainWord tgt (pkChunks p) p.mask with
  | some w => s.reject p 24 (winAddr s.dev tgt w)
  | none =>
    if p.kind = 6 then
      match c.vstfBad (aOff p.addr) p.mask.toNat with
      | some (.partialWord w) => s.reject p 24 (winAddr s.dev tgt w)
      | some (.full w) => s.reject p 25 (winAddr s.dev tgt w)
      | none => ack (s.modCore tgt fun c => c.padWrite (aOff p.addr) 512 p.data.toNat p.mask.toNat)
    else
      match s.winPuts tgt false false ((pkChunks p).map fun k =>
          (aOff k.1, k.2.2, p.data.toNat / 2 ^ (8 * k.2.1) % 2 ^ (8 * k.2.2), chunkMask p.mask k)) with
      | .ok s => ack s
      | .bad w => s.reject p 24 (winAddr s.dev tgt w)
      | .full w => s.reject p 25 (winAddr s.dev tgt w)
      | .busy => s.reject p 24 p.addr

/-- FL: a store, VSTF, copy or CPFILL to synchronised words. To a page it is a class mismatch, and for VSTF cause 24 (R233). -/
def execPktFl (p : Packet) (s : State) : Res :=
  s.arrive p 0x07 fun s =>
    if aWin p.addr then some (s.serveWin p rWrite fun s => s.fillSync p)
    else s.serve p .write 1 fun s _ _ => some (s.reject p (if p.kind = 6 then 24 else 17) p.addr)

/-! ## Waits, releases and ranges (R549, R550) -/

/-- The form of a WT packet. -/
def waitForm (kind : Nat) : WaitForm :=
  match kind with
  | 0 => .ge | 1 => .has | 2 => .any | 3 => .full | 4 => .cork | _ => .acq

/-- WT: a WAIT or ACQ for the press. -/
def execPktWt (p : Packet) (s : State) : Res :=
  s.arrive p 0x04 fun s =>
    if aWin p.addr then some (s.serveWin p rWait fun s => s.reject p 17 p.addr)
    else s.serve p .wait 0 fun s t line => some (
      let form := waitForm p.kind
      if t.cls ≠ .lat ∨ ¬ waitAccepts form t.typ t.width then s.reject p 17 p.addr
      else if p.addr.toNat % wBytes t.width ≠ 0 then s.reject p 4 p.addr
      else
        match (if form = .any then compatPair t.typ t.width p.words else none) with
        | some k => s.reject p 18 (w64 k)
        | none => s.toPress (pkOp p t line p.addr (.wait (p.addr.toNat % 128) t.width form p.words p.value p.tag)))

/-- RL: a REL with its signature. -/
def execPktRl (p : Packet) (s : State) : Res :=
  s.arrive p 0x05 fun s =>
    if aWin p.addr then some (s.serveWin p rJoin fun s => s.reject p 17 p.addr)
    else s.serve p .join 1 fun s t line => some (
      if t.cls ≠ .lat ∨ ¬ (t.typ = 1 ∧ (t.width = 2 ∨ t.width = 3)) then s.reject p 17 p.addr
      else if p.addr.toNat % wBytes t.width ≠ 0 then s.reject p 6 p.addr
      else s.toPress (pkOp p t line p.addr (.rel (p.addr.toNat % 128) t.width p.value p.sig)))

/-- WD: the registration, queued wait or retry that the packet names is removed (R550). -/
def execPktWd (p : Packet) (s : State) : Res :=
  s.arrive p 0x08 fun s => some (
    match s.tokenReason p with
    | some r => s.nack p r
    | none =>
      let denied : Bool := match s.lookupL2 none p.addr with
        | .hit t => !s.admitted (pkMaster p) kHome (t.pa p.addr / 65536) rWait
        | .miss _ => false
      if denied then s.nack p 6
      else
        let mine (o : PressOp) : Bool := o.who == (pkWho p) && (match o.kind with | .wait _ _ _ _ _ id => id == p.tag | _ => false)
        let s := s.dropRegs fun r => r.who == (pkWho p) && r.id == p.tag
        { s with
          pressQ := s.pressQ.filter fun o => !mine o
          net := s.net.filter fun m => match m with
            | .retry _ o => !mine o
            | _ => true })

/-- A page portion of a RECYCLE of another device: its lines are corked or racked and its conversion is asked of the page's
cluster, or the packet waits (R375). -/
def State.recyclePage (s : State) (p : Packet) (t : Tlb) (pa lines : Nat) : Option State :=
  let cl := aVpn p.addr % 72
  let m := recycleWords t pa p.value
  let by_ : Party × Nat × Word := ((pkWho p), p.tag, p.value)
  match s.convert cl (p.src, p.ep) (aVpn p.addr) lines (fld p.aux 0 16) m.1 m.2 by_ with
  | none => none
  | some c =>
    let c := c.see p.src s.dev
    let k := (allSlots.find? fun k => c.slots[k].who = some by_).getD 0
    let code := ticketCode false cl k (c.slots[k]).gen
    let kind : PressKind := if t.typ = 12 ∨ t.typ = 13 then .rack else .cork
    let s := eachLine (fun (s : State) line va =>
      s.toPress ⟨line, lineVa va, t.typ, t.vint, ⟨s.dev, 2047, 0, 0⟩, 0, kind, 0⟩) (s.setCluster cl c) (pa / 128) p.addr lines
    some (s.reply p 0x13 fun q => { q with code := code.toNat, sat := true })

/-- The range of a CK packet, whose base and lines it carries, covers the large page of its address; the page's base (R102). -/
def coversLarge (p : Packet) : Bool × Nat :=
  let big := p.addr.toNat / 33554432 * 33554432
  let base := (p.words.headD 0).toNat
  (decide (base ≤ big ∧ big + 33554432 ≤ base + 128 * (p.words.getD 1 0).toNat), big)

/-- CK: kinds 0 CORK, 1 CORKW, 2 RACK, 3 BOTTLE, which is rejected (R528), 4 RECYCLE of 64 KiB of a range. Of a large page a RECYCLE converts the whole with the first
part, and acknowledges the others (log 75). -/
def execPktCk (p : Packet) (s : State) : Res :=
  s.arrive p 0x06 fun s =>
    if aWin p.addr then some (s.serveWin p rCork fun s => s.reject p 17 p.addr)
    else s.serve p .cork 3 fun s t line =>
      let fold := decide (t.typ = 12 ∨ t.typ = 13)
      if t.cls ≠ .lat ∨ p.kind = 3 ∨ (p.kind = 2 ∧ !fold) ∨ (p.kind < 2 ∧ fold) then some (s.reject p 17 p.addr)
      else if t.lg ∧ !(coversLarge p).1 then some (s.reject p 6 (w64 (coversLarge p).2))
      else if p.kind = 4 then
        if !t.lg then s.recyclePage p t (line * 128) 512
        else if p.addr.toNat ≠ (coversLarge p).2 then some (s.reply p 0x18 id)
        else if !s.inRegion { p with len := 33554432 } then some (s.nack p 5)
        else s.recyclePage p t (line * 128) 262144
      else
        some (eachLine (fun (s : State) l va => s.toPress (pkOp p t l va (if p.kind = 2 then .rack else .cork))) s line p.addr
          (p.len / 128))

/-! ## Replies at the source (R546 to R551) -/

/-- A reply that finds its access in the image of a pre-empted team, addressed to the place of its core (R553). -/
def State.imageOf (s : State) (p : Packet) : Packet :=
  let here (e : Nat) : Bool := (s.core e).accs.any fun a =>
    a.ctx.val == p.ctx && (a.stage == .remote || a.stage == .orphan) && a.age == p.tag
  if here p.ep then p
  else
    match s.images.findSome? fun i => (i.cores.find? fun c => c.1 == p.ep && here c.2).map (·.2) with
    | some e => { p with ep := e }
    | none => p

/-- The outstanding access that a reply names by its tag. -/
def State.named (s : State) (p : Packet) : Option Acc :=
  (s.core p.ep).accs.find? fun a =>
    a.ctx.val == p.ctx && (a.stage == .remote || a.stage == .orphan) && a.age == p.tag

/-- A reply acts on the access that it names; one that matches none is dropped (R532). Whatever answers an access whose context
has retired ends it, and nothing else. -/
def State.onReply (s : State) (p : Packet) (code : Nat) (f : State → Packet → Acc → State) : Res :=
  s.arrive p code fun s =>
    let q := s.imageOf p
    some (match s.named q with
    | some a => if a.stage = .orphan then s.dropAcc q.ep a.age else f s q a
    | none => s.dropPacket)

/-- The bytes of a read from another device are back: R99 is applied, and the destination is written when every portion of the
instruction is back. -/
def State.readBack (s : State) (ep : Nat) (a : Acc) (p : Packet) (win : Bool) : State :=
  let d : BitVec 1024 := fld p.data 0 1024
  let m : BitVec 128 := fld p.mask 0 128
  let back (b : Acc) : State :=
    (s.modCore ep fun c => { c with accs := c.accs.map fun x => if x.age = a.age then b else x }).settle ep a.grp
  match a.op with
  | .copy _ =>
    let o := a.va.toNat % 128
    if win then s.setStage ep a.age (.back p.data)
    else if maskRun 128 o a.len &&& ~~~m = 0 then s.setStage ep a.age (.back (BitVec.ofNat 4096 (lineVal d o a.len)))
    else s.failAcc ep a.age 16 a.va false
  | .inner =>
    let o := a.va.toNat % 128
    let v : BitVec 1024 := if win then BitVec.ofNat 1024 (p.data.toNat * 2 ^ (8 * o)) else d
    let k : BitVec 128 := if win then maskRun 128 o a.len else m
    if maskRun 128 o a.len &&& ~~~k = 0 then
      (s.modCore ep fun c => { c with accs := c.accs.map fun x =>
        if x.age = a.age then { x with stage := .back (v.zeroExtend 4096), mask := k.zeroExtend 512 } else x }).endReplay ep a.ctx a.age
    else s.failLate ep a 16 a.va
  | _ =>
    if win then back { a with stage := .back p.data }
    else
      let w := wBytes p.width
      let a := if a.op = .xld then { a with
          chunks := [(a.va, 0, w)], len := w, mask := maskRun 512 0 w
          dst := (match a.dst with
            | .x r _ _ => .x r w (p.typ = 2 || p.typ = 5)
            | k => k) }
        else { a with mask := effMask w a.chunks a.mask }
      if (lineForm a.chunks a.mask 0).1 &&& ~~~m = 0 then back { a with stage := .back (fromLine a.chunks d) }
      else s.failLate ep a 16 a.va

/-- RDR: read data with its readability mask. -/
def execPktRdr (p : Packet) (s : State) : Res :=
  s.onReply { p with kind := 1 } 0x11 fun s p a => s.readBack p.ep a p (aWin p.addr)

/-- ANS: the answer of a wait or ACQ goes to its context (R549, R550). -/
def execPktAns (p : Packet) (s : State) : Res :=
  s.onReply { p with kind := 1 } 0x12 fun s p a =>
    let id := a.wid
    let s := s.dropAcc p.ep a.age
    match a.op with
    | .wait .acq _ _ => s.post (.acqAns p.ep a.ctx id p.value (if p.sat then BitVec.allOnes 1024 else p.sig))
    | .wait .. => s.post (.waitAns p.ep a.ctx id p.value p.fdom)
    | _ => s

/-- TKT: the ticket is recorded in the reserved entry (R551). -/
def execPktTkt (p : Packet) (s : State) : Res :=
  s.onReply p 0x13 fun s p a =>
    s.modCore p.ep fun c => { c with accs := c.accs.map fun x =>
      if x.age = a.age then { x with
        stage := .ticket p.src (BitVec.ofNat 16 p.code)
        op := (match x.op, p.sat with
          | .range what target base total, true => .range (what + 16) target base total
          | o, _ => o) }
      else x }

/-- NTC: a replay notice for an endpoint, or for every unit that holds tickets (R551). -/
def execPktNtc (p : Packet) (s : State) : Res :=
  s.arrive p 0x14 fun s =>
    let eps := if p.ep = 2047 then s.holders else [p.ep]
    some (eps.foldl (fun (s : State) e =>
      s.post (.notice e p.src p.sat (BitVec.ofNat 16 p.code) (fld p.value 0 2) p.kind)) s)

/-- REJ: a rejection is a deferred trap of the issuing instruction (R75, R551). -/
def execPktRej (p : Packet) (s : State) : Res :=
  s.onReply p 0x15 fun s p a => s.failLate p.ep a (BitVec.ofNat 6 p.code) (if p.kind = 0 then a.va else p.value)

/-- NACK: the endpoint is frozen, with a record; its access is held (R543, R545). It answers an outstanding access or a withdrawal; any
other is dropped (R532). -/
def execPktNack (p : Packet) (s : State) : Res :=
  s.arrive p 0x16 fun s =>
    let q := s.imageOf p
    some (
    match s.named q with
    | some a =>
      let va := if p.kind = 0 then a.va else p.addr
      if q.ep = p.ep then s.denyAcc p.ep a va p.code
      -- the entry of a pre-empted team is held in its image (R553)
      else (s.setStage q.ep a.age a.frozenStage).freeze p.ep a.ctx va p.code []
    | none =>
      if s.fab.wds.contains (p.ep, p.ctx, p.tag) then
        ({ s with fab := { s.fab with wds := s.fab.wds.filter fun w => w ≠ (p.ep, p.ctx, p.tag) } } : State).freeze p.ep p.ctx p.addr p.code []
      else s.dropPacket)

/-- RPT: a report record for a context of this device (R547). -/
def execPktRpt (p : Packet) (s : State) : Res :=
  s.arrive p 0x17 fun s => some (s.post (.report p.ep p.ctx p.words))

/-- A FILL or FILLT line that a context has written on another device sets its signature bits, when the write is acknowledged
(R13, R549; log 114). -/
def State.signRemote (s : State) (ep : Nat) (a : Acc) (typ : BitVec 4) : State :=
  if a.op.need.right .lat = rJoin ∧ (typ = 9 ∨ typ = 10) then s.signLine ep a.ctx a.va else s

/-- ACK: a remote portion has been performed (R547). -/
def execPktAck (p : Packet) (s : State) : Res :=
  s.onReply p 0x18 fun s p a =>
    let s := s.signRemote p.ep a p.typ
    match a.op with
    | .copy _ => s.setStage p.ep a.age (.back 0)
    | .range what .. =>
      -- the instruction goes on at its next page (R102)
      let s := if what = 4 then s.endConvert p.ep a 4 else s
      ((s.dropAcc p.ep a.age).endReplay p.ep a.ctx a.age).settle p.ep a.grp
    | _ => (s.dropAcc p.ep a.age).settle p.ep a.grp

/-! ## Barriers and quiescence (R413, R552) -/

/-- A control packet acts on the level-4 domain that it names, where this device has it. -/
def State.onControl (s : State) (p : Packet) (code : Nat) (f : State → Domain → State) : Res :=
  s.arrive p code fun s => some (match s.domain 4 p.fdom with
    | some d => f s d
    | none => s)

/-- ARV: a device's arrival count reaches the coordinator; a count of 0 takes an arrival back (R392; log 68). -/
def execPktArv (p : Packet) (s : State) : Res :=
  s.onControl p 0x21 fun s d =>
    if d.coord ≠ s.dev then s
    -- one of an earlier phase crossed its release
    else if (p.kind == 1) ≠ d.phase then s
    else if p.value = 0 then s.unarrive d p.src
    else if d.arrived.any (fun a => a.1 == p.src) then s
    else s.setDomain { d with
      arrived := d.arrived ++ [(p.src, p.value.toNat)], overs := if p.aux = 0 then d.overs else d.overs ++ [p.src] }

/-- RLS: this device's members are released, or the domain is over (kind 1; log 105). Where a member has withdrawn its arrival
meanwhile, the release waits until it has arrived again (R392; log 68). -/
def execPktRls (p : Packet) (s : State) : Res :=
  s.onControl p 0x22 fun s d =>
    if p.kind = 1 then s.endDomain4 d else if s.arrived4 d then s.release1 d else s.setDomain { d with held4 := true }

/-- RCK: kinds 0 a request of the count, 1 a count, 2 rack, 3 discard, 4 a device's presses have finished; the answers carry the
number of the request (log 68). A device whose own member has withdrawn does not answer. -/
def execPktRck (p : Packet) (s : State) : Res :=
  s.onControl p 0x23 fun s d =>
    match p.kind with
    | 0 => if s.arrived4 d then s.control p.src 0x23 1 d (w64 d.count) p.aux else s
    | 1 =>
      if p.aux ≠ w64 d.tries ∨ d.step ≠ 1 ∨ d.counts.any fun c => c.1 == p.src then s
      else s.setDomain { d with counts := d.counts ++ [(p.src, p.value.toNat)] }
    | 2 => (s.endPhase d true p.value.toNat).control p.src 0x23 4 d 0 p.aux
    | 3 => (s.endPhase d false p.value.toNat).control p.src 0x23 4 d 0 p.aux
    | _ => if p.aux ≠ w64 d.tries ∨ d.step ≠ 2 ∨ d.finished.contains p.src then s else s.setDomain { d with finished := d.finished ++ [p.src] }

/-- PRB: a probe of a wave is answered with this device's idle state and totals, its waiting contexts and arms (log 129). -/
def execPktPrb (p : Packet) (s : State) : Res :=
  s.onControl p 0x24 fun s d =>
    let a := s.probeAnswer d
    s.send { blankPacket with
      what := 0x25, dst := p.src, fdom := d.dom, kind := p.kind, sat := a.2.1, value := w64 a.2.2.1, aux := w64 a.2.2.2.1
      code := a.2.2.2.2 }

/-- IDL: a device's answer to the probe at hand reaches the coordinator. -/
def execPktIdl (p : Packet) (s : State) : Res :=
  s.onControl p 0x25 fun s d =>
    if d.coord ≠ s.dev ∨ d.wave ≠ p.kind ∨ d.answers.any (fun a => a.1 == p.src) then s
    else s.setDomain { d with answers := d.answers ++ [(p.src, p.sat, p.value.toNat, p.aux.toNat, p.code)] }

/-- DCL: the domain is declared on this device (R408, R413), unless HWAKE has been set meanwhile (R409). -/
def execPktDcl (p : Packet) (s : State) : Res :=
  s.onControl p 0x26 fun s d => if d.hwake then s else s.declare d p.value.toNat (p.aux ≠ 0)

end Sys2Proof.Machine
end

