-- ==== Sys2Proof/Machine/Notices.lean ====
section
/-! DEFINITION.
Replay notices at the units that hold tickets (R359, R372). -/

namespace Sys2Proof.Machine

open Sys2Proof

/-- A notice of a device matches a ticket: an equal code, or for an all notice an equal cluster (R359). -/
def codeMatches (all : Bool) (code held : BitVec 16) : Bool :=
  if all then (fld code 8 7 : BitVec 7) == fld held 8 7 else code == held

/-- A notice acts on one entry of a core's ticket table (R372): status 0 replays it, 1 raises its page fault, 2 freezes the core
and keeps the entry. -/
def State.noticeAcc (s : State) (ep : Nat) (a : Acc) (status : BitVec 2) (reason : Nat) : State :=
  if status = 0 then s.replay ep a
  else if status = 1 then s.failLate ep a a.op.pageFault a.va
  else (s.setStage ep a.age a.frozenStage).freeze ep a.ctx a.va reason []

/-- The portion waits for the conversion of its page, whose ticket is never an unlisted one (R375). -/
def Acc.converts (a : Acc) : Bool :=
  match a.op with
  | .range what .. => what == 3 || what == 4 || what == 20
  | _ => false

/-- The entries of a core that match, in ascending age. An all notice leaves a conversion to its own notice, which TKPOST sends after
the press steps (R375; log 115). -/
def State.noticeCore (s : State) (ep : Nat) (tdev : BitVec 10) (all : Bool) (code : BitVec 16) (status : BitVec 2)
    (reason : Nat) : State :=
  let hit (a : Acc) : Bool := match a.stage with
    | .ticket t c => t == tdev && codeMatches all code c && !(all && a.converts)
    | _ => false
  (sortBy Acc.age ((s.core ep).accs.filter hit)).foldl (fun (s : State) a =>
    match s.findAcc ep a.age with
    | some b => if hit b then s.noticeAcc ep b status reason else s
    | none => s) s

/-- A memory core resumes, fails its access, or is frozen (R482). -/
def State.noticeMc (s : State) (mc : Nat) (all : Bool) (code : BitVec 16) (status : BitVec 2) (reason : Nat) : State :=
  let m := s.mc mc
  match m.miss with
  | some x =>
    if !(x.code.any fun c => codeMatches all code c) then s
    else if status = 2 then s.freeze mc 0 x.va reason []
    else s.setMc mc { m with miss := some { x with code := none, status := some status } }
  | none => s

/-- A distributor looks its page up again, or its access has failed (R429, R434). -/
def State.noticeDist (s : State) (d : Nat) (all : Bool) (code : BitVec 16) (status : BitVec 2) : State :=
  let x := s.dist d
  let hit (m : DistMiss) : Bool := m.code.any fun c => codeMatches all code c
  let left : List DistMiss :=
    if status = 0 then x.misses.filter fun m => !hit m
    else x.misses.map fun m => if hit m then { m with code := none, failed := true } else m
  s.setDist d { x with misses := left }

/-- The host port tries its waiting accesses again, or they fail (R513). -/
def State.noticeHost (s : State) (all : Bool) (code : BitVec 16) (status : BitVec 2) : State :=
  (s.hostAccs.filter fun a => a.code.any fun c => codeMatches all code c).foldl (fun (s : State) a =>
    if status = 0 then s.hostTry a else s.hostFail a) s

/-- REPLAY_NOTICE: a notice on its way reaches its endpoint; one that matches nothing is ignored. -/
def execReplayNotice (k : Nat) (s : State) : Res :=
  match s.net[k]? with
  | some (.notice ep tdev all code status reason) =>
    let s := s.take k
    .next (
      if isCompute ep ∨ isService ep then s.noticeCore ep tdev all code status reason
      else if tdev ≠ s.dev then s
      else if isMemCore ep then s.noticeMc ep all code status reason
      else if 1032 ≤ ep ∧ ep < 1036 then s.noticeDist (ep - 1032) all code status
      else if ep = 1036 then s.noticeHost all code status
      else s)
  | _ => .next s

end Sys2Proof.Machine
end

