-- ==== Sys2Proof/Machine/Dispatch.lean ====
section
/-! DEFINITION. Dispatch: one arm per constructor, each one direct call of its meaning. -/
namespace Sys2Proof.Machine

def exec (i : Instr) (s : State) : Host.Outcome State Fault Refusal :=
  match i with
  | .lui rd imm => Sys2Proof.Machine.execLui rd imm s
  | .auipc rd imm => Sys2Proof.Machine.execAuipc rd imm s
  | .addi rd rs1 imm => Sys2Proof.Machine.execAddi rd rs1 imm s
  | .slti rd rs1 imm => Sys2Proof.Machine.execSlti rd rs1 imm s
  | .sltiu rd rs1 imm => Sys2Proof.Machine.execSltiu rd rs1 imm s
  | .xori rd rs1 imm => Sys2Proof.Machine.execXori rd rs1 imm s
  | .ori rd rs1 imm => Sys2Proof.Machine.execOri rd rs1 imm s
  | .andi rd rs1 imm => Sys2Proof.Machine.execAndi rd rs1 imm s
  | .slli rd rs1 sh => Sys2Proof.Machine.execSlli rd rs1 sh s
  | .srli rd rs1 sh => Sys2Proof.Machine.execSrli rd rs1 sh s
  | .srai rd rs1 sh => Sys2Proof.Machine.execSrai rd rs1 sh s
  | .addiw rd rs1 imm => Sys2Proof.Machine.execAddiw rd rs1 imm s
  | .slliw rd rs1 sh => Sys2Proof.Machine.execSlliw rd rs1 sh s
  | .srliw rd rs1 sh => Sys2Proof.Machine.execSrliw rd rs1 sh s
  | .sraiw rd rs1 sh => Sys2Proof.Machine.execSraiw rd rs1 sh s
  | .add rd rs1 rs2 => Sys2Proof.Machine.execAdd rd rs1 rs2 s
  | .sub rd rs1 rs2 => Sys2Proof.Machine.execSub rd rs1 rs2 s
  | .sll rd rs1 rs2 => Sys2Proof.Machine.execSll rd rs1 rs2 s
  | .slt rd rs1 rs2 => Sys2Proof.Machine.execSlt rd rs1 rs2 s
  | .sltu rd rs1 rs2 => Sys2Proof.Machine.execSltu rd rs1 rs2 s
  | .xorR rd rs1 rs2 => Sys2Proof.Machine.execXorR rd rs1 rs2 s
  | .srl rd rs1 rs2 => Sys2Proof.Machine.execSrl rd rs1 rs2 s
  | .sra rd rs1 rs2 => Sys2Proof.Machine.execSra rd rs1 rs2 s
  | .orR rd rs1 rs2 => Sys2Proof.Machine.execOrR rd rs1 rs2 s
  | .andR rd rs1 rs2 => Sys2Proof.Machine.execAndR rd rs1 rs2 s
  | .addw rd rs1 rs2 => Sys2Proof.Machine.execAddw rd rs1 rs2 s
  | .subw rd rs1 rs2 => Sys2Proof.Machine.execSubw rd rs1 rs2 s
  | .sllw rd rs1 rs2 => Sys2Proof.Machine.execSllw rd rs1 rs2 s
  | .srlw rd rs1 rs2 => Sys2Proof.Machine.execSrlw rd rs1 rs2 s
  | .sraw rd rs1 rs2 => Sys2Proof.Machine.execSraw rd rs1 rs2 s
  | .mul rd rs1 rs2 => Sys2Proof.Machine.execMul rd rs1 rs2 s
  | .mulh rd rs1 rs2 => Sys2Proof.Machine.execMulh rd rs1 rs2 s
  | .mulhsu rd rs1 rs2 => Sys2Proof.Machine.execMulhsu rd rs1 rs2 s
  | .mulhu rd rs1 rs2 => Sys2Proof.Machine.execMulhu rd rs1 rs2 s
  | .div rd rs1 rs2 => Sys2Proof.Machine.execDiv rd rs1 rs2 s
  | .divu rd rs1 rs2 => Sys2Proof.Machine.execDivu rd rs1 rs2 s
  | .rem rd rs1 rs2 => Sys2Proof.Machine.execRem rd rs1 rs2 s
  | .remu rd rs1 rs2 => Sys2Proof.Machine.execRemu rd rs1 rs2 s
  | .mulw rd rs1 rs2 => Sys2Proof.Machine.execMulw rd rs1 rs2 s
  | .divw rd rs1 rs2 => Sys2Proof.Machine.execDivw rd rs1 rs2 s
  | .divuw rd rs1 rs2 => Sys2Proof.Machine.execDivuw rd rs1 rs2 s
  | .remw rd rs1 rs2 => Sys2Proof.Machine.execRemw rd rs1 rs2 s
  | .remuw rd rs1 rs2 => Sys2Proof.Machine.execRemuw rd rs1 rs2 s
  | .jal rd off => Sys2Proof.Machine.execJal rd off s
  | .jalr rd rs1 imm => Sys2Proof.Machine.execJalr rd rs1 imm s
  | .beq rs1 rs2 off => Sys2Proof.Machine.execBeq rs1 rs2 off s
  | .bne rs1 rs2 off => Sys2Proof.Machine.execBne rs1 rs2 off s
  | .blt rs1 rs2 off => Sys2Proof.Machine.execBlt rs1 rs2 off s
  | .bge rs1 rs2 off => Sys2Proof.Machine.execBge rs1 rs2 off s
  | .bltu rs1 rs2 off => Sys2Proof.Machine.execBltu rs1 rs2 off s
  | .bgeu rs1 rs2 off => Sys2Proof.Machine.execBgeu rs1 rs2 off s
  | .lb rd rs1 imm => Sys2Proof.Machine.execLb rd rs1 imm s
  | .lh rd rs1 imm => Sys2Proof.Machine.execLh rd rs1 imm s
  | .lw rd rs1 imm => Sys2Proof.Machine.execLw rd rs1 imm s
  | .ld rd rs1 imm => Sys2Proof.Machine.execLd rd rs1 imm s
  | .lbu rd rs1 imm => Sys2Proof.Machine.execLbu rd rs1 imm s
  | .lhu rd rs1 imm => Sys2Proof.Machine.execLhu rd rs1 imm s
  | .lwu rd rs1 imm => Sys2Proof.Machine.execLwu rd rs1 imm s
  | .sb rs1 rs2 imm => Sys2Proof.Machine.execSb rs1 rs2 imm s
  | .sh rs1 rs2 imm => Sys2Proof.Machine.execSh rs1 rs2 imm s
  | .sw rs1 rs2 imm => Sys2Proof.Machine.execSw rs1 rs2 imm s
  | .sd rs1 rs2 imm => Sys2Proof.Machine.execSd rs1 rs2 imm s
  | .flw rd rs1 imm => Sys2Proof.Machine.execFlw rd rs1 imm s
  | .fsw rs1 rs2 imm => Sys2Proof.Machine.execFsw rs1 rs2 imm s
  | .fence pred succ => Sys2Proof.Machine.execFence pred succ s
  | .fenceTso => Sys2Proof.Machine.execFenceTso s
  | .fenceI => Sys2Proof.Machine.execFenceI s
  | .ecall => Sys2Proof.Machine.execEcall s
  | .ebreak => Sys2Proof.Machine.execEbreak s
  | .kret => Sys2Proof.Machine.execKret s
  | .csrrw rd rs1 csr => Sys2Proof.Machine.execCsrrw rd rs1 csr s
  | .csrrs rd rs1 csr => Sys2Proof.Machine.execCsrrs rd rs1 csr s
  | .csrrc rd rs1 csr => Sys2Proof.Machine.execCsrrc rd rs1 csr s
  | .csrrwi rd uimm csr => Sys2Proof.Machine.execCsrrwi rd uimm csr s
  | .csrrsi rd uimm csr => Sys2Proof.Machine.execCsrrsi rd uimm csr s
  | .csrrci rd uimm csr => Sys2Proof.Machine.execCsrrci rd uimm csr s
  | .csrWrite csr v => Sys2Proof.Machine.execCsrWrite csr v s
  | .kvstatRead rd => Sys2Proof.Machine.execKvstatRead rd s
  | .fmaddS rd rs1 rs2 rs3 rm => Sys2Proof.Machine.execFmaddS rd rs1 rs2 rs3 rm s
  | .fmsubS rd rs1 rs2 rs3 rm => Sys2Proof.Machine.execFmsubS rd rs1 rs2 rs3 rm s
  | .fnmsubS rd rs1 rs2 rs3 rm => Sys2Proof.Machine.execFnmsubS rd rs1 rs2 rs3 rm s
  | .fnmaddS rd rs1 rs2 rs3 rm => Sys2Proof.Machine.execFnmaddS rd rs1 rs2 rs3 rm s
  | .faddS rd rs1 rs2 rm => Sys2Proof.Machine.execFaddS rd rs1 rs2 rm s
  | .fsubS rd rs1 rs2 rm => Sys2Proof.Machine.execFsubS rd rs1 rs2 rm s
  | .fmulS rd rs1 rs2 rm => Sys2Proof.Machine.execFmulS rd rs1 rs2 rm s
  | .fdivS rd rs1 rs2 rm => Sys2Proof.Machine.execFdivS rd rs1 rs2 rm s
  | .fsqrtS rd rs1 rm => Sys2Proof.Machine.execFsqrtS rd rs1 rm s
  | .fsgnjS rd rs1 rs2 => Sys2Proof.Machine.execFsgnjS rd rs1 rs2 s
  | .fsgnjnS rd rs1 rs2 => Sys2Proof.Machine.execFsgnjnS rd rs1 rs2 s
  | .fsgnjxS rd rs1 rs2 => Sys2Proof.Machine.execFsgnjxS rd rs1 rs2 s
  | .fminS rd rs1 rs2 => Sys2Proof.Machine.execFminS rd rs1 rs2 s
  | .fmaxS rd rs1 rs2 => Sys2Proof.Machine.execFmaxS rd rs1 rs2 s
  | .fcvtWS rd rs1 rm => Sys2Proof.Machine.execFcvtWS rd rs1 rm s
  | .fcvtWuS rd rs1 rm => Sys2Proof.Machine.execFcvtWuS rd rs1 rm s
  | .fcvtLS rd rs1 rm => Sys2Proof.Machine.execFcvtLS rd rs1 rm s
  | .fcvtLuS rd rs1 rm => Sys2Proof.Machine.execFcvtLuS rd rs1 rm s
  | .fcvtSW rd rs1 rm => Sys2Proof.Machine.execFcvtSW rd rs1 rm s
  | .fcvtSWu rd rs1 rm => Sys2Proof.Machine.execFcvtSWu rd rs1 rm s
  | .fcvtSL rd rs1 rm => Sys2Proof.Machine.execFcvtSL rd rs1 rm s
  | .fcvtSLu rd rs1 rm => Sys2Proof.Machine.execFcvtSLu rd rs1 rm s
  | .fmvXW rd rs1 => Sys2Proof.Machine.execFmvXW rd rs1 s
  | .fclassS rd rs1 => Sys2Proof.Machine.execFclassS rd rs1 s
  | .feqS rd rs1 rs2 => Sys2Proof.Machine.execFeqS rd rs1 rs2 s
  | .fltS rd rs1 rs2 => Sys2Proof.Machine.execFltS rd rs1 rs2 s
  | .fleS rd rs1 rs2 => Sys2Proof.Machine.execFleS rd rs1 rs2 s
  | .fmvWX rd rs1 => Sys2Proof.Machine.execFmvWX rd rs1 s
  | .hstart rd rs1 rs2 => Sys2Proof.Machine.execHstart rd rs1 rs2 s
  | .hexit rs1 => Sys2Proof.Machine.execHexit rs1 s
  | .hexitComplete ep ctx => Sys2Proof.Machine.execHexitComplete ep ctx s
  | .hwait rd rs1 => Sys2Proof.Machine.execHwait rd rs1 s
  | .carve rd rs1 rs2 => Sys2Proof.Machine.execCarve rd rs1 rs2 s
  | .carveReconfigure ep => Sys2Proof.Machine.execCarveReconfigure ep s
  | .gang rd => Sys2Proof.Machine.execGang rd s
  | .split rd => Sys2Proof.Machine.execSplit rd s
  | .gangRendezvous ep => Sys2Proof.Machine.execGangRendezvous ep s
  | .lpad label => Sys2Proof.Machine.execLpad label s
  | .jt rd rs1 tb => Sys2Proof.Machine.execJt rd rs1 tb s
  | .fenceS sc rel acq scope => Sys2Proof.Machine.execFenceS sc rel acq scope s
  | .bar lvl => Sys2Proof.Machine.execBar lvl s
  | .send rs1 rs2 => Sys2Proof.Machine.execSend rs1 rs2 s
  | .tsend rs1 rs2 => Sys2Proof.Machine.execTsend rs1 rs2 s
  | .tsendSlotSend ep ctx => Sys2Proof.Machine.execTsendSlotSend ep ctx s
  | .qarm rs1 rs2 => Sys2Proof.Machine.execQarm rs1 rs2 s
  | .qretire rs1 => Sys2Proof.Machine.execQretire rs1 s
  | .taskq rs1 => Sys2Proof.Machine.execTaskq rs1 s
  | .taskput rs1 rs2 => Sys2Proof.Machine.execTaskput rs1 rs2 s
  | .taskend => Sys2Proof.Machine.execTaskend s
  | .lease rd rs1 rs2 => Sys2Proof.Machine.execLease rd rs1 rs2 s
  | .renew rd rs1 rs2 => Sys2Proof.Machine.execRenew rd rs1 rs2 s
  | .unlease rs1 => Sys2Proof.Machine.execUnlease rs1 s
  | .mcall rd rs1 rs2 => Sys2Proof.Machine.execMcall rd rs1 rs2 s
  | .tlbw rd rs1 => Sys2Proof.Machine.execTlbw rd rs1 s
  | .tlbinv rd rs1 rs2 => Sys2Proof.Machine.execTlbinv rd rs1 rs2 s
  | .replayall => Sys2Proof.Machine.execReplayall s
  | .tkpost rs1 rs2 => Sys2Proof.Machine.execTkpost rs1 rs2 s
  | .flushctx rd rs1 => Sys2Proof.Machine.execFlushctx rd rs1 s
  | .rhold rd rs1 rs2 => Sys2Proof.Machine.execRhold rd rs1 rs2 s
  | .rprio rs1 rs2 => Sys2Proof.Machine.execRprio rs1 rs2 s
  | .rdrop rs1 => Sys2Proof.Machine.execRdrop rs1 s
  | .join rs1 rs2 => Sys2Proof.Machine.execJoin rs1 rs2 s
  | .xld rd rs1 => Sys2Proof.Machine.execXld rd rs1 s
  | .joinm rs1 rs2 => Sys2Proof.Machine.execJoinm rs1 rs2 s
  | .cork rs1 rs2 => Sys2Proof.Machine.execCork rs1 rs2 s
  | .corkw rs1 rs2 => Sys2Proof.Machine.execCorkw rs1 rs2 s
  | .bottle rs1 rs2 => Sys2Proof.Machine.execBottle rs1 rs2 s
  | .rel rs1 rs2 => Sys2Proof.Machine.execRel rs1 rs2 s
  | .relSend ep ctx => Sys2Proof.Machine.execRelSend ep ctx s
  | .rack rs1 rs2 => Sys2Proof.Machine.execRack rs1 rs2 s
  | .acq rd rs1 rs2 rs3 => Sys2Proof.Machine.execAcq rd rs1 rs2 rs3 s
  | .foldS rs1 rs2 rs3 lvl => Sys2Proof.Machine.execFoldS rs1 rs2 rs3 lvl s
  | .recycle rs1 rs2 rs3 => Sys2Proof.Machine.execRecycle rs1 rs2 rs3 s
  | .foldH rs1 rs2 rs3 lvl => Sys2Proof.Machine.execFoldH rs1 rs2 rs3 lvl s
  | .waitGe rd rs1 rs2 => Sys2Proof.Machine.execWaitGe rd rs1 rs2 s
  | .waitHas rd rs1 rs2 => Sys2Proof.Machine.execWaitHas rd rs1 rs2 s
  | .waitAny rd rs1 rs2 => Sys2Proof.Machine.execWaitAny rd rs1 rs2 s
  | .waitFull rd rs1 => Sys2Proof.Machine.execWaitFull rd rs1 s
  | .waitCork rd rs1 => Sys2Proof.Machine.execWaitCork rd rs1 s
  | .waitAnswer k => Sys2Proof.Machine.execWaitAnswer k s
  | .acqAnswer k => Sys2Proof.Machine.execAcqAnswer k s
  | .corkAck ep ctx => Sys2Proof.Machine.execCorkAck ep ctx s
  | .rackComplete ep ctx => Sys2Proof.Machine.execRackComplete ep ctx s
  | .vadd bc t rd rs1 rs2 => Sys2Proof.Machine.execVadd bc t rd rs1 rs2 s
  | .vsub bc t rd rs1 rs2 => Sys2Proof.Machine.execVsub bc t rd rs1 rs2 s
  | .vmul bc t rd rs1 rs2 => Sys2Proof.Machine.execVmul bc t rd rs1 rs2 s
  | .vfma bc t rd rs1 rs2 => Sys2Proof.Machine.execVfma bc t rd rs1 rs2 s
  | .vmax bc t rd rs1 rs2 => Sys2Proof.Machine.execVmax bc t rd rs1 rs2 s
  | .vmin bc t rd rs1 rs2 => Sys2Proof.Machine.execVmin bc t rd rs1 rs2 s
  | .vabs t rd rs1 => Sys2Proof.Machine.execVabs t rd rs1 s
  | .vneg t rd rs1 => Sys2Proof.Machine.execVneg t rd rs1 s
  | .vexp2 t rd rs1 => Sys2Proof.Machine.execVexp2 t rd rs1 s
  | .vrcp t rd rs1 => Sys2Proof.Machine.execVrcp t rd rs1 s
  | .vrsq t rd rs1 => Sys2Proof.Machine.execVrsq t rd rs1 s
  | .vlog2 t rd rs1 => Sys2Proof.Machine.execVlog2 t rd rs1 s
  | .vand bc t rd rs1 rs2 => Sys2Proof.Machine.execVand bc t rd rs1 rs2 s
  | .vor bc t rd rs1 rs2 => Sys2Proof.Machine.execVor bc t rd rs1 rs2 s
  | .vxor bc t rd rs1 rs2 => Sys2Proof.Machine.execVxor bc t rd rs1 rs2 s
  | .vshl bc t rd rs1 rs2 => Sys2Proof.Machine.execVshl bc t rd rs1 rs2 s
  | .vshra bc t rd rs1 rs2 => Sys2Proof.Machine.execVshra bc t rd rs1 rs2 s
  | .vshrl bc t rd rs1 rs2 => Sys2Proof.Machine.execVshrl bc t rd rs1 rs2 s
  | .vcmplt bc t rd rs1 rs2 => Sys2Proof.Machine.execVcmplt bc t rd rs1 rs2 s
  | .vcmpeq bc t rd rs1 rs2 => Sys2Proof.Machine.execVcmpeq bc t rd rs1 rs2 s
  | .vsel bc t rd rs1 rs2 => Sys2Proof.Machine.execVsel bc t rd rs1 rs2 s
  | .vredsum t rd rs1 => Sys2Proof.Machine.execVredsum t rd rs1 s
  | .vredmax t rd rs1 => Sys2Proof.Machine.execVredmax t rd rs1 s
  | .vcvt bc t rd rs1 fmt => Sys2Proof.Machine.execVcvt bc t rd rs1 fmt s
  | .vbcast bc t rd rs1 rs2 => Sys2Proof.Machine.execVbcast bc t rd rs1 rs2 s
  | .vperm t rd rs1 rs2 => Sys2Proof.Machine.execVperm t rd rs1 rs2 s
  | .vamax t rs1 => Sys2Proof.Machine.execVamax t rs1 s
  | .vmovm t rd rs1 subop => Sys2Proof.Machine.execVmovm t rd rs1 subop s
  | .vslide t rd rs1 rs2 => Sys2Proof.Machine.execVslide t rd rs1 rs2 s
  | .vtrn t rd rs1 rs2 => Sys2Proof.Machine.execVtrn t rd rs1 rs2 s
  | .vld rd rs1 => Sys2Proof.Machine.execVld rd rs1 s
  | .vst rd rs1 => Sys2Proof.Machine.execVst rd rs1 s
  | .vlds rd rs1 rs2 => Sys2Proof.Machine.execVlds rd rs1 rs2 s
  | .vsts rd rs1 rs2 => Sys2Proof.Machine.execVsts rd rs1 rs2 s
  | .vldx rd rs1 rs2 => Sys2Proof.Machine.execVldx rd rs1 rs2 s
  | .vstx rd rs1 rs2 => Sys2Proof.Machine.execVstx rd rs1 rs2 s
  | .vxld rd rs1 => Sys2Proof.Machine.execVxld rd rs1 s
  | .vjoin rd rs1 => Sys2Proof.Machine.execVjoin rd rs1 s
  | .sbind rd rs1 rs2 => Sys2Proof.Machine.execSbind rd rs1 rs2 s
  | .sunbind rd => Sys2Proof.Machine.execSunbind rd s
  | .vldf rd rs1 => Sys2Proof.Machine.execVldf rd rs1 s
  | .vstf rd rs1 => Sys2Proof.Machine.execVstf rd rs1 s
  | .vfold rd rs1 rs2 => Sys2Proof.Machine.execVfold rd rs1 rs2 s
  | .mma zd acc tb ta pair rs1 rs2 rs3 => Sys2Proof.Machine.execMma zd acc tb ta pair rs1 rs2 rs3 s
  | .mmas zd acc tb pair rs1 rs2 rs3 => Sys2Proof.Machine.execMmas zd acc tb pair rs1 rs2 rs3 s
  | .mzero rd => Sys2Proof.Machine.execMzero rd s
  | .mcvtst rd rs1 rs2 => Sys2Proof.Machine.execMcvtst rd rs1 rs2 s
  | .cnld rs1 rs2 => Sys2Proof.Machine.execCnld rs1 rs2 s
  | .msend rs1 rs2 => Sys2Proof.Machine.execMsend rs1 rs2 s
  | .mpop rd => Sys2Proof.Machine.execMpop rd s
  | .amxrd rd rs1 => Sys2Proof.Machine.execAmxrd rd rs1 s
  | .amxclr rs1 => Sys2Proof.Machine.execAmxclr rs1 s
  | .amxjoin rs1 rs2 => Sys2Proof.Machine.execAmxjoin rs1 rs2 s
  | .mrd rd rs1 rs2 => Sys2Proof.Machine.execMrd rd rs1 rs2 s
  | .mwr rd rs1 rs2 => Sys2Proof.Machine.execMwr rd rs1 rs2 s
  | .engineCommandStart ep => Sys2Proof.Machine.execEngineCommandStart ep s
  | .engineCommandComplete ep => Sys2Proof.Machine.execEngineCommandComplete ep s
  | .msendArrival k => Sys2Proof.Machine.execMsendArrival k s
  | .ckAxpy rd rs1 rs2 => Sys2Proof.Machine.execCkAxpy rd rs1 rs2 s
  | .ckScal rd rs1 rs2 => Sys2Proof.Machine.execCkScal rd rs1 rs2 s
  | .ckDot rs1 rs2 => Sys2Proof.Machine.execCkDot rs1 rs2 s
  | .ckMax rs1 rs2 => Sys2Proof.Machine.execCkMax rs1 rs2 s
  | .ckSmx rd rs1 rs2 => Sys2Proof.Machine.execCkSmx rd rs1 rs2 s
  | .ckAmax rs1 rs2 => Sys2Proof.Machine.execCkAmax rs1 rs2 s
  | .ckCvt rd rs1 rs2 => Sys2Proof.Machine.execCkCvt rd rs1 rs2 s
  | .ckFill rd rs1 rs2 => Sys2Proof.Machine.execCkFill rd rs1 rs2 s
  | .ckEmpty rs1 rs2 => Sys2Proof.Machine.execCkEmpty rs1 rs2 s
  | .ckSum rs1 rs2 => Sys2Proof.Machine.execCkSum rs1 rs2 s
  | .caskPartExecute ep k => Sys2Proof.Machine.execCaskPartExecute ep k s
  | .remoteCaskArrival k => Sys2Proof.Machine.execRemoteCaskArrival k s
  | .cp rd rs1 rs2 rs3 => Sys2Proof.Machine.execCp rd rs1 rs2 rs3 s
  | .cpx rd rs1 rs2 rs3 => Sys2Proof.Machine.execCpx rd rs1 rs2 rs3 s
  | .cpj rd rs1 rs2 rs3 => Sys2Proof.Machine.execCpj rd rs1 rs2 rs3 s
  | .cpfill rd rs1 rs2 rs3 => Sys2Proof.Machine.execCpfill rd rs1 rs2 rs3 s
  | .copyPortion ep => Sys2Proof.Machine.execCopyPortion ep s
  | .copyComplete ep => Sys2Proof.Machine.execCopyComplete ep s
  | .emptyWordReadWake ep ctx => Sys2Proof.Machine.execEmptyWordReadWake ep ctx s
  | .combiningBufferLeave ep k => Sys2Proof.Machine.execCombiningBufferLeave ep k s
  | .deferredTrap ep ctx => Sys2Proof.Machine.execDeferredTrap ep ctx s
  | .reportPost k => Sys2Proof.Machine.execReportPost k s
  | .reportDelivery ep ctx => Sys2Proof.Machine.execReportDelivery ep ctx s
  | .rtailWrite ep ctx v => Sys2Proof.Machine.execRtailWrite ep ctx v s
  | .faultBufferRequest k => Sys2Proof.Machine.execFaultBufferRequest k s
  | .kfbmsgRead rd => Sys2Proof.Machine.execKfbmsgRead rd s
  | .replayNotice k => Sys2Proof.Machine.execReplayNotice k s
  | .flushAck ep => Sys2Proof.Machine.execFlushAck ep s
  | .clusterBarrierRelease k => Sys2Proof.Machine.execClusterBarrierRelease k s
  | .barrierRelease k => Sys2Proof.Machine.execBarrierRelease k s
  | .channelRoomFreed ep ch => Sys2Proof.Machine.execChannelRoomFreed ep ch s
  | .timedArrival k => Sys2Proof.Machine.execTimedArrival k s
  | .routerCombineLeave k => Sys2Proof.Machine.execRouterCombineLeave k s
  | .notificationWindow => Sys2Proof.Machine.execNotificationWindow s
  | .detectorSample => Sys2Proof.Machine.execDetectorSample s
  | .quiescenceProbe dom => Sys2Proof.Machine.execQuiescenceProbe dom s
  | .probeRestart dom => Sys2Proof.Machine.execProbeRestart dom s
  | .taskRecordDecode dist k => Sys2Proof.Machine.execTaskRecordDecode dist k s
  | .headLatenessCheck dist q => Sys2Proof.Machine.execHeadLatenessCheck dist q s
  | .distributorSelect dist => Sys2Proof.Machine.execDistributorSelect dist s
  | .dispatch dist => Sys2Proof.Machine.execDispatch dist s
  | .teamCompletion ep => Sys2Proof.Machine.execTeamCompletion ep s
  | .taskqAnswer dist k => Sys2Proof.Machine.execTaskqAnswer dist k s
  | .balancerTick => Sys2Proof.Machine.execBalancerTick s
  | .migrationCommand k => Sys2Proof.Machine.execMigrationCommand k s
  | .preempt ep => Sys2Proof.Machine.execPreempt ep s
  | .resume dist target => Sys2Proof.Machine.execResume dist target s
  | .pressJoin k => Sys2Proof.Machine.execPressJoin k s
  | .pressExactRead k => Sys2Proof.Machine.execPressExactRead k s
  | .pressWaitRegister k => Sys2Proof.Machine.execPressWaitRegister k s
  | .pressWaitRetry k => Sys2Proof.Machine.execPressWaitRetry k s
  | .pressRel k => Sys2Proof.Machine.execPressRel k s
  | .pressCork k => Sys2Proof.Machine.execPressCork k s
  | .pressFoldAppend k => Sys2Proof.Machine.execPressFoldAppend k s
  | .leaseCountTick => Sys2Proof.Machine.execLeaseCountTick s
  | .leaseLapse mc => Sys2Proof.Machine.execLeaseLapse mc s
  | .mcDrainComplete mc => Sys2Proof.Machine.execMcDrainComplete mc s
  | .mcCallStart mc => Sys2Proof.Machine.execMcCallStart mc s
  | .mcallToken mc => Sys2Proof.Machine.execMcallToken mc s
  | .mcBundle mc => Sys2Proof.Machine.execMcBundle mc s
  | .mcAdd mc v => Sys2Proof.Machine.execMcAdd mc v s
  | .mcSub mc v => Sys2Proof.Machine.execMcSub mc v s
  | .mcAnd mc v => Sys2Proof.Machine.execMcAnd mc v s
  | .mcOr mc v => Sys2Proof.Machine.execMcOr mc v s
  | .mcXor mc v => Sys2Proof.Machine.execMcXor mc v s
  | .mcShl mc v => Sys2Proof.Machine.execMcShl mc v s
  | .mcShr mc v => Sys2Proof.Machine.execMcShr mc v s
  | .mcSra mc v => Sys2Proof.Machine.execMcSra mc v s
  | .mcMul mc v => Sys2Proof.Machine.execMcMul mc v s
  | .mcLtu mc v => Sys2Proof.Machine.execMcLtu mc v s
  | .mcLt mc v => Sys2Proof.Machine.execMcLt mc v s
  | .mcEq mc v => Sys2Proof.Machine.execMcEq mc v s
  | .mcMinu mc v => Sys2Proof.Machine.execMcMinu mc v s
  | .mcMaxu mc v => Sys2Proof.Machine.execMcMaxu mc v s
  | .mcInc mc v => Sys2Proof.Machine.execMcInc mc v s
  | .mcDec mc v => Sys2Proof.Machine.execMcDec mc v s
  | .mcNot mc v => Sys2Proof.Machine.execMcNot mc v s
  | .mcNeg mc v => Sys2Proof.Machine.execMcNeg mc v s
  | .mcLd mc v => Sys2Proof.Machine.execMcLd mc v s
  | .mcLwz mc v => Sys2Proof.Machine.execMcLwz mc v s
  | .mcSt mc v => Sys2Proof.Machine.execMcSt mc v s
  | .mcSw4 mc v => Sys2Proof.Machine.execMcSw4 mc v s
  | .mcLld mc v => Sys2Proof.Machine.execMcLld mc v s
  | .mcLst mc v => Sys2Proof.Machine.execMcLst mc v s
  | .mcLjoin mc v => Sys2Proof.Machine.execMcLjoin mc v s
  | .mcPw mc v => Sys2Proof.Machine.execMcPw mc v s
  | .mcPc mc v => Sys2Proof.Machine.execMcPc mc v s
  | .mcBput mc v => Sys2Proof.Machine.execMcBput mc v s
  | .mcBget mc => Sys2Proof.Machine.execMcBget mc s
  | .mcJmp mc v => Sys2Proof.Machine.execMcJmp mc v s
  | .mcDone mc v => Sys2Proof.Machine.execMcDone mc v s
  | .mcFence mc => Sys2Proof.Machine.execMcFence mc s
  | .mcPushArrival k => Sys2Proof.Machine.execMcPushArrival k s
  | .unitMark unit logic => Sys2Proof.Machine.execUnitMark unit logic s
  | .unitDisable unit => Sys2Proof.Machine.execUnitDisable unit s
  | .errorEpochEnd => Sys2Proof.Machine.execErrorEpochEnd s
  | .thermalStep temps power => Sys2Proof.Machine.execThermalStep temps power s
  | .thermalTrip => Sys2Proof.Machine.execThermalTrip s
  | .deviceReset => Sys2Proof.Machine.execDeviceReset s
  | .selfTest badCores badMcores badPch => Sys2Proof.Machine.execSelfTest badCores badMcores badPch s
  | .memoryTraining t2len ok => Sys2Proof.Machine.execMemoryTraining t2len ok s
  | .lineStateZero => Sys2Proof.Machine.execLineStateZero s
  | .choingLoad entry image => Sys2Proof.Machine.execChoingLoad entry image s
  | .htailWrite v => Sys2Proof.Machine.execHtailWrite v s
  | .hsqTaskEntry => Sys2Proof.Machine.execHsqTaskEntry s
  | .hsqPreempt => Sys2Proof.Machine.execHsqPreempt s
  | .hsqUnfreeze => Sys2Proof.Machine.execHsqUnfreeze s
  | .hsqWake => Sys2Proof.Machine.execHsqWake s
  | .hsqReleaseHeld => Sys2Proof.Machine.execHsqReleaseHeld s
  | .hsqQueueReset => Sys2Proof.Machine.execHsqQueueReset s
  | .hsqMalformed => Sys2Proof.Machine.execHsqMalformed s
  | .ringLogWrite deq v => Sys2Proof.Machine.execRingLogWrite deq v s
  | .dconsWrite v => Sys2Proof.Machine.execDconsWrite v s
  | .deqPost => Sys2Proof.Machine.execDeqPost s
  | .hostRead w len => Sys2Proof.Machine.execHostRead w len s
  | .hostWrite w len data be => Sys2Proof.Machine.execHostWrite w len data be s
  | .backInvalidateResponse k => Sys2Proof.Machine.execBackInvalidateResponse k s
  | .portDown port => Sys2Proof.Machine.execPortDown port s
  | .gatewayMergeSend k => Sys2Proof.Machine.execGatewayMergeSend k s
  | .devWrite v => Sys2Proof.Machine.execDevWrite v s
  | .regionTableWrite rtn v => Sys2Proof.Machine.execRegionTableWrite rtn v s
  | .pktRd p => Sys2Proof.Machine.execPktRd p s
  | .pktJn p => Sys2Proof.Machine.execPktJn p s
  | .pktFd p => Sys2Proof.Machine.execPktFd p s
  | .pktWt p => Sys2Proof.Machine.execPktWt p s
  | .pktRl p => Sys2Proof.Machine.execPktRl p s
  | .pktCk p => Sys2Proof.Machine.execPktCk p s
  | .pktFl p => Sys2Proof.Machine.execPktFl p s
  | .pktWd p => Sys2Proof.Machine.execPktWd p s
  | .pktRdr p => Sys2Proof.Machine.execPktRdr p s
  | .pktAns p => Sys2Proof.Machine.execPktAns p s
  | .pktTkt p => Sys2Proof.Machine.execPktTkt p s
  | .pktNtc p => Sys2Proof.Machine.execPktNtc p s
  | .pktRej p => Sys2Proof.Machine.execPktRej p s
  | .pktNack p => Sys2Proof.Machine.execPktNack p s
  | .pktRpt p => Sys2Proof.Machine.execPktRpt p s
  | .pktAck p => Sys2Proof.Machine.execPktAck p s
  | .pktArv p => Sys2Proof.Machine.execPktArv p s
  | .pktRls p => Sys2Proof.Machine.execPktRls p s
  | .pktRck p => Sys2Proof.Machine.execPktRck p s
  | .pktPrb p => Sys2Proof.Machine.execPktPrb p s
  | .pktIdl p => Sys2Proof.Machine.execPktIdl p s
  | .pktDcl p => Sys2Proof.Machine.execPktDcl p s
  | .illegalInstruction word => Sys2Proof.Machine.execIllegalInstruction word s
  | .instructionFetchFault => Sys2Proof.Machine.execInstructionFetchFault s
  | .loadValueReturn ep k => Sys2Proof.Machine.execLoadValueReturn ep k s
  | .remoteCaskCompletion k => Sys2Proof.Machine.execRemoteCaskCompletion k s
  | .powerOff => Sys2Proof.Machine.execPowerOff s
  | .portTrained port => Sys2Proof.Machine.execPortTrained port s
  | .gatewayAcknowledgement k => Sys2Proof.Machine.execGatewayAcknowledgement k s
  | .hostControlWrite off v => Sys2Proof.Machine.execHostControlWrite off v s

end Sys2Proof.Machine
end

