-- ==== Sys2Proof/Machine/Issue.lean ====
section
/-! DEFINITION.
The checks before an instruction (R46, R49, R76), the issue of one instruction of a context,
and the lock-step of a gang (R339 to R341). -/

namespace Sys2Proof.Machine

open Sys2Proof

/-! ## One instruction -/

/-- The registers with MCALL tokens that an instruction reads. -/
def Ctx.tokenRegs (x : Ctx) (i : Instr) : List Nat :=
  (x.tokens.filter fun t => (reads i).any fun d => d.sameReg (xr (BitVec.ofNat 5 t.1))).map (·.1)

/-- The first read of a register that holds an MCALL token ORs the call's signature into the context's (R493). -/
def Ctx.takeTokens (x : Ctx) (i : Instr) : Ctx := x.readToks (x.tokenRegs i)

/-- The instruction of a context has not read its registers for good: it waits for an empty word, or for a ticket of an inner read or
of a page, and is to be issued again (R52, R274, R371), or it may still trap without effect (R74). -/
def Ctx.unread (x : Ctx) : Bool :=
  (match x.life with
    | .parked (.word _) => true
    | _ => false) || match x.hold with
    | .replay _ => true
    | .exact _ => true
    | .gen _ => true
    | _ => false

/-- The landing-pad check of R49: the word that follows a checked transfer. -/
def padOk (label : BitVec 12) (w : BitVec 32) : Bool := w == label ++ 0x0107B#20

/-- A decoded instruction is performed: the scoreboard (R76), which an illegal word does not meet (R46), the tokens that it reads,
and its meaning. An instruction that stalls, traps or issues again has read no token (R138), and one at which the context is held
takes its tokens when it completes. -/
def State.perform1 (s : State) (i : Instr) : Res :=
  if i.wordWf && s.me.busyFor s.cur.2 i then stall s
  else
    match exec i (s.setCtx (s.ctx.takeTokens i)) with
    | .next t =>
      if t.out = .done ∧ !(t.ctxAt s.cur.1 s.cur.2).unread then .next t
      else
        match exec i s with
        | .next u => .next (if u.out = .done then u.modCtx s.cur.1 s.cur.2 fun x => { x with toks := s.ctx.tokenRegs i } else u)
        | r => r
    | r => r

/-- A fetched word is performed: the landing-pad check, then decoding (R46). -/
def State.performWord (s : State) (w : BitVec 32) : Res :=
  match s.ctx.pad with
  | some label =>
    let s := s.setCtx { s.ctx with pad := none }
    if !padOk label w then trap 21 s.pc s
    else s.perform1 (.lpad label)
  | none =>
    match decode w with
    | .ok i => s.perform1 i
    | .error _ => execIllegalInstruction w s

/-- The instruction at pc of the context at hand (`s.cur`) is fetched and performed. -/
def State.issue1 (s : State) : Res :=
  match s.fetch with
  | .stop r => r
  | .word s w => s.performWord w

/-! ## Gangs (R339 to R341) -/

/-- The instruction takes its way from the leader alone (R339). -/
def isControl : Instr → Bool
  | .beq .. | .bne .. | .blt .. | .bge .. | .bltu .. | .bgeu .. | .jal .. | .jalr .. | .jt .. => true
  | _ => false

/-- The link register of a control instruction. -/
def linkReg : Instr → Reg
  | .jal rd _ => rd
  | .jalr rd _ _ => rd
  | .jt rd _ _ => rd
  | _ => 0

/-- A member performs an instruction in its own core. -/
def State.member (s : State) (ep : Nat) (i : Instr) : Res := ({ s with cur := (ep, s.cur.2), out := .done } : State).perform1 i

/-- The members perform one instruction in rank order, each on what the earlier ones have left, but for one that traps or stalls,
which leaves nothing (R341); a member that the instruction has retired performs no more (R342). Outcomes by member. -/
def gangFold (i : Instr) (n : Fin 11) : List Nat → State → Except Res (State × List (Nat × Issue))
  | [], s => .ok (s, [])
  | ep :: rest, s =>
    if !(s.ctxAt ep n).alive then gangFold i n rest s
    else
      match s.member ep i with
      | .next t =>
        match gangFold i n rest (if t.out = .done then t else s) with
        | .ok (u, outs) => .ok (u, (ep, t.out) :: outs)
        | .error r => .error r
      | r => .error r

/-- A member that is parked on an empty word, after the fold. -/
def State.wordPark (s : State) (n : Fin 11) (ep : Nat) : Option Nat :=
  match (s.ctxAt ep n).life with
  | .parked (.word o) => some o
  | _ => none

/-- A control instruction of a gang: the leader performs it, and every member follows it with the same link and the same check
ahead; a member whose link register is busy stalls the gang (R76, R339). -/
def State.gangControl (s : State) (set : List Nat) (i : Instr) : Res :=
  let n := s.cur.2
  let lead := set.headD 0
  let back (t : State) : State := { t with cur := s.cur }
  if set.any fun e => (s.core e).busyFor n (.jal (linkReg i) 0) then .next { s with out := .stalled }
  else match s.member lead i with
  | .next t =>
    (match t.out with
     | .trapped c v => .next { back (s.gangTrap set n false true [(lead, c, s.pc, v)]) with out := .trapped c v }
     | .stalled => .next { back t with out := .stalled }
     | .done =>
       let l := t.ctxAt lead n
       .next { back ((set.drop 1).foldl (fun (t : State) e =>
         if l.life = .live ∧ l.hold = .free then
           t.modCtx e n fun x => { (x.wx (linkReg i) (s.pc + 4)) with pc := l.pc, pad := l.pad }
         else t) t) with out := .done })
  | r => r

/-- The members that are held until readability is known, as a trap of theirs takes effect in no member (R74, R341). -/
def State.gangHeld (s : State) (set : List Nat) (n : Fin 11) : List Nat :=
  set.filter fun e => match (s.ctxAt e n).hold with
    | .exact _ => true
    | .gen _ => true
    | _ => false

/-- After an instruction of a gang: where a member has not passed it, the gang is not through with it yet (R339). -/
def State.markBehind (s : State) (set : List Nat) (n : Fin 11) (pc : Word) : State :=
  let part := set.any fun e => (s.ctxAt e n).alive && (s.ctxAt e n).pc == pc
  set.foldl (fun (s : State) e => s.modCore e fun c => { c with gang := { c.gang with behind := part } }) s

/-- The members of a gang that have still to issue the instruction that others have passed (R339). -/
def State.behindOf (s : State) (set : List Nat) (n : Fin 11) : List Nat :=
  set.filter fun e => (s.core e).gang.behind && set.any fun o => (s.ctxAt o n).pc == (s.ctxAt e n).pc + 4

/-- A decoded instruction of a gang (R339, R341), which the members of `run` perform: any stall stalls every member, any trap is
taken by all with no effect, a park on an empty word makes the instruction issue again in every member of `run`, and where some of
them are held until readability is known the others perform it after them. -/
def State.performGang (s : State) (set run : List Nat) (i : Instr) : Res :=
  let n := s.cur.2
  let back (t : State) : State := { t with cur := s.cur }
  if isControl i then s.gangControl set i
  else
    match gangFold i n run s with
    | .error r => r
    | .ok (t, outs) =>
      let ts := outs.filterMap fun o => match o.2 with | .trapped c v => some (o.1, c, s.pc, v) | _ => none
      let parked := run.filterMap fun e => (t.wordPark n e).map fun o => (e, o)
      match outs.find? fun o => o.2 = .stalled, ts, parked with
      | some (e, _), _, _ =>
        (match s.member e i with
         | .next u => .next { back u with out := .stalled }
         | r => r)
      | none, x :: xs, _ =>
        -- a completion whose MPOP traps is removed all the same (R251)
        let s := match i with
          | .mpop _ => (x :: xs).foldl (fun (u : State) (t : Nat × BitVec 6 × Word × Word) => u.popDone t.1 n) s
          | _ => s
        .next { back (s.gangTrap set n false true (x :: xs)) with out := .trapped x.2.1 x.2.2.2 }
      | none, [], p :: ps =>
        .next { back ((p :: ps).foldl (fun (u : State) p => u.modCtx p.1 n fun x =>
          { x with life := .parked (.word p.2) }) s) with out := .done }
      | none, [], [] =>
        match t.gangHeld run n with
        | [] => .next { back (t.markBehind set n s.pc) with out := .done }
        | held =>
          match gangFold i n held s with
          | .ok (u, _) => .next { back (u.markBehind set n s.pc) with out := .done }
          | .error r => r

/-- The gang's leader fetches once, and every member has the leader's pc; members that have still to issue an instruction that the
others have passed issue it alone (R339). -/
def State.issueGang (s : State) (set : List Nat) : Res :=
  let late := s.behindOf set s.cur.2
  let run := if late = [] then set else late
  let lead := run.headD 0
  let s := { s with cur := (lead, s.cur.2) }
  let s := run.foldl (fun (u : State) e => u.modCtx e s.cur.2 fun x => { x with pc := s.pc }) s
  match s.fetch with
  | .stop (.next t) =>
    (match t.out with
     | .trapped c v => .next { s.gangTrap set s.cur.2 false true [(lead, c, s.pc, v)] with out := .trapped c v }
     | _ => .next t)
  | .stop r => r
  | .word s w =>
    match s.ctx.pad with
    | some label =>
      let s := set.foldl (fun (u : State) e => u.modCtx e s.cur.2 fun x => { x with pad := none }) s
      if !padOk label w then .next { s.gangTrap set s.cur.2 false true [(lead, 21, s.pc, s.pc)] with out := .trapped 21 s.pc }
      else s.performGang set run (.lpad label)
    | none =>
      match decode w with
      | .ok i => s.performGang set run i
      | .error _ =>
        let b := badWord w
        .next { s.gangTrap set s.cur.2 false true [(lead, b.1, s.pc, b.2)] with out := .trapped b.1 b.2 }

/-! ## Issue -/

/-- The core's team runs there: FLUSHCTX of it finds that a context has run (R369). -/
def Core.noteRun (c : Core) : Core := if c.ran.contains c.owner then c else { c with ran := c.ran ++ [c.owner] }

/-- One issue of a context (R139, R141, R145): the immediate trap of the instruction first, then a deferred trap, then a
reported fault, then the instruction. -/
def State.issue (s : State) (ep : Nat) (n : Fin 11) : Res :=
  if !s.ready ep n then .next s
  else
    let s := s.modCtx ep n fun x => { x with last := s.cycle }
    let s := if isCompute ep then s.modCore ep Core.noteRun else s
    let s := { s with cur := (ep, n), out := .done }
    let run := if s.me.gang.g then s.issueGang s.me.gang.set else s.issue1
    let cores := s.me.teamCores ep
    let tidy (t : State) : State := cores.foldl (fun (t : State) e => t.dropHeld e n) t
    match run with
    | .next t =>
      match t.out with
      | .trapped .. => .next (tidy t)
      | _ =>
        match cores.find? fun e => (s.ctxAt e n).deferred ≠ [] && s.mayTake e n with
        | some e => .next (s.takeDeferred e n)
        | none =>
          match cores.find? fun e => s.reportDue e n with
          | some e => .next (s.deliverReport e n)
          | none => .next (tidy t)
    | r => r

end Sys2Proof.Machine
end

