-- ==== Sys2Proof/Machine/Turns.lean ====
section
/-! DEFINITION.
What a step does: a turn that the agenda names, or, when the agenda is empty, the next thing of a fixed order (log 2). -/

namespace Sys2Proof.Machine

open Sys2Proof

/-! ## Turns of the agenda -/

/-- Events that happen only as a part of an instruction or of a memory core's bundle; as a turn of their own they do nothing. -/
def isPart : Instr → Bool
  | .csrWrite .. | .kvstatRead .. | .kfbmsgRead .. | .rtailWrite .. | .devWrite .. | .regionTableWrite .. => true
  | .illegalInstruction .. | .instructionFetchFault => true
  | .mcAdd .. | .mcSub .. | .mcAnd .. | .mcOr .. | .mcXor .. | .mcShl .. | .mcShr .. | .mcSra .. | .mcMul .. => true
  | .mcLtu .. | .mcLt .. | .mcEq .. | .mcMinu .. | .mcMaxu .. | .mcInc .. | .mcDec .. | .mcNot .. | .mcNeg .. => true
  | .mcLd .. | .mcLwz .. | .mcSt .. | .mcSw4 .. | .mcLld .. | .mcLst .. | .mcLjoin .. | .mcPw .. | .mcPc .. => true
  | .mcBput .. | .mcBget .. | .mcJmp .. | .mcDone .. | .mcFence .. => true
  | _ => false

/-- An event of the opcode table that may be a turn. -/
def isEvent (i : Instr) : Bool := (encode i).isNone && !isPart i

/-- The endpoints that issue instructions. -/
def issues (ep : Nat) : Bool := isCompute ep || isService ep

/-- A unit whose action would post a report that the full package buffer has no room for waits (R519). -/
def State.orWaits (s : State) (r : Res) : Res :=
  match r with
  | .next t => if t.reports.length ≤ max s.reports.length Config.nReports then .next t else .next s
  | r => r

/-- A context issues, and a cycle passes. -/
def State.turnIssue (s : State) (ep : Nat) (n : Fin 11) : Res :=
  if !issues ep then .next s
  else
    match (s.modCtx ep n fun x => { x with last := s.cycle }).orWaits (s.issue ep n) with
    | .next t => .next { t with cycle := t.cycle + 1 }
    | r => r

/-- A corrected error of a unit is counted (R497, R524). -/
def State.turnCorrected (s : State) (u : Nat) : State :=
  if !isUnit u ∨ s.unitOff u then s
  else
    let s : State := { s with pkg := { s.pkg with corrected := mput s.pkg.corrected u (s.errors u + 1) } }
    if isMemCore u then s.setMc u { s.mc u with ecorr := inc32 (s.mc u).ecorr } else s

/-- An entry of the translation that maps a physical page. -/
def State.entryOf (s : State) (pa : Nat) : Option Tlb :=
  s.clusters.findSome? fun c => c.2.l2.find? fun t =>
    if t.lg then t.ppn / 512 == pa / 33554432 else t.ppn == pa / 65536

/-- The sectors that the snoop filter holds (R515). -/
def nFilter : Nat := 1048576

/-- The host takes a sector (R515, R516): of a HOST page, or shared of a LAT page when every element of it is readable. -/
def State.turnHostTake (s : State) (sector : Nat) (excl : Bool) : State :=
  let line := sector / 2
  let ok : Bool := match s.entryOf (64 * sector) with
    | none => false
    | some t => match t.cls with
      | .own => false
      | .host => true
      | .lat => !excl && (t.cork ||
          (let m := readMask (s.line line) t.typ t.width (lineOf s.mem line)
           (fld m (64 * (sector % 2)) 64 : BitVec 64) == BitVec.allOnes 64))
  if !ok then s
  else
    let held := s.snoop.filter fun h => h.1 ≠ sector
    { s with snoop := (held.drop (held.length + 1 - nFilter)) ++ [(sector, excl)] }

/-- An error that cannot be corrected strikes a scratchpad word, whose bytes are free from then on (R290, R523, log 37). -/
def State.strikePad (s : State) (ep word : Nat) : State :=
  if isCompute ep ∧ word < (s.core ep).padSize then
    (s.modCore ep fun c => { c with
      padErr := insertNat c.padErr word, pad := writeNat c.pad word 4 (Config.freeElem s.free).toNat }).fresh
  else s

/-- An error that cannot be corrected strikes a canopy word, whose bytes are free from then on (R523, log 37). -/
def State.strikeCanopy (s : State) (ep word : Nat) : State :=
  if isCompute ep ∧ word < 1048576 then
    (s.modCore ep fun c => { c with
      canErr := insertNat c.canErr word, canopy := writeNat c.canopy word 4 (Config.freeElem s.free).toNat }).fresh
  else s

/-- An error that cannot be corrected strikes an L1 line: what the L1 alone held of it is lost, and the line is poisoned (R523). -/
def State.strikeL1 (s : State) (ep line : Nat) : State :=
  if (mget (s.core ep).l1 line).isNone then s
  else { s.modCore ep fun c => { c with l1 := mdel c.l1 line } with poisoned := insertNat s.poisoned line }

/-- A turn is performed. -/
def State.turn (s : State) (t : Turn) : Res :=
  match t with
  | .issue ep n => s.turnIssue ep n
  | .event i => if isEvent i then s.orWaits (exec i s) else .next s
  | .tick n => .next { s with cycle := s.cycle + n }
  | .evictLine ep line => .next (if issues ep then s.writeBack ep line else s)
  | .poison line => .next { s with poisoned := insertNat s.poisoned line }
  | .poisonPad ep word => .next (s.strikePad ep (word / 4 * 4))
  | .poisonCanopy ep word => .next (s.strikeCanopy ep (word / 4 * 4))
  | .poisonMc mc word =>
    .next (if isMemCore mc then s.setMc mc { s.mc mc with bad := insertNat (s.mc mc).bad word } else s)
  | .poisonL1 ep line => .next (s.strikeL1 ep line)
  | .corrected u => .next (s.turnCorrected u)
  | .hostStore addr bytes =>
    .next { s with hostMem := (bytes.zipIdx).foldl (fun (m : List Host.Cell) b => putByte m (addr + b.2) b.1) s.hostMem }
  | .hostTake sector excl => .next (s.turnHostTake sector excl)
  | .hostControlRead off => .next (s.hostControlRead off)
  | .bootFail => .next s.bootFail
  | .resolve cl k => .next (s.resolveSlot cl k)

/-- A turn that a device without power can take: its reset, and what the host does in its own memory. -/
def Turn.unpowered : Turn → Bool
  | .event .deviceReset => true
  | .hostStore .. => true
  | _ => false

/-! ## The default order -/

/-- The first of a list of events that changes the state. -/
def firstChange (s : State) : List (State → Res) → Option Res
  | [] => none
  | f :: fs =>
    match s.orWaits (f s) with
    | .next t => if t = s then firstChange s fs else some (.next t)
    | r => some r

/-- The events of a message in flight, by its place. -/
def netEvents (k : Nat) : List (State → Res) :=
  [execWaitAnswer k, execAcqAnswer k, execReportPost k, execFaultBufferRequest k, execReplayNotice k, execMsendArrival k,
   execRemoteCaskArrival k, execRemoteCaskCompletion k, execTimedArrival k, execMigrationCommand k, execPressWaitRetry k]

/-- The events of an operation in a press's input, by its place. -/
def pressEvents (k : Nat) : List (State → Res) :=
  [execPressJoin k, execPressExactRead k, execPressWaitRegister k, execPressRel k, execPressCork k, execPressFoldAppend k]

/-- The events of a context. -/
def ctxEvents (ep : Nat) (n : Fin 11) : List (State → Res) :=
  [execHexitComplete ep n, execRelSend ep n, execCorkAck ep n, execRackComplete ep n, execEmptyWordReadWake ep n,
   execDeferredTrap ep n, execReportDelivery ep n, execTsendSlotSend ep n]

/-- The events of a core. -/
def coreEvents (ep : Nat) (c : Core) : List (State → Res) :=
  (List.range c.cb.length).map (execCombiningBufferLeave ep) ++
    (List.range c.accs.length).map (execLoadValueReturn ep) ++
    [execEngineCommandStart ep, execEngineCommandComplete ep, execCopyPortion ep, execCopyComplete ep] ++
    (List.range c.casks.length).map (execCaskPartExecute ep) ++
    ([0, 1, 2, 3, 4, 5, 6, 7] : List (Fin 8)).map (execChannelRoomFreed ep) ++
    [execCarveReconfigure ep, execGangRendezvous ep, execTeamCompletion ep, execPreempt ep, execFlushAck ep] ++
    allCtx.flatMap (ctxEvents ep)

/-- The events of a memory core. -/
def mcEvents (mc : Nat) : List (State → Res) :=
  [execLeaseLapse mc, execMcDrainComplete mc, execMcCallStart mc, execMcallToken mc, execMcPushArrival mc]

/-- The sets of cores that an image of `n` cores may take: its own, and sets of a die that begin at a free core. -/
def State.targets (s : State) (d : Nat) (i : Image) : List (List Nat) :=
  let n := i.cores.length
  let free := s.freeCores d never
  i.cores.map (·.1) ::
    (free.map fun e => (List.range n).map fun k => e + k) ++
    (free.map fun e => [e, e + 1, e + 12, e + 13].take n) ++
    [free.take n]

/-- RESUME of the selected image, on the first cores that serve. -/
def State.resumeNext (s : State) (dist : Fin 4) : Res :=
  match (s.dist dist).selected with
  | some (_, t) =>
    (match t.image.bind fun id => s.images.find? fun i => i.id = id with
     | some i =>
       (match (s.targets dist i).find? fun l => s.targetOk dist i l with
        | some l => execResume dist l s
        | none => .next s)
     | none => .next s)
  | none => .next s

/-- The events of a distributor. -/
def distEvents (d : Fin 4) (x : Dist) : List (State → Res) :=
  (List.range x.entries.length).map (execTaskRecordDecode d) ++
    ([0, 1, 2, 3, 4, 5, 6, 7, 8, 9, 10, 11, 12, 13, 14, 15] : List (Fin 16)).map (execHeadLatenessCheck d) ++
    [execDistributorSelect d, execDispatch d, fun s => s.resumeNext d] ++
    (List.range x.taskqs.length).map (execTaskqAnswer d)

/-- The events of the package. -/
def pkgEvents (s : State) : List (State → Res) :=
  let units := s.pkg.corrected.map (·.1)
  units.map (fun u => execUnitMark u false) ++
    (s.cores.map fun c => execUnitDisable c.1) ++ (s.mcs.map fun m => execUnitDisable m.1) ++
    [execErrorEpochEnd, execThermalTrip, execLineStateZero, execHsqTaskEntry, execHsqPreempt, execHsqUnfreeze, execHsqWake,
     execHsqReleaseHeld, execHsqQueueReset, execHsqMalformed, execDeqPost] ++
    (List.range (s.fab.merge.length + s.fab.gate.length)).map execGatewayMergeSend

/-- Everything that may happen of itself, in the default order. -/
def State.events (s : State) : List (State → Res) :=
  (List.range s.net.length).flatMap netEvents ++
    (List.range s.pressQ.length).flatMap pressEvents ++
    (List.range s.routers.length).map execRouterCombineLeave ++
    ((s.cores.filter fun c => issues c.1).flatMap fun c => coreEvents c.1 c.2) ++
    [execNotificationWindow] ++
    (List.range s.domains.length).flatMap (fun k => [execClusterBarrierRelease k, execBarrierRelease k]) ++
    [execDetectorSample] ++
    (s.domains.flatMap fun d => [execQuiescenceProbe d.dom, execProbeRestart d.dom]) ++
    ([0, 1, 2, 3] : List (Fin 4)).flatMap (fun d => distEvents d (s.dist d)) ++
    [execBalancerTick, execLeaseCountTick] ++
    (s.mcs.flatMap fun m => mcEvents m.1) ++
    pkgEvents s

/-- The memory cores that execute: RUNNING, and RELEASING until their calls end (R491). -/
def State.running (s : State) : List Nat := (s.mcs.filter fun m => m.2.runs).map (·.1)

/-- The ready context that issued least recently, ties to the lower endpoint and context (R170). -/
def State.nextReady (s : State) : Option (Nat × Fin 11) :=
  let all := (s.cores.filter fun c => issues c.1).flatMap fun c => (allCtx.filter fun n => s.ready c.1 n).map fun n => (c.1, n)
  ((sortBy (fun p => (s.ctxAt p.1 p.2).last) all).head?)

/-- Every running memory core executes a bundle. -/
def State.bundles (s : State) : List Nat → Res
  | [] => .next s
  | e :: rest =>
    match s.orWaits (execMcBundle e s) with
    | .next t => t.bundles rest
    | r => r

/-- A cycle: the running memory cores execute a bundle, and a ready context issues. -/
def State.cyclePass (s : State) : Res :=
  match s.bundles s.running with
  | .next t =>
    (match t.nextReady with
     | some p => t.turnIssue p.1 p.2
     | none => .next { t with cycle := t.cycle + 1 })
  | r => r

/-- The default: the first event that has an effect, otherwise a cycle. -/
def State.default (s : State) : Res :=
  match firstChange s s.events with
  | some r => r
  | none => s.cyclePass

/-- One step: the agenda's first turn, or the default order. A device without power does nothing but be reset (R524). -/
def State.doStep (s : State) : Res :=
  match s.agenda with
  | t :: rest =>
    let s : State := { s with agenda := rest }
    if s.pkg.off && !t.unpowered then .fault .powerOff else s.turn t
  | [] => if s.pkg.off then .fault .powerOff else s.default

/-! ## Placing an instruction -/

/-- The address of the placed instruction: page 1 of the device's own space. -/
def placeVa (s : State) : Word := w64 (s.dev.toNat * 2 ^ 54 + 65536)

/-- The OWN page of the placed instruction, of the core's owner. -/
def placePage (owner : BitVec 16) : Tlb where
  vpn := 1
  lg := false
  ppn := 1
  cls := .own
  typ := 0
  width := 0
  vint := 0
  cork := false
  ret := false
  owner := owner
  second := owner
  mask := 0

/-- Context 0 of core 0 is live at the placed instruction, with nothing outstanding; core 0 is alone, in service, and holds the
page. -/
def Core.placed (c : Core) (va : Word) : Core :=
  let x := c.ctx 0
  ({ c with
    disabled := false, frozen := false, accs := [], cb := [], l1 := mdel c.l1 512
    gang := { c.gang with g := false }
    team := c.team.map fun t => { t with stop := false }
    tlb := placePage c.owner :: c.tlb.filter fun t => !t.covers 1 } : Core).setCtx 0
    { x with life := .live, hold := .free, pc := va, pad := none, busyX := [], cursor := 0 }

/-- The device with a word of `nbits` bits as the next instruction of context 0 of core 0 (log 7). -/
def State.placeWord (s : State) (nbits w : Nat) : State :=
  let s := s.setCore 0 ((s.core 0).placed (placeVa s))
  { s with
    mem := writeNat s.mem 65536 4 (w % 2 ^ nbits)
    poisoned := s.poisoned.filter fun l => l ≠ 512
    fab := { s.fab with access := ({} : Fabric).access }
    pkg := { s.pkg with off := false, ttrip := false }
    agenda := [.issue 0 0] }

end Sys2Proof.Machine
end

