-- ==== Sys2Proof/Machine/Step.lean ====
section
/-! DEFINITION.
The step of the device, and the placing of an instruction where the next step fetches it. -/

namespace Sys2Proof.Machine

open Sys2Proof

/-- One step of the device. -/
def step (s : State) : Res := s.doStep

/-- The device with an instruction stored where the next step fetches (log 7). -/
def State.withFetchWord (s : State) (nbits w : Nat) : State := s.placeWord nbits w

end Sys2Proof.Machine
end

