-- ==== Sys2Proof/Safety.lean ====
section
/-! DEFINITION.
What the claims are stated in: what an instruction leaves alone, and when an access of a context finds its page. -/

namespace Sys2Proof.Safety

open Sys2Proof Sys2Proof.Machine

/-! ## Frames -/

/-- Between two states nothing differs but the context at hand of the first (and the model's own note of how the instruction
ended): every unit of the device, every other core and context, and the core's own parts outside its contexts are equal. -/
def OnlyContext (s t : State) : Prop :=
  { t with cores := s.cores, out := s.out } = s ∧
  (∀ ep n, ¬(ep = s.cur.1 ∧ n = s.cur.2) → t.ctxAt ep n = s.ctxAt ep n) ∧
  (∀ ep, { t.core ep with ctxs := (s.core ep).ctxs } = s.core ep)

/-- The state in which an instruction at hand has trapped at once, with a cause and ktval (R138, R142). -/
def trapped (code : BitVec 6) (tval : Word) (s : State) : State :=
  { s.takeTrap s.cur.1 s.cur.2 code false true s.pc tval with out := .trapped code tval }

/-! ## A step of a context -/

/-- A context that does not run in a gang is about to perform a word: what the issue notes before the fetch (R170, R369). -/
def issuing (s : State) (ep : Nat) (n : Fin 11) : State :=
  let s := s.modCtx ep n fun x => { x with last := s.cycle }
  let s := if isCompute ep then s.modCore ep Core.noteRun else s
  { s with cur := (ep, n), out := .done }

/-- No deferred trap and no reported fault is to be taken by a context before its next instruction (R139, R150). -/
abbrev NothingPending (s : State) (ep : Nat) (n : Fin 11) : Prop :=
  (s.ctxAt ep n).deferred = [] ∧ s.reportDue ep n = false

/-- An instruction has ended: a context that no longer waits at it holds no access of it (R76), and a cycle passes. -/
def ended (t : State) (ep : Nat) (n : Fin 11) : State := { t.dropHeld ep n with cycle := (t.dropHeld ep n).cycle + 1 }

/-- The package buffer has room for the reports of a step from `s` to `t` (R519). -/
abbrev RoomFor (s t : State) : Prop := t.reports.length ≤ max s.reports.length Config.nReports

/-- A gang is about to perform a word: every member has the leader's pc, and the leader is at hand (R339). -/
def gangIssuing (s : State) (set : List Nat) (n : Fin 11) : State :=
  let s : State := { s with cur := (set.headD 0, n) }
  set.foldl (fun u e => u.modCtx e n fun x => { x with pc := s.pc }) s

/-- An instruction of a gang has ended for all members, which `ended` says of one core. -/
def gangEnded (t : State) (set : List Nat) (n : Fin 11) : State :=
  let t := set.foldl (fun (t : State) e => t.dropHeld e n) t
  { t with cycle := t.cycle + 1 }

/-- The scoreboard lets an instruction issue: its registers are free (R76); a word with a field that the spec does not admit does not
meet the scoreboard (R46). -/
abbrev Unblocked (s : State) (n : Fin 11) (i : Instr) : Prop := i.wordWf = true → s.me.busyFor n i = false

/-! ## Accesses of the context at hand -/

/-- A piece of `n` bytes at `a` waits for nothing: no older access of its line (`reads`: none but reads that only await their values,
R76), no range of the scoreboard (R296), no read of synchronised words that has not observed them (R307). -/
abbrev NothingOlder (s : State) (reads : Bool) (a : Word) (n : Nat) : Prop :=
  s.lineBusy s.cur.1 s.cur.2 reads [(a, 0, n)] = false ∧ s.rangeBusy s.cur.1 [(a, 0, n)] = false ∧
    s.acquiring s.cur.1 s.cur.2 = false

/-- A scalar access of `n` bytes at `a` can be made: it is aligned (R71), in the translated memory of this device, and waits for
nothing older and for no entry of the ticket table. -/
abbrev ScalarReady (s : State) (reads : Bool) (a : Word) (n : Nat) : Prop :=
  a.toNat % n = 0 ∧ aDev a = s.dev ∧ aWin a = false ∧ NothingOlder s reads a n ∧
    s.me.tickets ≤ 16 ∧ s.me.remotes s.dev ≤ 256 ∧ ∀ x ∈ s.me.accs, x.grp < s.me.nextAge

/-- An access of a piece of `n` bytes at `a`, in the translated memory of this device, waits for nothing older and has room for its
ticket. -/
abbrev PieceReady (s : State) (a : Word) (n : Nat) : Prop :=
  aDev a = s.dev ∧ aWin a = false ∧ NothingOlder s false a n ∧
    s.me.tickets ≤ 16 ∧ s.me.remotes s.dev ≤ 256 ∧ ∀ x ∈ s.me.accs, x.grp < s.me.nextAge

/-- The record of a scalar access of `n` bytes at `a` of the context at hand. -/
def scalarAcc (s : State) (op : AccOp) (a : Word) (n : Nat) (data : Word) (dst : Dst) (st : Stage) : Acc :=
  s.newAcc s.me.nextAge op [(a, 0, n)] (maskRun 512 0 n) (data.zeroExtend 4096) dst st

/-- A scalar load of a plain page has issued: its access is outstanding, with the physical address, and the context goes on. -/
def loadIssued (s : State) (a : Word) (n : Nat) (dst : Dst) (t : Tlb) : State :=
  (s.addAcc s.cur.1 (scalarAcc s .load a n 0 dst (.ready (t.pa a) t.cls t.vint))).advance

/-- The same for an access elsewhere: to a window of this device, or to another device, with room for its entry, and with no flush of
a migrated team to come for a read of synchronised words (R322). -/
abbrev ElsewhereReady (s : State) (reads : Bool) (a : Word) (n : Nat) : Prop :=
  a.toNat % n = 0 ∧ NothingOlder s reads a n ∧ (reads = true → s.heldAcquire s.cur.1 [(a, 0, n)] = false) ∧
    s.me.tickets < 16 ∧ s.me.remotes s.dev < 256 ∧ ∀ x ∈ s.me.accs, x.grp < s.me.nextAge

/-- The scalar loads, with their widths and destinations (R70). -/
def loadForms (rd rs1 : Reg) (imm : BitVec 12) : List (Instr × Nat × Dst) :=
  [(.lb rd rs1 imm, 1, .x rd 1 true), (.lh rd rs1 imm, 2, .x rd 2 true), (.lw rd rs1 imm, 4, .x rd 4 true),
   (.ld rd rs1 imm, 8, .x rd 8 true), (.lbu rd rs1 imm, 1, .x rd 1 false), (.lhu rd rs1 imm, 2, .x rd 2 false),
   (.lwu rd rs1 imm, 4, .x rd 4 false), (.flw rd rs1 imm, 4, .f rd)]

/-- The scalar stores, with their widths and the value stored (R70). -/
def storeForms (rs1 rs2 : Reg) (imm : BitVec 12) (s : State) : List (Instr × Nat × Word) :=
  [(.sb rs1 rs2 imm, 1, s.x rs2), (.sh rs1 rs2 imm, 2, s.x rs2), (.sw rs1 rs2 imm, 4, s.x rs2), (.sd rs1 rs2 imm, 8, s.x rs2),
   (.fsw rs1 rs2 imm, 4, (s.f rs2).zeroExtend 64)]

/-- The bytes that a scalar store writes, in the form of a line: which bytes, and their values. -/
def lineBytes (a : Word) (n : Nat) (d : Word) : BitVec 128 × BitVec 1024 :=
  lineForm [(a, 0, n)] (maskRun 512 0 n) (d.zeroExtend 4096)

/-! ## Vector instructions -/

/-- A vector arithmetic instruction can complete (R209, R235): no bound register is misused, its sources have their values `vs`, and its
destination takes the bytes. -/
abbrev VectorReady (s : State) (srcs : List Reg) (rd : Reg) (vs : List (BitVec 4096)) (bytes : BitVec 512) : Prop :=
  s.misuse srcs [rd] (srcs ++ [rd]) = false ∧ s.vsrcs srcs = .ok vs ∧ s.vrefuse rd bytes = none

/-- It has completed: bound sources have gone on, its flags have accrued, and the destination holds its result. -/
def vectorDone (s : State) (srcs : List Reg) (rd : Reg) (val : BitVec 4096) (bytes : BitVec 512) (fl : Flags) : State :=
  (((s.consumeAll srcs).vflags fl).vput rd val bytes).advance

/-! ## Memory cores -/

/-- The call of a memory core runs, and no translation miss of it waits for a notice (R482, R487). -/
abbrev McReady (s : State) (mc : Nat) : Prop :=
  (s.mc mc).runs = true ∧ ((s.mc mc).miss.any fun x => x.status.isNone) = false

/-! ## Packets -/

/-- A packet of a kind is for this device, from another, and the next of its stream (R532). -/
abbrev NextPacket (s : State) (p : Packet) (code : Nat) : Prop :=
  p.what = code ∧ p.src ≠ s.dev ∧ p.dst = s.dev ∧ p.seq = mgetD s.fab.rx (p.src.toNat * 4 + (classOf code).num) 0

/-- It has been accepted: its stream expects the next number, and it counts for its domain (R532, R533). -/
def received (s : State) (p : Packet) (code : Nat) : State :=
  let t : State := { s with fab := { s.fab with
    rx := mput s.fab.rx (p.src.toNat * 4 + (classOf code).num) (p.seq + 1) } }
  if counted code then t.countRecvd p.fdom else t

end Sys2Proof.Safety
end

