-- ==== Sys2Proof/Certificates/Slice0/Obligations.lean ====
section
/-! DEFINITION.
The statements for the provers, chapter by chapter of the spec. Each docstring names the rules that its statement formalises, and
the log entry where a clause rests on a choice of the model. -/

open Sys2Proof Sys2Proof.Machine Sys2Proof.Safety

/-! ## Encoding and steps (R32 to R52) -/

/-- R32 to R44: the word of every instruction that has a word, with every operand at every value its fields admit, decodes to that
instruction: no bit of an encoding is dropped, and no two encodings overlap. -/
def Obligations.DecodeEncode : Prop :=
  ∀ (i : Instr) (w : BitVec 32), encode i = some w → decode w = .ok i

/-- R44: a word is accepted only as the word of the instruction that it decodes to: every other word is refused, by a name that says
whether its low bits, its major opcode or its code is at fault. -/
def Obligations.EncodeDecode : Prop :=
  ∀ (w : BitVec 32),
    (∀ i, decode w = .ok i → encode i = some w) ∧
    (decode w = .error .lowBits ↔ fld w 0 2 ≠ (3 : BitVec 2)) ∧
    (fld w 0 2 = (3 : BitVec 2) → (decode w = .error .majorOpcode ↔ fld w 0 7 ∈ ([0x1f, 0x2f, 0x3f, 0x57, 0x5f, 0x6b, 0x77, 0x7f] : List (BitVec 7))))

/-- R33 to R43: words written out from the encoding tables, one of each major opcode. -/
def Obligations.DecodeWords : Prop :=
  decode 0b10101011110011011110001010110111 = .ok (.lui 5 0xABCDE) ∧
  decode 0b10101011110011011110001010010111 = .ok (.auipc 5 0xABCDE) ∧
  decode 0b10010010001100110000001010010011 = .ok (.addi 5 6 0x923) ∧
  decode 0b01000000011100110000001010110011 = .ok (.sub 5 6 7) ∧
  decode 0b01000001001100110101001010011011 = .ok (.sraiw 5 6 19) ∧
  decode 0b00000010011100110111001010111011 = .ok (.remuw 5 6 7) ∧
  decode 0b10101010101110101010001011101111 = .ok (.jal 5 0xd5555) ∧
  decode 0b10010010001100110000001011100111 = .ok (.jalr 5 6 0x923) ∧
  decode 0b10100110011100110000010111100011 = .ok (.beq 6 7 0xd35) ∧
  decode 0b10010010001100110011001010000011 = .ok (.ld 5 6 0x923) ∧
  decode 0b10010010011100110011000110100011 = .ok (.sd 6 7 0x923) ∧
  decode 0b00001010010100000000000000001111 = .ok (.fence 10 5) ∧
  decode 0b10010010001100110010001010000111 = .ok (.flw 5 6 0x923) ∧
  decode 0b10010010011100110010000110100111 = .ok (.fsw 6 7 0x923) ∧
  decode 0b01001000011100110011001011000011 = .ok (.fmaddS 5 6 7 9 3) ∧
  decode 0b01001000011100110011001011000111 = .ok (.fmsubS 5 6 7 9 3) ∧
  decode 0b01001000011100110011001011001011 = .ok (.fnmsubS 5 6 7 9 3) ∧
  decode 0b01001000011100110011001011001111 = .ok (.fnmaddS 5 6 7 9 3) ∧
  decode 0b00000000011100110011001011010011 = .ok (.faddS 5 6 7 3) ∧
  decode 0b00000110000000110010001010001011 = .ok (.waitFull 5 6) ∧
  decode 0b10000000011100110100001010101011 = .ok (.vadd 1 .i16 5 6 7) ∧
  decode 0b01001110011100110010110101011011 = .ok (.mma 2 1 1 0 11 6 7 9) ∧
  decode 0b00000010110000000110000001111011 = .ok (.fenceS 1 0 1 4) ∧
  decode 0x00000073 = .ok .ecall ∧
  decode 0x00100073 = .ok .ebreak ∧
  decode 0x0C00007B = .ok .kret ∧
  decode 0x0020307B = .ok (.bar 2)

/-- R32, R44, R46, R49, R76: a step of a context outside a gang whose word decodes performs exactly that instruction, on the state
at issue, and a cycle passes (logs 3 and 106); its reads of call tokens count only when it neither stalls nor traps nor issues again
(R138, R493), and later when the context is held at it; an instruction whose word has a field that the spec does not admit is not held
by the scoreboard; a word that is no instruction performs ILLEGAL_INSTRUCTION; after a checked transfer the expected LPAD is performed
and any other word traps with cause 21. R339: in a gang that is level, an instruction that takes no way and that no member stalls or
traps or parks at is performed by every member in rank order. The reports of the step have room in the package buffer (R519). -/
def Obligations.StepRunsDecoded : Prop :=
  ∀ (s : State) (ep : Nat) (n : Fin 11) (rest : List Turn),
    let s0 : State := { s with agenda := rest }
    let s1 := issuing s0 ep n
    s.agenda = .issue ep n :: rest → s.pkg.off = false → issues ep = true → s0.ready ep n = true →
    (∀ (s2 : State) (w : BitVec 32),
      s1.me.gang.g = false → NothingPending s1 ep n → s1.fetch = .word s2 w → s2.cur = (ep, n) →
      (∀ i t, s2.ctx.pad = none → decode w = .ok i → Unblocked s2 n i → exec i (s2.setCtx (s2.ctx.takeTokens i)) = .next t →
        (t.out = .done → (t.ctxAt ep n).unread = false → RoomFor s t → step s = .next (ended t ep n)) ∧
        (∀ u, t.out ≠ .done ∨ (t.ctxAt ep n).unread = true → exec i s2 = .next u →
          let v := if u.out = .done then u.modCtx ep n fun x => { x with toks := s2.ctx.tokenRegs i } else u
          RoomFor s v → step s = .next (ended v ep n))) ∧
      (∀ e t, s2.ctx.pad = none → decode w = .error e → exec (.illegalInstruction w) s2 = .next t → RoomFor s t →
        step s = .next (ended t ep n)) ∧
      (∀ label, s2.ctx.pad = some label →
        let s3 := s2.setCtx { s2.ctx with pad := none }
        (w ≠ label ++ 0x0107B#20 → RoomFor s (trapped 21 s2.pc s3) → step s = .next (ended (trapped 21 s2.pc s3) ep n)) ∧
        (∀ t, w = label ++ 0x0107B#20 → exec (.lpad label) (s3.setCtx (s3.ctx.takeTokens (.lpad label))) = .next t →
          t.out = .done → (t.ctxAt ep n).unread = false → RoomFor s t → step s = .next (ended t ep n)))) ∧
    (∀ (s2 t : State) (w : BitVec 32) (i : Instr) (outs : List (Nat × Issue)),
      let set := s1.me.gang.set
      s1.me.gang.g = true → (∀ e ∈ set, NothingPending s1 e n) → s1.behindOf set n = [] →
      (gangIssuing s1 set n).fetch = .word s2 w → s2.cur = (set.headD 0, n) → s2.ctx.pad = none → decode w = .ok i →
      isControl i = false → gangFold i n set s2 = .ok (t, outs) → (∀ o ∈ outs, o.2 = .done) →
      (∀ e ∈ set, t.wordPark n e = none) → t.gangHeld set n = [] → RoomFor s (t.markBehind set n s2.pc) →
      step s = .next (gangEnded { t.markBehind set n s2.pc with cur := s2.cur, out := .done } set n))

/-! ## Traps, scalar instructions (R65 to R92, R136 to R150) -/

/-- R142, R144: an immediate trap of a context with a handler, outside a gang: kcause, kepc and ktval are written, PPRV takes PRV,
PRV and TIP are set, RESUME is the pc and DEFER is 0, and the context goes on at ktvec.BASE · 4; no register and nothing else of the
device changes. R143: a trap of a context whose ktvec.BASE is 0, outside a gang, ends its team: every context of the core is
retired, and the team is to complete with the status "unhandled trap", the cause, the pc and the tval. -/
def Obligations.Traps : Prop :=
  (∀ (s : State) (code : BitVec 6) (tval : Word),
    s.me.gang.g = false → s.ctx.csr.tvec ≠ 0 →
    let t := trapped code tval s
    t.pc = s.ctx.csr.tvec ++ 0#2 ∧
    t.ctx.csr = { s.ctx.csr with
      async := false, code := code, epc := fld s.pc 2 62, tval := tval, pprv := s.ctx.csr.prv, prv := true, tip := true } ∧
    t.ctx.rep = { s.ctx.rep with resume := s.pc, dv := false, dkind := 0, dreg := 0 } ∧
    t.ctx.pad = none ∧
    t.ctx.x = s.ctx.x ∧ t.ctx.f = s.ctx.f ∧ t.ctx.v = s.ctx.v ∧ t.ctx.m = s.ctx.m ∧ t.ctx.sig = s.ctx.sig ∧
    OnlyContext s t) ∧
  (∀ (s : State) (code : BitVec 6) (tval : Word) (te : Team),
    s.me.gang.g = false → s.ctx.csr.tvec = 0 → s.me.team = some te →
    let t := trapped code tval s
    t.me.alive = [] ∧
    t.me.team = some { te with ended := some (1, 0, code.zeroExtend 64, s.pc, tval) })

/-- R44, R45, R77, R81, R82: a word that is no instruction traps with cause 2, or 19 for MMAS with transA; a fetch outside the pages
of this device, or from a LAT page that is not corked, traps with cause 1 and ktval the pc; ECALL and EBREAK trap with their causes;
KRET returns at system level and traps at app level. -/
def Obligations.TrapsAndReturns : Prop :=
  ∀ (s : State) (w : BitVec 32),
    (w &&& 0x727F#32 ≠ 0x425B#32 → exec (.illegalInstruction w) s = .next (trapped 2 0 s)) ∧
    (w &&& 0x727F#32 = 0x425B#32 → exec (.illegalInstruction w) s = .next (trapped 19 (w.zeroExtend 64) s)) ∧
    (aDev s.pc ≠ s.dev ∨ aWin s.pc = true → exec .instructionFetchFault s = .next (trapped 1 s.pc s)) ∧
    (∀ u t, aDev s.pc = s.dev → aWin s.pc = false → s.translate s.cur.1 .read s.pc = (u, .ok t (t.pa s.pc)) →
      s.storing s.cur.1 s.cur.2 s.pc = false →
      t.cls = .lat → t.cork = false → (u.line (t.pa s.pc / 128)).cork = false →
      exec .instructionFetchFault s = .next (trapped 1 s.pc u)) ∧
    exec .ecall s = .next (trapped (if s.ctx.csr.prv = true then 9 else 8) 0 s) ∧
    exec .ebreak s = .next (trapped 3 s.pc s) ∧
    (s.ctx.csr.prv = true → ∃ t, exec .kret s = .next t ∧
      t.pc = s.ctx.csr.epc ++ 0#2 ∧ t.ctx.csr = { s.ctx.csr with prv := s.ctx.csr.pprv, tip := false } ∧
      { t.ctx with pc := s.ctx.pc, csr := s.ctx.csr, cursor := s.ctx.cursor } = s.ctx ∧ OnlyContext s t) ∧
    (s.ctx.csr.prv = false → exec .kret s = .next (trapped 2 0 s))

/-- R65: the integer instructions of the table have the words that it gives, write its result to X[rd], for every operand and every
rd, change no flag and go on at pc + 4; with rd = x0 the result is discarded; within their opcodes a funct3 or funct7 value that no
row of the table (or of R66, for funct7 = 0000001) lists is an illegal instruction, which traps with cause 2. -/
def Obligations.IntegerResults : Prop :=
  (∀ (s : State) (rd rs1 : Reg) (u : BitVec 20) (imm : BitVec 12) (sh : BitVec 6) (sw : BitVec 5),
    let i : Word := imm.signExtend 64
    let a : Word := s.x rs1
    let lo : BitVec 32 := a.extractLsb' 0 32
    let done (v : Word) : Res := .next (s.setX rd v).advance
    exec (.lui rd u) s = done ((u ++ 0#12).signExtend 64) ∧
    exec (.auipc rd u) s = done (s.pc + (u ++ 0#12).signExtend 64) ∧
    exec (.addi rd rs1 imm) s = done (a + i) ∧
    exec (.slti rd rs1 imm) s = done (if a.toInt < i.toInt then 1 else 0) ∧
    exec (.sltiu rd rs1 imm) s = done (if a.toNat < i.toNat then 1 else 0) ∧
    exec (.xori rd rs1 imm) s = done (a ^^^ i) ∧
    exec (.ori rd rs1 imm) s = done (a ||| i) ∧
    exec (.andi rd rs1 imm) s = done (a &&& i) ∧
    exec (.slli rd rs1 sh) s = done (a <<< sh.toNat) ∧
    exec (.srli rd rs1 sh) s = done (a >>> sh.toNat) ∧
    exec (.srai rd rs1 sh) s = done (a.sshiftRight sh.toNat) ∧
    exec (.addiw rd rs1 imm) s = done (((a + i).extractLsb' 0 32).signExtend 64) ∧
    exec (.slliw rd rs1 sw) s = done ((lo <<< sw.toNat).signExtend 64) ∧
    exec (.srliw rd rs1 sw) s = done ((lo >>> sw.toNat).signExtend 64) ∧
    exec (.sraiw rd rs1 sw) s = done ((lo.sshiftRight sw.toNat).signExtend 64) ∧
    encode (.lui rd u) = some (u ++ rd ++ 0b0110111#7) ∧
    encode (.auipc rd u) = some (u ++ rd ++ 0b0010111#7) ∧
    encode (.addi rd rs1 imm) = some (imm ++ rs1 ++ 0b000#3 ++ rd ++ 0b0010011#7) ∧
    encode (.slti rd rs1 imm) = some (imm ++ rs1 ++ 0b010#3 ++ rd ++ 0b0010011#7) ∧
    encode (.sltiu rd rs1 imm) = some (imm ++ rs1 ++ 0b011#3 ++ rd ++ 0b0010011#7) ∧
    encode (.xori rd rs1 imm) = some (imm ++ rs1 ++ 0b100#3 ++ rd ++ 0b0010011#7) ∧
    encode (.ori rd rs1 imm) = some (imm ++ rs1 ++ 0b110#3 ++ rd ++ 0b0010011#7) ∧
    encode (.andi rd rs1 imm) = some (imm ++ rs1 ++ 0b111#3 ++ rd ++ 0b0010011#7) ∧
    encode (.slli rd rs1 sh) = some (0b000000#6 ++ sh ++ rs1 ++ 0b001#3 ++ rd ++ 0b0010011#7) ∧
    encode (.srli rd rs1 sh) = some (0b000000#6 ++ sh ++ rs1 ++ 0b101#3 ++ rd ++ 0b0010011#7) ∧
    encode (.srai rd rs1 sh) = some (0b010000#6 ++ sh ++ rs1 ++ 0b101#3 ++ rd ++ 0b0010011#7) ∧
    encode (.addiw rd rs1 imm) = some (imm ++ rs1 ++ 0b000#3 ++ rd ++ 0b0011011#7) ∧
    encode (.slliw rd rs1 sw) = some (0b0000000#7 ++ sw ++ rs1 ++ 0b001#3 ++ rd ++ 0b0011011#7) ∧
    encode (.srliw rd rs1 sw) = some (0b0000000#7 ++ sw ++ rs1 ++ 0b101#3 ++ rd ++ 0b0011011#7) ∧
    encode (.sraiw rd rs1 sw) = some (0b0100000#7 ++ sw ++ rs1 ++ 0b101#3 ++ rd ++ 0b0011011#7)) ∧
  (∀ (s : State) (rd rs1 rs2 : Reg),
    let a : Word := s.x rs1
    let b : Word := s.x rs2
    let n6 : Nat := b.toNat % 64
    let n5 : Nat := b.toNat % 32
    let lo : BitVec 32 := a.extractLsb' 0 32
    let done (v : Word) : Res := .next (s.setX rd v).advance
    exec (.add rd rs1 rs2) s = done (a + b) ∧
    exec (.sub rd rs1 rs2) s = done (a - b) ∧
    exec (.sll rd rs1 rs2) s = done (a <<< n6) ∧
    exec (.slt rd rs1 rs2) s = done (if a.toInt < b.toInt then 1 else 0) ∧
    exec (.sltu rd rs1 rs2) s = done (if a.toNat < b.toNat then 1 else 0) ∧
    exec (.xorR rd rs1 rs2) s = done (a ^^^ b) ∧
    exec (.srl rd rs1 rs2) s = done (a >>> n6) ∧
    exec (.sra rd rs1 rs2) s = done (a.sshiftRight n6) ∧
    exec (.orR rd rs1 rs2) s = done (a ||| b) ∧
    exec (.andR rd rs1 rs2) s = done (a &&& b) ∧
    exec (.addw rd rs1 rs2) s = done (((a + b).extractLsb' 0 32).signExtend 64) ∧
    exec (.subw rd rs1 rs2) s = done (((a - b).extractLsb' 0 32).signExtend 64) ∧
    exec (.sllw rd rs1 rs2) s = done ((lo <<< n5).signExtend 64) ∧
    exec (.srlw rd rs1 rs2) s = done ((lo >>> n5).signExtend 64) ∧
    exec (.sraw rd rs1 rs2) s = done ((lo.sshiftRight n5).signExtend 64) ∧
    encode (.add rd rs1 rs2) = some (0b0000000#7 ++ rs2 ++ rs1 ++ 0b000#3 ++ rd ++ 0b0110011#7) ∧
    encode (.sub rd rs1 rs2) = some (0b0100000#7 ++ rs2 ++ rs1 ++ 0b000#3 ++ rd ++ 0b0110011#7) ∧
    encode (.sll rd rs1 rs2) = some (0b0000000#7 ++ rs2 ++ rs1 ++ 0b001#3 ++ rd ++ 0b0110011#7) ∧
    encode (.slt rd rs1 rs2) = some (0b0000000#7 ++ rs2 ++ rs1 ++ 0b010#3 ++ rd ++ 0b0110011#7) ∧
    encode (.sltu rd rs1 rs2) = some (0b0000000#7 ++ rs2 ++ rs1 ++ 0b011#3 ++ rd ++ 0b0110011#7) ∧
    encode (.xorR rd rs1 rs2) = some (0b0000000#7 ++ rs2 ++ rs1 ++ 0b100#3 ++ rd ++ 0b0110011#7) ∧
    encode (.orR rd rs1 rs2) = some (0b0000000#7 ++ rs2 ++ rs1 ++ 0b110#3 ++ rd ++ 0b0110011#7) ∧
    encode (.andR rd rs1 rs2) = some (0b0000000#7 ++ rs2 ++ rs1 ++ 0b111#3 ++ rd ++ 0b0110011#7) ∧
    encode (.srl rd rs1 rs2) = some (0b0000000#7 ++ rs2 ++ rs1 ++ 0b101#3 ++ rd ++ 0b0110011#7) ∧
    encode (.sra rd rs1 rs2) = some (0b0100000#7 ++ rs2 ++ rs1 ++ 0b101#3 ++ rd ++ 0b0110011#7) ∧
    encode (.addw rd rs1 rs2) = some (0b0000000#7 ++ rs2 ++ rs1 ++ 0b000#3 ++ rd ++ 0b0111011#7) ∧
    encode (.subw rd rs1 rs2) = some (0b0100000#7 ++ rs2 ++ rs1 ++ 0b000#3 ++ rd ++ 0b0111011#7) ∧
    encode (.sllw rd rs1 rs2) = some (0b0000000#7 ++ rs2 ++ rs1 ++ 0b001#3 ++ rd ++ 0b0111011#7) ∧
    encode (.srlw rd rs1 rs2) = some (0b0000000#7 ++ rs2 ++ rs1 ++ 0b101#3 ++ rd ++ 0b0111011#7) ∧
    encode (.sraw rd rs1 rs2) = some (0b0100000#7 ++ rs2 ++ rs1 ++ 0b101#3 ++ rd ++ 0b0111011#7)) ∧
  (∀ (s : State) (rd : Reg) (v : Word),
    let t := (s.setX rd v).advance
    t.pc = s.pc + 4 ∧ t.ctx.csr = s.ctx.csr ∧ (∀ r : Reg, t.x r = if r = 0 then 0 else if r = rd then v else s.x r)) ∧
  (∀ (s : State) (w : BitVec 32),
    let op : BitVec 7 := w.extractLsb' 0 7
    let f3 : BitVec 3 := w.extractLsb' 12 3
    let f7 : BitVec 7 := w.extractLsb' 25 7
    (decodeWord w = none → w &&& 0x727F#32 ≠ 0x425B#32 → exec (.illegalInstruction w) s = .next (trapped 2 0 s)) ∧
    (op = 0b0010011 → (decodeWord w = none ↔
      ¬((f3 ≠ 1 ∧ f3 ≠ 5) ∨ f7 = 0 ∨ f7 = 1 ∨ (f3 = 5 ∧ (f7 = 0b0100000 ∨ f7 = 0b0100001))))) ∧
    (op = 0b0011011 → (decodeWord w = none ↔
      ¬(f3 = 0 ∨ (f3 = 1 ∧ f7 = 0) ∨ (f3 = 5 ∧ (f7 = 0 ∨ f7 = 0b0100000))))) ∧
    (op = 0b0110011 → (decodeWord w = none ↔
      ¬(f7 = 0 ∨ f7 = 1 ∨ (f7 = 0b0100000 ∧ (f3 = 0 ∨ f3 = 5))))) ∧
    (op = 0b0111011 → (decodeWord w = none ↔
      ¬((f7 = 0 ∧ (f3 = 0 ∨ f3 = 1 ∨ f3 = 5)) ∨ (f7 = 0b0100000 ∧ (f3 = 0 ∨ f3 = 5)) ∨ (f7 = 1 ∧ (f3 = 0 ∨ 4 ≤ f3))))))

/-- R66: the M instructions have the words of the table and give products and, for divisors that are not 0 (R67 has the others),
quotients rounded toward zero and remainders with the sign of the dividend; the W forms take the low 32 bits and sign-extend their
result; OP-32 with funct7 0000001 and funct3 1, 2 or 3 is illegal. -/
def Obligations.ProductsAndQuotients : Prop :=
  ∀ (s : State) (rd rs1 rs2 : Reg),
    let a : Word := s.x rs1
    let b : Word := s.x rs2
    let c : BitVec 32 := a.extractLsb' 0 32
    let d : BitVec 32 := b.extractLsb' 0 32
    let done (v : Word) : Res := .next (s.setX rd v).advance
    let w (v : BitVec 32) : Res := done (v.signExtend 64)
    (∀ f3 : BitVec 3, f3 = 1 ∨ f3 = 2 ∨ f3 = 3 →
      let word := 0b0000001#7 ++ rs2 ++ rs1 ++ f3 ++ rd ++ 0b0111011#7
      decodeWord word = none ∧ exec (.illegalInstruction word) s = .next (trapped 2 0 s)) ∧
    encode (.mul rd rs1 rs2) = some (0b0000001#7 ++ rs2 ++ rs1 ++ 0b000#3 ++ rd ++ 0b0110011#7) ∧
    encode (.mulh rd rs1 rs2) = some (0b0000001#7 ++ rs2 ++ rs1 ++ 0b001#3 ++ rd ++ 0b0110011#7) ∧
    encode (.mulhsu rd rs1 rs2) = some (0b0000001#7 ++ rs2 ++ rs1 ++ 0b010#3 ++ rd ++ 0b0110011#7) ∧
    encode (.mulhu rd rs1 rs2) = some (0b0000001#7 ++ rs2 ++ rs1 ++ 0b011#3 ++ rd ++ 0b0110011#7) ∧
    encode (.div rd rs1 rs2) = some (0b0000001#7 ++ rs2 ++ rs1 ++ 0b100#3 ++ rd ++ 0b0110011#7) ∧
    encode (.divu rd rs1 rs2) = some (0b0000001#7 ++ rs2 ++ rs1 ++ 0b101#3 ++ rd ++ 0b0110011#7) ∧
    encode (.rem rd rs1 rs2) = some (0b0000001#7 ++ rs2 ++ rs1 ++ 0b110#3 ++ rd ++ 0b0110011#7) ∧
    encode (.remu rd rs1 rs2) = some (0b0000001#7 ++ rs2 ++ rs1 ++ 0b111#3 ++ rd ++ 0b0110011#7) ∧
    encode (.mulw rd rs1 rs2) = some (0b0000001#7 ++ rs2 ++ rs1 ++ 0b000#3 ++ rd ++ 0b0111011#7) ∧
    encode (.divw rd rs1 rs2) = some (0b0000001#7 ++ rs2 ++ rs1 ++ 0b100#3 ++ rd ++ 0b0111011#7) ∧
    encode (.divuw rd rs1 rs2) = some (0b0000001#7 ++ rs2 ++ rs1 ++ 0b101#3 ++ rd ++ 0b0111011#7) ∧
    encode (.remw rd rs1 rs2) = some (0b0000001#7 ++ rs2 ++ rs1 ++ 0b110#3 ++ rd ++ 0b0111011#7) ∧
    encode (.remuw rd rs1 rs2) = some (0b0000001#7 ++ rs2 ++ rs1 ++ 0b111#3 ++ rd ++ 0b0111011#7) ∧
    exec (.mul rd rs1 rs2) s = done (a * b) ∧
    exec (.mulh rd rs1 rs2) s = done (BitVec.ofInt 64 (a.toInt * b.toInt / 2 ^ 64)) ∧
    exec (.mulhsu rd rs1 rs2) s = done (BitVec.ofInt 64 (a.toInt * b.toNat / 2 ^ 64)) ∧
    exec (.mulhu rd rs1 rs2) s = done (BitVec.ofNat 64 (a.toNat * b.toNat / 2 ^ 64)) ∧
    exec (.mulw rd rs1 rs2) s = w (c * d) ∧
    (b ≠ 0 →
      exec (.div rd rs1 rs2) s = done (BitVec.ofInt 64 (a.toInt.tdiv b.toInt)) ∧
      exec (.divu rd rs1 rs2) s = done (BitVec.ofNat 64 (a.toNat / b.toNat)) ∧
      exec (.rem rd rs1 rs2) s = done (BitVec.ofInt 64 (a.toInt.tmod b.toInt)) ∧
      exec (.remu rd rs1 rs2) s = done (BitVec.ofNat 64 (a.toNat % b.toNat))) ∧
    (d ≠ 0 →
      exec (.divw rd rs1 rs2) s = w (BitVec.ofInt 32 (c.toInt.tdiv d.toInt)) ∧
      exec (.divuw rd rs1 rs2) s = w (BitVec.ofNat 32 (c.toNat / d.toNat)) ∧
      exec (.remw rd rs1 rs2) s = w (BitVec.ofInt 32 (c.toInt.tmod d.toInt)) ∧
      exec (.remuw rd rs1 rs2) s = w (BitVec.ofNat 32 (c.toNat % d.toNat)))

/-- R67: division never traps (it completes for all operands), and its two special cases. -/
def Obligations.DivisionCorners : Prop :=
  ∀ (s : State) (rd rs1 rs2 : Reg),
    let a : Word := s.x rs1
    let b : Word := s.x rs2
    let c : BitVec 32 := a.extractLsb' 0 32
    let d : BitVec 32 := b.extractLsb' 0 32
    let done (v : Word) : Res := .next (s.setX rd v).advance
    let w (v : BitVec 32) : Res := done (v.signExtend 64)
    ((∃ v, exec (.div rd rs1 rs2) s = done v) ∧ (∃ v, exec (.divu rd rs1 rs2) s = done v) ∧
      (∃ v, exec (.rem rd rs1 rs2) s = done v) ∧ (∃ v, exec (.remu rd rs1 rs2) s = done v) ∧
      (∃ v, exec (.divw rd rs1 rs2) s = w v) ∧ (∃ v, exec (.divuw rd rs1 rs2) s = w v) ∧
      (∃ v, exec (.remw rd rs1 rs2) s = w v) ∧ (∃ v, exec (.remuw rd rs1 rs2) s = w v)) ∧
    (b = 0 →
      exec (.div rd rs1 rs2) s = done (-1) ∧ exec (.divu rd rs1 rs2) s = done (BitVec.ofNat 64 (2 ^ 64 - 1)) ∧
      exec (.rem rd rs1 rs2) s = done a ∧ exec (.remu rd rs1 rs2) s = done a) ∧
    (d = 0 →
      exec (.divw rd rs1 rs2) s = w (-1) ∧ exec (.divuw rd rs1 rs2) s = w (BitVec.ofNat 32 (2 ^ 32 - 1)) ∧
      exec (.remw rd rs1 rs2) s = w c ∧ exec (.remuw rd rs1 rs2) s = w c) ∧
    (a = BitVec.intMin 64 → b = -1 → exec (.div rd rs1 rs2) s = done (BitVec.intMin 64) ∧ exec (.rem rd rs1 rs2) s = done 0) ∧
    (c = BitVec.intMin 32 → d = -1 → exec (.divw rd rs1 rs2) s = w (BitVec.intMin 32) ∧ exec (.remw rd rs1 rs2) s = w 0)

/-- R12, R65: an instruction that writes X[rd] and goes on at pc + 4 changes X[rd] alone, and nothing when rd is x0; a call token
that rd held is gone with its value (R493); every other register, flag and special register of the context, every other context and
core, every byte of memory and every other part of the device keep their values. -/
def Obligations.RegisterWriteFrame : Prop :=
  ∀ (s : State) (rd : Reg) (v : Word),
    let t := (s.setX rd v).advance
    (∀ r : Reg, t.x r = if r = 0 then 0 else if r = rd then v else s.x r) ∧
    { t.ctx with x := s.ctx.x, pc := s.ctx.pc, cursor := s.ctx.cursor, tokens := s.ctx.tokens } = s.ctx ∧
    t.ctx.tokens = (if rd = 0 then s.ctx.tokens else mdel s.ctx.tokens rd.toNat) ∧
    t.pc = s.pc + 4 ∧
    OnlyContext s t ∧
    ∀ a, byteAt t.mem a = byteAt s.mem a

/-- R68, R69: jumps and branches. A target that is not a multiple of 4 is a precise trap of cause 0 with ktval the target; otherwise
the link is written and the context goes on at the target, and a JALR that is not a return expects a landing pad of label 0. R47,
R52: an LPAD that is not checked only advances; JT checks its base, its header and its index, loads the entry, checks the target,
and goes there with the link written and the table's label expected. -/
def Obligations.TransfersAndPads : Prop :=
  (∀ (s : State) (rd rs1 rs2 : Reg) (j : BitVec 20) (imm off : BitVec 12),
    let a : Word := s.x rs1
    let b : Word := s.x rs2
    let link : State := s.setX rd (s.pc + 4)
    let tj : Word := s.pc + (j ++ 0#1).signExtend 64
    let tr : Word := (a + imm.signExtend 64) &&& ~~~1
    let tb : Word := s.pc + (off ++ 0#1).signExtend 64
    let ret : Bool := rd == 0 && (rs1 == 1 || rs1 == 5) && imm == 0
    let taken (c : Prop) [Decidable c] : Res :=
      if c then (if tb.toNat % 4 = 0 then .next (s.goto tb) else .next (trapped 0 tb s)) else .next s.advance
    (tj.toNat % 4 = 0 → exec (.jal rd j) s = .next (link.goto tj)) ∧
    (tj.toNat % 4 ≠ 0 → exec (.jal rd j) s = .next (trapped 0 tj s)) ∧
    (tr.toNat % 4 = 0 → exec (.jalr rd rs1 imm) s =
      .next ((if ret then link else link.setCtx { link.ctx with pad := some 0 }).goto tr)) ∧
    (tr.toNat % 4 ≠ 0 → exec (.jalr rd rs1 imm) s = .next (trapped 0 tr s)) ∧
    exec (.beq rs1 rs2 off) s = taken (a = b) ∧
    exec (.bne rs1 rs2 off) s = taken (a ≠ b) ∧
    exec (.blt rs1 rs2 off) s = taken (a.toInt < b.toInt) ∧
    exec (.bge rs1 rs2 off) s = taken (b.toInt ≤ a.toInt) ∧
    exec (.bltu rs1 rs2 off) s = taken (a.toNat < b.toNat) ∧
    exec (.bgeu rs1 rs2 off) s = taken (b.toNat ≤ a.toNat)) ∧
  (∀ (s : State) (rd rs1 tb : Reg) (label : BitVec 12),
    let base : Word := s.x tb
    let i : Word := s.x rs1
    exec (.lpad label) s = .next s.advance ∧
    (base.toNat % 8 ≠ 0 → exec (.jt rd rs1 tb) s = .next (trapped 4 base s)) ∧
    (∀ s1 hdr, base.toNat % 8 = 0 → s.innerRead base 8 = .ok s1 hdr →
      let h : Word := BitVec.ofNat 64 hdr
      (h.extractLsb' 44 20 ≠ 0 → exec (.jt rd rs1 tb) s = .next (trapped 22 i s1)) ∧
      (h.extractLsb' 44 20 = 0 → (h.extractLsb' 0 32).toNat ≤ i.toNat → exec (.jt rd rs1 tb) s = .next (trapped 22 i s1)) ∧
      (∀ s2 e, h.extractLsb' 44 20 = 0 → i.toNat < (h.extractLsb' 0 32).toNat → s1.innerRead (base + 8 + 4 * i) 4 = .ok s2 e →
        let t : Word := base + (BitVec.ofNat 32 e).signExtend 64
        (t.toNat % 4 ≠ 0 → exec (.jt rd rs1 tb) s = .next (trapped 0 t s2)) ∧
        (t.toNat % 4 = 0 →
          let u := s2.setX rd (s2.pc + 4)
          exec (.jt rd rs1 tb) s = .next ((u.setCtx { u.ctx with pad := some (h.extractLsb' 32 12) }).goto t)))))

/-- R71: every load and store requires natural alignment on every page class and in every window, before translation: a misaligned
one traps with cause 4 or 6 and ktval the address, and takes no ticket; an aligned one lies inside one 128-byte line. -/
def Obligations.NaturalAlignment : Prop :=
  (∀ (s : State) (rd rs1 rs2 : Reg) (imm : BitVec 12),
    let a : Word := s.x rs1 + imm.signExtend 64
    (a.toNat % 2 ≠ 0 →
      exec (.lh rd rs1 imm) s = .next (trapped 4 a s) ∧ exec (.lhu rd rs1 imm) s = .next (trapped 4 a s) ∧
      exec (.sh rs1 rs2 imm) s = .next (trapped 6 a s)) ∧
    (a.toNat % 4 ≠ 0 →
      exec (.lw rd rs1 imm) s = .next (trapped 4 a s) ∧ exec (.lwu rd rs1 imm) s = .next (trapped 4 a s) ∧
      exec (.flw rd rs1 imm) s = .next (trapped 4 a s) ∧ exec (.sw rs1 rs2 imm) s = .next (trapped 6 a s) ∧
      exec (.fsw rs1 rs2 imm) s = .next (trapped 6 a s)) ∧
    (a.toNat % 8 ≠ 0 →
      exec (.ld rd rs1 imm) s = .next (trapped 4 a s) ∧ exec (.sd rs1 rs2 imm) s = .next (trapped 6 a s))) ∧
  ∀ (a : Word) (n : Nat), n = 1 ∨ n = 2 ∨ n = 4 ∨ n = 8 → a.toNat % n = 0 → a.toNat % 128 + n ≤ 128

/-- R70, R72, R76: a load of an OWN or HOST page of this device that its translation finds issues: the access is outstanding at the
physical address, with the width and sign of the instruction, and the context goes on; the value comes with LOAD_VALUE_RETURN (log
8). R70, R72, R74, R107, R126, R165, R546: a load elsewhere than in a plain page. A LAT page: the buffered joins of the line by the
context leave, and the value comes from the L1 copy, or from the press, for which the context waits; this core's scratchpad, whose
words are full or plain: the bytes return at once; another device: a request leaves, and the load is outstanding. -/
def Obligations.ScalarLoads : Prop :=
  (∀ (s u : State) (rd rs1 : Reg) (imm : BitVec 12) (t : Tlb),
    let a : Word := s.x rs1 + imm.signExtend 64
    s.translate s.cur.1 .read a = (u, .ok t (t.pa a)) → t.cls ≠ .lat →
    (ScalarReady s true a 1 → exec (.lb rd rs1 imm) s = .next (loadIssued u a 1 (.x rd 1 true) t)) ∧
    (ScalarReady s true a 2 → exec (.lh rd rs1 imm) s = .next (loadIssued u a 2 (.x rd 2 true) t)) ∧
    (ScalarReady s true a 4 → exec (.lw rd rs1 imm) s = .next (loadIssued u a 4 (.x rd 4 true) t)) ∧
    (ScalarReady s true a 8 → exec (.ld rd rs1 imm) s = .next (loadIssued u a 8 (.x rd 8 true) t)) ∧
    (ScalarReady s true a 1 → exec (.lbu rd rs1 imm) s = .next (loadIssued u a 1 (.x rd 1 false) t)) ∧
    (ScalarReady s true a 2 → exec (.lhu rd rs1 imm) s = .next (loadIssued u a 2 (.x rd 2 false) t)) ∧
    (ScalarReady s true a 4 → exec (.lwu rd rs1 imm) s = .next (loadIssued u a 4 (.x rd 4 false) t)) ∧
    (ScalarReady s true a 4 → exec (.flw rd rs1 imm) s = .next (loadIssued u a 4 (.f rd) t))) ∧
  (∀ (s : State) (rd rs1 : Reg) (imm : BitVec 12), ∀ p ∈ loadForms rd rs1 imm,
    let a : Word := s.x rs1 + imm.signExtend 64
    let n := p.2.1
    let ep := s.cur.1
    (∀ u t, ScalarReady s true a n → s.translate ep .read a = (u, .ok t (t.pa a)) → t.cls = .lat →
      let line := t.pa a / 128
      let v := u.cbDrainLine ep s.cur.2 line
      let acc := scalarAcc u .load a n 0 p.2.2
      (∀ d, v.latCopy ep line (lineBytes a n 0).1 = some d →
        exec p.1 s = .next (v.addAcc ep (acc (.back (fromLine [(a, 0, n)] d)))).advance) ∧
      (v.latCopy ep line (lineBytes a n 0).1 = none →
        exec p.1 s = .next (((v.toPress (v.pressOp ep s.cur.2 t line a (.read t.width u.me.nextAge t.cork))).addAcc ep
          (acc .press)).holdOn (.exact u.me.nextAge)))) ∧
    (ElsewhereReady s true a n → aDev a = s.dev → aWin a = true → aEp a = ep → isCompute ep = true → s.coreOn ep = true →
      aOff a + n ≤ s.me.padSize → s.me.emptyWord (aOff a) n (2 ^ n - 1) = none → (∀ w ∈ s.me.padErr, overlap w 4 (aOff a) n = false) →
      s.admitted (s.master ep) kCore ep rRead = true →
      exec p.1 s = .next (s.addAcc ep (scalarAcc s .load a n 0 p.2.2
        (.back (BitVec.ofNat 4096 (readNat s.me.pad (aOff a) n))))).advance) ∧
    (∀ t, ElsewhereReady s true a n → aDev a ≠ s.dev →
      s.request ep s.cur.2 ((scalarAcc s .load a n 0 p.2.2 .remote).packet s.dev) = some t →
      exec p.1 s = .next (t.addAcc ep (scalarAcc s .load a n 0 p.2.2 .remote)).advance))

/-- R70, R72, R73, R106, R165, R273, R547: the scalar stores. An OWN page: the bytes enter the core's combining buffer, are dirty
nowhere else, and mark the write signature, in a gang after the stores of lower rank to the line (R343); a HOST page that the host does not hold: the bytes are at their home; a LAT page whose
type takes joins and whose width is the store's: a join of that element; a scratchpad of this device: the bytes are written and the
words are full; another device: a request leaves. That stores to HOST pages and to windows are performed at issue is the model's (log
131). -/
def Obligations.ScalarStores : Prop :=
  ∀ (s : State) (rs1 rs2 : Reg) (imm : BitVec 12), ∀ p ∈ storeForms rs1 rs2 imm s,
    let a : Word := s.x rs1 + imm.signExtend 64
    let n := p.2.1
    let ep := s.cur.1
    let b := lineBytes a n p.2.2
    (∀ u t, ScalarReady s false a n → s.translate ep .write a = (u, .ok t (t.pa a)) →
      let line := t.pa a / 128
      let acc := scalarAcc u .store a n p.2.2 .none
      (t.cls = .own → u.rankWaits ep (acc .remote) = false → exec p.1 s = .next (u.storeOwn ep s.cur.2 line a b.1 b.2).advance) ∧
      (t.cls = .own → u.rankWaits ep (acc .remote) = true →
        exec p.1 s = .next (u.addAcc ep (acc (.ready (t.pa a) .own t.vint))).advance) ∧
      (t.cls = .host → u.heldSectors line b.1 true = [] → exec p.1 s = .next (u.storeHost ep s.cur.2 line a b.1 b.2).advance) ∧
      (t.cls = .lat → joinAccepts t.typ = true → wBytes t.width = n →
        exec p.1 s = .next (u.storeLat ep s.cur.2 t line a b.1 b.2).advance) ∧
      (t.cls = .lat → joinAccepts t.typ = false ∨ wBytes t.width ≠ n →
        ∃ v, exec p.1 s = .next (trapped 17 a v) ∧ v.ctx = s.ctx)) ∧
    (ElsewhereReady s false a n → aDev a = s.dev → aWin a = true → isCompute (aEp a) = true → s.coreOn (aEp a) = true →
      aOff a + n ≤ (s.core (aEp a)).padSize → (s.core (aEp a)).piecesCheck [(aOff a, n, 2 ^ n - 1)] = none →
      s.admitted (s.master ep) kCore (aEp a) rWrite = true →
      exec p.1 s = .next (s.modCore (aEp a) fun c =>
        c.putPieces [(aOff a, n, p.2.2.toNat % 2 ^ (8 * n), 2 ^ n - 1)]).advance) ∧
    (∀ t, ElsewhereReady s false a n → aDev a ≠ s.dev →
      s.request ep s.cur.2 ((scalarAcc s .store a n p.2.2 .none .remote).packet s.dev) = some t →
      exec p.1 s = .next (t.addAcc ep (scalarAcc s .store a n p.2.2 .none .remote)).advance)

/-- R72, R301, R461: bytes written at their home, with the bytes that a scalar store writes: exactly the stored bytes change, from
the lowest byte of the value at the address upwards, every other byte of memory reads as before, and the memory keeps its canonical
form. -/
def Obligations.HomeWrites : Prop :=
  (∀ (s : State) (line : Nat) (valid : BitVec 128) (data : BitVec 1024),
    let t := s.putHome line valid data
    (Memory.wf s.mem = true → ∀ a, byteAt t.mem a =
      if a / 128 = line ∧ valid.getLsbD (a % 128) = true then data.extractLsb' (8 * (a % 128)) 8 else byteAt s.mem a) ∧
    (Memory.wf s.mem = true → Memory.wf t.mem = true)) ∧
  (∀ (a : Word) (n : Nat) (d : Word) (k : Nat), n = 1 ∨ n = 2 ∨ n = 4 ∨ n = 8 → a.toNat % n = 0 → k < 128 →
    let o := a.toNat % 128
    (lineBytes a n d).1.getLsbD k = decide (o ≤ k ∧ k < o + n) ∧
    (o ≤ k ∧ k < o + n → (lineBytes a n d).2.extractLsb' (8 * k) 8 = d.extractLsb' (8 * (k - o)) 8))

/-- R70, R76, R226: the value of an outstanding load that no older read of its line precedes returns as one unit: a plain page gives
the bytes of the line as the core sees it, another endpoint's window gives its words, and a portion whose bytes are back gives those;
the register is written with the load's width and sign, and is busy no longer. R70: memory is little-endian: the bytes that a scalar
load takes from a line of memory are those from its address upwards, and the register gets them sign- or zero-extended, or unchanged
in an f register. -/
def Obligations.LoadReturns : Prop :=
  (∀ (s : State) (ep k : Nat) (a : Acc),
    (s.core ep).accs[k]? = some a → a.op = .load → s.group ep a.grp = [a] →
    (∀ b ∈ (s.core ep).accs, b.age = a.age → b = a) → (s.ctxAt ep a.ctx).hold = .free →
    (∀ b ∈ (s.core ep).accs, b.ctx = a.ctx → b.age < a.age → b.unread = true → meets b.chunks a.chunks = false) →
    let done (d : BitVec 4096) : Res := .next ((s.modCore ep fun c => { c with accs := c.accs.filter fun b => b.grp ≠ a.grp }).modCtx
      ep a.ctx fun x => x.putDst a.dst d a.fills)
    (∀ pa cls vint, a.stage = .ready pa cls vint → s.poisoned.contains (pa / 128) = false →
      (cls = .host → s.heldSectors (pa / 128) (lineForm a.chunks a.mask 0).1 false = []) →
      exec (.loadValueReturn ep k) s = done (fromLine a.chunks (s.plainLine ep cls (pa / 128)))) ∧
    (∀ v, a.stage = .window → s.windowValue ep a = .ok v → exec (.loadValueReturn ep k) s = done v) ∧
    (∀ v, a.stage = .back v → exec (.loadValueReturn ep k) s = done v)) ∧
  (∀ (m : List Host.Cell) (line n : Nat) (a : Word), a.toNat % 128 + n ≤ 128 →
    (fromLine [(a, 0, n)] (lineOf m line)).toNat = readNat m (line * 128 + a.toNat % 128) n ∧
    (∀ (x : Ctx) (r : Reg) (d : BitVec 4096) (k : BitVec 512), d.toNat < 2 ^ (8 * n) →
      (n = 8 → x.putDst (.x r n true) d k = x.wx r (BitVec.ofNat 64 d.toNat)) ∧
      (n = 1 ∨ n = 2 ∨ n = 4 → x.putDst (.x r n false) d k = x.wx r (BitVec.ofNat 64 d.toNat)) ∧
      (n = 1 → x.putDst (.x r n true) d k = x.wx r ((BitVec.ofNat 8 d.toNat).signExtend 64)) ∧
      (n = 2 → x.putDst (.x r n true) d k = x.wx r ((BitVec.ofNat 16 d.toNat).signExtend 64)) ∧
      (n = 4 → x.putDst (.x r n true) d k = x.wx r ((BitVec.ofNat 32 d.toNat).signExtend 64)) ∧
      (n = 4 → x.putDst (.f r) d k = x.wf r (BitVec.ofNat 32 d.toNat))))

/-- R25, R26: HSTART outside context 0 or in a gang is cause 2, without helpers cause 24, at a misaligned entry cause 0; when the
helper is not retired X[rd] is −1; and otherwise, the issuer's accesses being performed, the helper starts as R26 writes it, expects
a landing pad of label 0, HNEXT moves on, and X[rd] is its number. R27, R28: HEXIT begins the drain; HEXIT_COMPLETE, when the drain
has ended on every core of the team, retires a helper with its exit value and its signature in that of context 0, parks context 0
while a helper lives, and otherwise ends the team with status 0 and the exit value. HWAIT refuses other numbers than 1 to 10 with
cause 2, parks on a helper that lives, and returns the exit value of one that has ended. -/
def Obligations.Helpers : Prop :=
  (∀ (s : State) (rd rs1 rs2 : Reg),
    let a : Word := s.x rs1
    (s.cur.2 ≠ 0 ∨ s.me.gang.g = true → exec (.hstart rd rs1 rs2) s = .next (trapped 2 0 s)) ∧
    (s.cur.2 = 0 → s.me.gang.g = false →
      (s.me.hmax = 0 → exec (.hstart rd rs1 rs2) s = .next (trapped 24 0 s)) ∧
      (s.me.hmax ≠ 0 → a.toNat % 4 ≠ 0 → exec (.hstart rd rs1 rs2) s = .next (trapped 0 a s)) ∧
      (∀ n : Fin 11, s.me.hmax ≠ 0 → a.toNat % 4 = 0 → s.me.hnext = n.val →
        ((s.me.ctx n).alive = true → exec (.hstart rd rs1 rs2) s = .next (s.setX rd (-1)).advance) ∧
        ((s.me.ctx n).alive = false → s.relStep.2 = true →
          let u := s.relStep.1
          let h := startHelper u.ctx (u.me.ctx n) (u.x rs1) (u.x rs2)
          exec (.hstart rd rs1 rs2) s =
            .next ((u.setMe { u.me.setCtx n h with hnext := n.val % u.me.hmax + 1 }).setX rd (w64 n.val)).advance ∧
          h.life = .live ∧ h.pc = u.x rs1 ∧ h.pad = some 0 ∧ h.sig = 0 ∧
          h.csr.prv = u.ctx.csr.prv ∧ h.csr.tvec = u.ctx.csr.tvec ∧ h.csr.scratch = u.ctx.csr.scratch ∧
          h.csr.gset = u.ctx.csr.gset ∧ h.csr.seed = u.ctx.csr.seed ∧ h.csr.dom = u.ctx.csr.dom ∧
          (∀ r : Reg, h.rx r = if r = 10 then u.x rs2 else 0) ∧ (∀ r, h.rf r = 0) ∧ (∀ r, h.rv r = 0) ∧ ∀ r, h.rm r = 0)))) ∧
  ((∀ (s : State) (rs1 : Reg),
    let u := s.cbDrainCtx s.cur.1 s.cur.2
    exec (.hexit rs1) s = .next ((u.setCtx { u.ctx with csr := { u.ctx.csr with qActive := false } }).holdOn
      (.exit (s.leaderX rs1)))) ∧
  (∀ (s : State) (ep : Nat) (n : Fin 11) (v : Word),
    (s.ctxAt ep n).hold = .exit v → (∀ e ∈ (s.core ep).teamCores ep, s.exitDrained e n = true) →
    (n ≠ 0 → exec (.hexitComplete ep n) s =
      .next ((s.retireCtx ep n v).modCtx ep 0 fun z => { z with sig := z.sig ||| (s.ctxAt ep n).sig }) ∧
      ((s.retireCtx ep n v).ctxAt ep n).life = .retired ∧ ((s.retireCtx ep n v).ctxAt ep n).exitVal = v) ∧
    (n = 0 → ((s.core ep).alive.filter fun k => k ≠ 0) ≠ [] →
      exec (.hexitComplete ep n) s = .next (s.modCtx ep 0 fun z => { z with life := .parked .hexit })) ∧
    (n = 0 → ((s.core ep).alive.filter fun k => k ≠ 0) = [] →
      exec (.hexitComplete ep n) s = .next (s.endTeam ep 0 v 0 0 0))) ∧
  (∀ (s : State) (rd rs1 : Reg), s.cur.2 = 0 → s.me.gang.g = false → s.flushPending s.cur.1 = false →
    let n : Word := s.x rs1
    (n = 0 ∨ 10 < n.toNat → exec (.hwait rd rs1) s = .next (trapped 2 n s)) ∧
    (∀ k : Fin 11, k ≠ 0 → n.toNat = k.val →
      ((s.me.ctx k).alive = true → exec (.hwait rd rs1) s = .next (s.park (.parked (.hwait k)))) ∧
      ((s.me.ctx k).alive = false → exec (.hwait rd rs1) s = .next (s.setX rd (s.me.ctx k).exitVal).advance))))

/-- R139, R141, R150: outside a gang, a context that issues takes the deferred trap of its oldest failing instruction, else a
reported fault, in place of its next instruction, unless that instruction takes an immediate trap; one with a handler that does not
issue takes either at its boundary: the saved registers are those of the failure, RESUME and DEFER are written for a deferred trap
and kept for a report, no register changes, and the context goes on at its handler. R147, R149: a record that reaches its context is posted
in slot RHEAD mod 16 with its number while fewer than 16 are pending, and otherwise counts as lost with its cause; software consumes
records through RTAIL, and a write that would leave the bounds keeps it. -/
def Obligations.DeferredTrapsAndReports : Prop :=
  (∀ (s : State) (ep : Nat) (n : Fin 11),
    let x := s.ctxAt ep n
    (s.core ep).gang.g = false → x.csr.tvec ≠ 0 →
    let saved (t : State) : Prop :=
      let y := t.ctxAt ep n
      y.life = .live ∧ y.hold = .free ∧ y.pc = x.csr.tvec ++ 0#2 ∧ y.x = x.x ∧ y.f = x.f ∧ y.v = x.v ∧ y.m = x.m
    (∀ d rest, x.deferred = d :: rest → s.mayTake ep n = true → s.ready ep n = false →
      ∃ t, exec (.deferredTrap ep n) s = .next t ∧ saved t ∧ (t.ctxAt ep n).deferred = rest ∧
        (t.ctxAt ep n).csr = { x.csr with
          async := false, code := d.code, epc := fld d.epc 2 62, tval := d.tval, pprv := x.csr.prv, prv := true, tip := true } ∧
        (t.ctxAt ep n).rep = { x.rep with
          resume := if d.at_ = true ∧ x.pc = d.epc then d.epc + 4 else x.pc, dv := d.dv, dkind := d.dkind, dreg := d.dreg }) ∧
    (s.reportDue ep n = true → s.ready ep n = false →
      ∃ t, exec (.reportDelivery ep n) s = .next t ∧ saved t ∧
        (t.ctxAt ep n).csr = { x.csr with
          async := true, code := recordCause (mgetD x.rep.slots (x.rep.tail.toNat % 16) []), epc := fld x.pc 2 62,
          tval := s.slotAddr ep n x.rep.tail, pprv := x.csr.prv, prv := true, tip := true } ∧
        (t.ctxAt ep n).rep = x.rep)) ∧
  (∀ (s : State) (ep : Nat) (n : Fin 11), (s.core ep).gang.g = false → s.ready ep n = true → isCompute ep = true →
    let u : State := { (s.modCtx ep n fun x => { x with last := s.cycle }).modCore ep Core.noteRun with cur := (ep, n), out := .done }
    ∀ t, u.issue1 = .next t →
      (∀ c v, t.out = .trapped c v → s.issue ep n = .next (t.dropHeld ep n)) ∧
      ((∀ c v, t.out ≠ .trapped c v) →
        ((u.ctxAt ep n).deferred ≠ [] → u.mayTake ep n = true → s.issue ep n = .next (u.takeDeferred ep n)) ∧
        ((u.ctxAt ep n).deferred = [] ∨ u.mayTake ep n = false →
          (u.reportDue ep n = true → s.issue ep n = .next (u.deliverReport ep n)) ∧
          (u.reportDue ep n = false → s.issue ep n = .next (t.dropHeld ep n))))) ∧
  ((∀ (s : State) (k ep : Nat) (n : Fin 11) (words : List Word),
    s.net[k]? = some (.report ep n words) → (s.ctxAt ep n).alive = true →
    (∀ j c ws, s.net[j]? = some (.report ep c ws) → j ≠ k →
      s.area ep c ≠ n.val ∨ recordKey words < recordKey ws ∨ (recordKey words = recordKey ws ∧ k < j)) →
    exec (.reportPost k) s = .next ((s.take k).modCtx ep n fun c => { c with rep := c.rep.post words })) ∧
  (∀ (r : Reports) (words : List Word),
    ((r.head - r.tail).toNat < 16 → (r.post words).head = r.head + 1 ∧ (r.post words).lost = r.lost ∧
      mgetD (r.post words).slots (r.head.toNat % 16) [] = words ++ [r.head.zeroExtend 64]) ∧
    (16 ≤ (r.head - r.tail).toNat → (r.post words).head = r.head ∧ (r.post words).slots = r.slots ∧
      (r.post words).lost = if r.lost = BitVec.allOnes 32 then r.lost else r.lost + 1)) ∧
  (∀ (s : State) (ep : Nat) (n : Fin 11) (v : BitVec 32),
    let r := (s.ctxAt ep n).rep
    exec (.rtailWrite ep n v) s = .next (s.modCtx ep n fun x =>
      { x with rep := { r with tail := if (r.head - v).toNat ≤ 16 then v else r.tail } })))

/-- R83, R85, R199, R363: a CSR instruction that its rules admit, and whose read does not stall: X[rd] takes the old value, the
register the new one where the instruction writes, and nothing is read for rd = x0 of CSRRW and CSRRWI. The events CSR_WRITE,
KVSTAT_READ and KFBMSG_READ are the write and the two reads that wait; a read of
kfbmsg that finds no message leaves the service core without one in service. -/
def Obligations.CsrInstructions : Prop :=
  ∀ (s t : State) (rd rs1 : Reg) (u : BitVec 5) (csr : BitVec 12) (old : Word),
    let c := csr.toNat
    let rule := csrRule s.ctx.csr.prv (isService s.cur.1) c
    let a : Word := s.x rs1
    let z : Word := u.zeroExtend 64
    let done (t : State) : Res := .next (t.setX rd old).advance
    (rule = .rw → rd = 0 → exec (.csrrw rd rs1 csr) s = .next (s.csrPut c a).advance ∧
      exec (.csrrwi rd u csr) s = .next (s.csrPut c z).advance) ∧
    (rule = .rw → exec (.csrWrite csr old) s = .next (s.csrPut c old)) ∧
    (rule = .rw → s.csrRead c = some (t, old) →
      (rd ≠ 0 → exec (.csrrw rd rs1 csr) s = done (t.csrPut c a) ∧ exec (.csrrwi rd u csr) s = done (t.csrPut c z)) ∧
      (rs1 ≠ 0 → exec (.csrrs rd rs1 csr) s = done (t.csrPut c (old ||| a)) ∧
        exec (.csrrc rd rs1 csr) s = done (t.csrPut c (old &&& ~~~a))) ∧
      (u ≠ 0 → exec (.csrrsi rd u csr) s = done (t.csrPut c (old ||| z)) ∧
        exec (.csrrci rd u csr) s = done (t.csrPut c (old &&& ~~~z)))) ∧
    (rule ≠ .none → s.csrRead c = some (t, old) →
      exec (.csrrs rd 0 csr) s = done t ∧ exec (.csrrc rd 0 csr) s = done t ∧
      exec (.csrrsi rd 0 csr) s = done t ∧ exec (.csrrci rd 0 csr) s = done t) ∧
    (s.vstatReady s.cur.1 s.cur.2 = true →
      exec (.kvstatRead rd) s = .next (s.setX rd (s.ctx.csr.vstat.zeroExtend 64)).advance) ∧
    (s.vstatReady s.cur.1 s.cur.2 = false → exec (.kvstatRead rd) s = .next { s with out := .stalled }) ∧
    (∀ m rest, isService s.cur.1 = true → (s.cluster (clusterOf s.cur.1)).msgs = m :: rest → s.csrRead 0xBC4 = some (t, old) →
      old = m.word ∧ (t.cluster (clusterOf s.cur.1)).serving = true ∧
      (∃ more, (t.cluster (clusterOf s.cur.1)).msgs = rest ++ more ∧ ((s.cluster (clusterOf s.cur.1)).relWait = [] → more = [])) ∧
      exec (.kfbmsgRead rd) s = done t) ∧
    (isService s.cur.1 = true → (s.cluster (clusterOf s.cur.1)).msgs = [] →
      ∃ t, exec (.kfbmsgRead rd) s = .next t ∧ t.out = .stalled ∧ (t.cluster (clusterOf s.cur.1)).serving = false)

/-- R14, R16, R83, R84, R86: of every address, whether a register is there for the level and the core, and whether it takes writes; an
access that the rules forbid is an illegal instruction: of any register that does not exist, of the system registers at app level, of
the translation block on a compute core (R360), and a write of a read-only register. R17, R18, R83, R86, R198, R205: a write reaches
exactly the fields that the register's map marks writable: a read after it gives the written bits in them and the old value
elsewhere. -/
def Obligations.CsrAccessAndFields : Prop :=
  (∀ (sys service : Bool) (c : BitVec 12), csrRule sys service c.toNat =
    if c ∈ ([0x001, 0x002, 0x003, 0x7C7, 0x7C8, 0x7E0, 0x7E1, 0x7E2, 0x7E3, 0xBD4] : List (BitVec 12)) then .rw
    else if c ∈ ([0x7C9, 0x7CA, 0x7D0, 0x7D1, 0x7D2, 0x7F0, 0x7F1, 0x7F2, 0xBD0, 0xBD1, 0xBD2, 0xBD3, 0xBD5, 0xBD6, 0xBD7,
        0xBE0, 0xBE1, 0xBE2, 0xBE3, 0xBF0, 0xBF1, 0xBF2, 0xBF3, 0xBF4, 0xC00, 0xC01, 0xFC0, 0xFC1, 0xFC2] : List (BitVec 12)) then .ro
    else if c ∈ ([0x7C0, 0x7C6] : List (BitVec 12)) then (if sys = true then .rw else .ro)
    else if c ∈ ([0x7C1, 0x7C2, 0x7C3, 0x7C4, 0x7C5, 0x7E4] : List (BitVec 12)) then (if sys = true then .rw else .none)
    else if c ∈ ([0x7F3, 0x7F4, 0x7F5, 0x7F6, 0x7F7] : List (BitVec 12)) then (if sys = true then .ro else .none)
    else if c ∈ ([0xBC0, 0xBC1] : List (BitVec 12)) then (if service = true then .rw else .none)
    else if c ∈ ([0xBC2, 0xBC3, 0xBC4, 0xBC5, 0xBC6] : List (BitVec 12)) then (if service = true then .ro else .none)
    else .none) ∧
  (∀ (s : State) (rd rs1 : Reg) (csr : BitVec 12),
    let rule := csrRule s.ctx.csr.prv (isService s.cur.1) csr.toNat
    let no := Host.Outcome.next (trapped 2 0 s)
    (rule = .none →
      exec (.csrrw rd rs1 csr) s = no ∧ exec (.csrrs rd rs1 csr) s = no ∧ exec (.csrrc rd rs1 csr) s = no ∧
      exec (.csrrwi rd rs1 csr) s = no ∧ exec (.csrrsi rd rs1 csr) s = no ∧ exec (.csrrci rd rs1 csr) s = no) ∧
    (rule = .ro → exec (.csrrw rd rs1 csr) s = no ∧ exec (.csrrwi rd rs1 csr) s = no ∧
      (rs1 ≠ 0 → exec (.csrrs rd rs1 csr) s = no ∧ exec (.csrrc rd rs1 csr) s = no ∧
        exec (.csrrsi rd rs1 csr) s = no ∧ exec (.csrrci rd rs1 csr) s = no))) ∧
  (∀ (s : State) (w : Word), ∀ p ∈ ([(0x001, 0x1F), (0x002, 0x7), (0x003, 0xFF), (0x7C0, 0x100), (0x7C1, 0x800000000000003F),
      (0x7C2, 0xFFFFFFFFFFFFFFFC), (0x7C3, 0xFFFFFFFFFFFFFFFF), (0x7C4, 0xFFFFFFFFFFFFFFFC), (0x7C5, 0xFFFFFFFFFFFFFFFF),
      (0x7C6, 0xF), (0x7C7, 0xFFFFFFFFFFFFFFFF), (0x7C8, 0xF), (0x7E0, 0x1F), (0x7E1, 0xF), (0x7E2, 0x1F), (0x7E3, 0x3),
      (0x7E4, 0xFFFFFFFF0000001F), (0xBC1, 0x7)] : List (Nat × Word)),
    s.me.kmcap &&& 0xFFFFFFE0 = 0 →
    (s.csrPut p.1 w).csrValue p.1 = (w &&& p.2) ||| (s.csrValue p.1 &&& ~~~p.2))

/-- R78, R80, R315, R316: FENCE with an empty set, FENCE.I and FENCE.S of scope 0 only advance. A FENCE of both sets, FENCE.TSO and
a releasing FENCE.S send the context's buffered entries on, and complete when everything earlier of the context is performed, else
they stall; an acquiring FENCE.S waits for the context's reads; an SC one stalls while anything earlier is not performed, and is then
announced and waits for its place; reserved scopes are cause 2. That a store to a HOST page or a window is performed at its issue, and
so precedes a fence of every scope, is the model's (log 131). -/
def Obligations.Fences : Prop :=
  ∀ (s : State) (pred succ : BitVec 4) (sc rel acq : BitVec 1) (scope : BitVec 3),
    let r := s.relStep
    let bad : Prop := 6 ≤ scope.toNat ∨ (sc = 1 ∧ scope.toNat < 4)
    (pred = 0 ∨ succ = 0 → exec (.fence pred succ) s = .next s.advance) ∧
    exec .fenceI s = .next s.advance ∧
    (bad → exec (.fenceS sc rel acq scope) s = .next (trapped 2 0 s)) ∧
    (¬bad → scope = 0 → exec (.fenceS sc rel acq scope) s = .next s.advance) ∧
    (s.flushPending s.cur.1 = false →
      (pred ≠ 0 → succ ≠ 0 →
        exec (.fence pred succ) s = .next (if r.2 = true then r.1.advance else { r.1 with out := .stalled })) ∧
      exec .fenceTso s = .next (if r.2 = true then r.1.advance else { r.1 with out := .stalled }) ∧
      (¬bad → scope ≠ 0 → sc = 0 → (rel = 1 ∨ acq = 0) →
        exec (.fenceS sc rel acq scope) s = .next (if r.2 = true then r.1.advance else { r.1 with out := .stalled })) ∧
      (¬bad → scope ≠ 0 → sc = 0 → rel = 0 → acq = 1 →
        exec (.fenceS sc rel acq scope) s =
          .next (if s.readsBack s.cur.1 s.cur.2 = true then s.advance else { s with out := .stalled })) ∧
      (¬bad → sc = 1 → r.2 = true →
        exec (.fenceS sc rel acq scope) s = .next ((r.1.holdOn .sc).announce s.cur.1 s.cur.2 .fence)) ∧
      (¬bad → sc = 1 → r.2 = false → exec (.fenceS sc rel acq scope) s = .next { r.1 with out := .stalled }))

/-- R87, R88: the rounded arithmetic: F[rd] takes the exact value rounded once in the instruction's mode, the flags accrue, and
nothing else changes; a reserved mode is an illegal instruction. -/
def Obligations.FloatArithmetic : Prop :=
  ∀ (s : State) (rd rs1 rs2 rs3 : Reg) (rm : BitVec 3),
    let a := s.fv rs1
    let b := s.fv rs2
    let c := s.fv rs3
    (∀ r, s.rnd rm = some r →
      let down : Bool := decide (r = .rdn)
      let done (x : Val × Flags) : Res :=
        let v := encodeArith fp32 r x
        .next ((s.setF rd (BitVec.ofNat 32 v.1)).fflags v.2).advance
      exec (.fmaddS rd rs1 rs2 rs3 rm) s = done (vFma down a b c) ∧
      exec (.fmsubS rd rs1 rs2 rs3 rm) s = done (vFma down a b c.negate) ∧
      exec (.fnmsubS rd rs1 rs2 rs3 rm) s = done (vFma down a.negate b c) ∧
      exec (.fnmaddS rd rs1 rs2 rs3 rm) s = done (vFma down a.negate b c.negate) ∧
      exec (.faddS rd rs1 rs2 rm) s = done (vAdd down a b) ∧
      exec (.fsubS rd rs1 rs2 rm) s = done (vAdd down a b.negate) ∧
      exec (.fmulS rd rs1 rs2 rm) s = done (vMul a b) ∧
      exec (.fdivS rd rs1 rs2 rm) s = done (vDiv a b) ∧
      exec (.fsqrtS rd rs1 rm) s = done (vSqrt a) ∧
      exec (.fcvtSW rd rs1 rm) s = done (Val.ofInt ((s.x rs1).extractLsb' 0 32).toInt 0 false, 0) ∧
      exec (.fcvtSWu rd rs1 rm) s = done (Val.ofInt ((s.x rs1).extractLsb' 0 32).toNat 0 false, 0) ∧
      exec (.fcvtSL rd rs1 rm) s = done (Val.ofInt (s.x rs1).toInt 0 false, 0) ∧
      exec (.fcvtSLu rd rs1 rm) s = done (Val.ofInt (s.x rs1).toNat 0 false, 0)) ∧
    (s.rnd rm = none →
      ∀ i ∈ ([.fmaddS rd rs1 rs2 rs3 rm, .fmsubS rd rs1 rs2 rs3 rm, .fnmsubS rd rs1 rs2 rs3 rm, .fnmaddS rd rs1 rs2 rs3 rm,
        .faddS rd rs1 rs2 rm, .fsubS rd rs1 rs2 rm, .fmulS rd rs1 rs2 rm, .fdivS rd rs1 rs2 rm, .fsqrtS rd rs1 rm,
        .fcvtSW rd rs1 rm, .fcvtSWu rd rs1 rm, .fcvtSL rd rs1 rm, .fcvtSLu rd rs1 rm, .fcvtWS rd rs1 rm, .fcvtWuS rd rs1 rm,
        .fcvtLS rd rs1 rm, .fcvtLuS rd rs1 rm] : List Instr), exec i s = .next (trapped 2 0 s)) ∧
    (s.rnd rm = none ↔ rm = 5 ∨ rm = 6 ∨ (rm = 7 ∧ 5 ≤ (s.ctx.csr.fcsr.extractLsb' 5 3).toNat))

/-- R88 to R91: moves, sign injection, comparisons, minima, maxima and classes, on the bits of the operands. A comparison is that of
the numbers, −0 equal to +0; with a NaN it is 0; FEQ sets NV for a signalling NaN only, FLT and FLE for any NaN. FMIN and FMAX give
the number beside a NaN, the canonical NaN for two, and order −0 below +0. R90: a conversion to an integer: the value rounded in the
mode, NX where rounding changed it; outside the range of the destination the bound on its side, and for a NaN the upper bound, with
NV alone. W and WU results are sign-extended from bit 31. -/
def Obligations.FloatMovesAndConversions : Prop :=
  (∀ (s : State) (rd rs1 rs2 : Reg),
    let a := s.f rs1
    let b := s.f rs2
    let nan (v : BitVec 32) : Bool := v.extractLsb' 23 8 == 0xFF#8 && v.extractLsb' 0 23 != 0
    let snan (v : BitVec 32) : Bool := nan v && !v.getLsbD 22
    let mag (v : BitVec 32) : Int := (v.extractLsb' 0 31).toNat
    let num (v : BitVec 32) : Int := if v.getLsbD 31 = true then -(mag v) else mag v
    let doneX (v : Bool) (nv : Bool) : Res :=
      .next ((s.setX rd (if v = true then 1 else 0)).fflags (if nv = true then fNV else 0)).advance
    let doneF (v : BitVec 32) (nv : Bool) : Res := .next ((s.setF rd v).fflags (if nv = true then fNV else 0)).advance
    exec (.fmvXW rd rs1) s = .next (s.setX rd (a.signExtend 64)).advance ∧
    exec (.fmvWX rd rs1) s = .next (s.setF rd ((s.x rs1).extractLsb' 0 32)).advance ∧
    exec (.fsgnjS rd rs1 rs2) s = .next (s.setF rd (b.extractLsb' 31 1 ++ a.extractLsb' 0 31)).advance ∧
    exec (.fsgnjnS rd rs1 rs2) s = .next (s.setF rd (~~~(b.extractLsb' 31 1) ++ a.extractLsb' 0 31)).advance ∧
    exec (.fsgnjxS rd rs1 rs2) s =
      .next (s.setF rd ((a.extractLsb' 31 1 ^^^ b.extractLsb' 31 1) ++ a.extractLsb' 0 31)).advance ∧
    exec (.feqS rd rs1 rs2) s = doneX (!nan a && !nan b && decide (num a = num b)) (snan a || snan b) ∧
    exec (.fltS rd rs1 rs2) s = doneX (!nan a && !nan b && decide (num a < num b)) (nan a || nan b) ∧
    exec (.fleS rd rs1 rs2) s = doneX (!nan a && !nan b && decide (num a ≤ num b)) (nan a || nan b) ∧
    exec (.fminS rd rs1 rs2) s = doneF
      (if nan a = true ∧ nan b = true then 0x7FC00000 else if nan a = true then b else if nan b = true then a
        else if num a < num b ∨ (num a = num b ∧ a.getLsbD 31 = true) then a else b) (snan a || snan b) ∧
    exec (.fmaxS rd rs1 rs2) s = doneF
      (if nan a = true ∧ nan b = true then 0x7FC00000 else if nan a = true then b else if nan b = true then a
        else if num b < num a ∨ (num a = num b ∧ a.getLsbD 31 = false) then a else b) (snan a || snan b) ∧
    exec (.fclassS rd rs1) s = .next (s.setX rd (BitVec.ofNat 64 (2 ^
      (if snan a = true then 8 else if nan a = true then 9
        else if a.extractLsb' 23 8 = 0xFF#8 then (if a.getLsbD 31 = true then 0 else 7)
        else if mag a = 0 then (if a.getLsbD 31 = true then 3 else 4)
        else if a.extractLsb' 23 8 = 0#8 then (if a.getLsbD 31 = true then 2 else 5)
        else if a.getLsbD 31 = true then 1 else 6)))).advance) ∧
  (∀ (s : State) (rd rs1 : Reg) (rm : BitVec 3) (r : Rnd), s.rnd rm = some r →
    let value (lo hi : Int) : Int × Flags :=
      match s.fv rs1 with
      | .nan _ _ => (hi, fNV)
      | .inf neg => (if neg = true then lo else hi, fNV)
      | .fin neg m e =>
        let q := roundAt r neg m e 0
        let v : Int := if neg = true then -(q.1 : Int) else q.1
        if v < lo then (lo, fNV) else if v > hi then (hi, fNV) else (v, if q.2 = true then fNX else 0)
    let done (x : Int × Flags) (n : Nat) : Res :=
      .next ((s.setX rd ((BitVec.ofInt n x.1).signExtend 64)).fflags x.2).advance
    exec (.fcvtWS rd rs1 rm) s = done (value (-2 ^ 31) (2 ^ 31 - 1)) 32 ∧
    exec (.fcvtWuS rd rs1 rm) s = done (value 0 (2 ^ 32 - 1)) 32 ∧
    exec (.fcvtLS rd rs1 rm) s = done (value (-2 ^ 63) (2 ^ 63 - 1)) 64 ∧
    exec (.fcvtLuS rd rs1 rm) s = done (value 0 (2 ^ 64 - 1)) 64)

/-! ## Contexts, carves, gangs, domains (R22 to R31, R151 to R162, R329 to R344, R386 to R417) -/

/-- R159, R160, R336, R337, R338: CARVE of a helper is cause 2, a malformed descriptor or mask cause 24; otherwise, its accesses
performed, context 0 waits at the team barrier. GANG waits at the rendezvous of a set that is not ganged, SPLIT at that of a gang;
all else is cause 2. R161, R162: the helpers of a core that is not in a gang have arrived and the drain has ended: CARVE_RECONFIGURE
ends the phase, refuses with a code or takes the new carve, writes X[rd], and releases the barrier. Under the new carve the
scratchpad banks of both carves keep their bytes and the others are zero, accumulators that were or become disabled are +0, vector
files are kept, HNEXT is 1 with helpers and 0 without, and the full words are those of banks that both carves synchronise. R337,
R338: every core of a set waits at GANG and has drained: a refusal gives its code to every core, and each goes on at its own pc + 4;
otherwise every member is ganged, takes 0, and goes on behind the leader's GANG with its own registers. Every member of a gang waits
at SPLIT: each is alone again, takes its rank, and goes on behind its own SPLIT, with HNEXT 0. -/
def Obligations.CarvesAndGangs : Prop :=
  ((∀ (s : State) (rd rs1 rs2 : Reg),
    let desc := s.leaderX rs1
    let mask := s.leaderX rs2
    (s.cur.2 ≠ 0 → exec (.carve rd rs1 rs2) s = .next (trapped 2 0 s) ∧ exec (.gang rd) s = .next (trapped 2 0 s) ∧
      exec (.split rd) s = .next (trapped 2 0 s)) ∧
    (s.cur.2 = 0 →
      (carveDesc desc mask = none → exec (.carve rd rs1 rs2) s = .next (trapped 24 0 s)) ∧
      (∀ d, carveDesc desc mask = some d → s.me.gang.g = false ∨ d.hmax = 0 → s.relStep.2 = true →
        exec (.carve rd rs1 rs2) s = .next (s.relStep.1.park (.waiting (.carve rd desc mask)))) ∧
      (s.me.gang.shape ≠ 0 → s.me.gang.g = false → exec (.gang rd) s = .next (s.park (.waiting (.gang rd)))) ∧
      (s.me.gang.shape = 0 ∨ s.me.gang.g = true → exec (.gang rd) s = .next (trapped 2 0 s)) ∧
      (s.me.gang.g = true → exec (.split rd) s = .next (s.park (.waiting (.split rd)))) ∧
      (s.me.gang.g = false → exec (.split rd) s = .next (trapped 2 0 s)))) ∧
  ∀ desc mask : Word,
    let l := (desc.extractLsb' 0 6).toNat
    let h := (desc.extractLsb' 8 4).toNat
    let q := (desc.extractLsb' 12 2).toNat
    let m : Nat := if desc.getLsbD 6 = true then 8 else 0
    let banks := 64 - l - m - (1 + h + 3) / 4 - q
    ((carveDesc desc mask).isSome = true ↔ desc.extractLsb' 15 49 = 0 ∧ desc.getLsbD 7 = false ∧ q ≤ 2 ∧ 16 ≤ l ∧ l ≤ 32 ∧ h ≤ 10 ∧
      mask.toNat < 2 ^ banks)) ∧
  ((∀ (s : State) (ep : Nat) (rd : Reg) (desc mask : Word) (d : CarveDesc) (g : Domain),
    (s.core ep).gang.g = false → (s.ctxAt ep 0).life = .waiting (.carve rd desc mask) → carveDesc desc mask = some d →
    s.domain 0 ((s.ctxAt ep 0).csr.dom[0]).dom = some g → (s.core ep).helpersArrived = true → (s.core ep).frozen = false →
    s.teamDrained [ep] = true → s.entriesWait g = false →
    let u := s.sendOn [ep]
    let code := u.carveRefusal [ep] d
    let v := u.endPhase g (decide (g.count ≤ g.quota)) g.count
    let w := if code = 0 then v.recarve ep d else v
    exec (.carveReconfigure ep) s = .next ((w.modCtx ep 0 fun x => x.endCarve rd code).release1 g)) ∧
  (∀ (c : Core) (d : CarveDesc),
    let e := c.recarve d
    let both := min c.sbanks d.sbanks
    e.l1b = d.l1b ∧ e.mx = d.mx ∧ e.hmax = d.hmax ∧ e.aqb = d.aqb ∧ e.ftrap = d.ftrap ∧ e.sync = d.sync ∧
    e.hnext = (if d.hmax ≥ 1 then 1 else 0) ∧ e.ctxs = c.ctxs ∧
    (e.z = if c.mx = true ∧ d.mx = true then c.z else []) ∧
    (keysRise c.pad = true → ∀ off, byteAt e.pad off = if off / 65536 < both then byteAt c.pad off else 0) ∧
    (∀ w, w ∈ e.full ↔ w ∈ c.full ∧ 4 * w / 65536 < both ∧ c.sync.getLsbD (w / 16384) = true ∧ d.sync.getLsbD (w / 16384) = true))) ∧
  (∀ (s : State) (ep : Nat) (rd : Nat → Reg),
    let set := (s.core ep).gang.set
    let lead := s.ctxAt (set.headD ep) 0
    set ≠ [] → set.Nodup → (∀ e ∈ set, (s.core e).frozen = false) → s.gangWhole set = true → s.gangDrained set = true →
    let code := (s.sendOn set).gangRefusal set
    let went (t : State) (e : Nat) (v : Nat) (pc : Word) : Prop :=
      (t.ctxAt e 0).life = .live ∧ (t.ctxAt e 0).pc = pc ∧ (t.ctxAt e 0).f = (s.ctxAt e 0).f ∧ (t.ctxAt e 0).v = (s.ctxAt e 0).v ∧
      ∀ r : Reg, (t.ctxAt e 0).rx r = if r = 0 then 0 else if r = rd e then BitVec.ofNat 64 v else (s.ctxAt e 0).rx r
    ((∀ e ∈ set, (s.ctxAt e 0).life = .waiting (.gang (rd e))) →
      ∃ t, exec (.gangRendezvous ep) s = .next t ∧
        (code ≠ 0 → ∀ e ∈ set, (t.core e).gang = (s.core e).gang ∧ went t e code ((s.ctxAt e 0).pc + 4)) ∧
        (code = 0 → ∀ e ∈ set, (t.core e).gang.g = true ∧ went t e 0 (lead.pc + 4) ∧
          (t.ctxAt e 0).csr = { (s.ctxAt e 0).csr with dom := (s.ctxAt e 0).csr.dom.set 0 (lead.csr.dom[0]) })) ∧
    ((∀ e ∈ set, (s.ctxAt e 0).life = .waiting (.split (rd e))) →
      ∃ t, exec (.gangRendezvous ep) s = .next t ∧
        ∀ e ∈ set, (t.core e).gang.g = false ∧ (t.core e).hnext = 0 ∧
          went t e (s.core e).gang.rank.toNat ((s.ctxAt e 0).pc + 4)))

/-- R391, R403: BAR above level 3 or without a domain is cause 2; otherwise, the release of its scope being done, the context of a
timed domain waits at the barrier, and that of an untimed one announces the operation and waits there once it is delivered. R129,
R345, R390, R395: a domain of one device all of whose members have arrived, with every entry placed, is released: its fold lines are
racked while the records of the phase are within the quota, and else discarded; then every member context that waits there goes on
at pc + 4 with PHASE inverted. The cluster's unit does the same for level 1. -/
def Obligations.Barriers : Prop :=
  (∀ (s : State) (lvl : BitVec 5),
    (4 ≤ lvl.toNat → exec (.bar lvl) s = .next (trapped 2 0 s)) ∧
    ∀ k : Fin 4, lvl.toNat = k.val →
      let d := s.ctx.csr.dom[k]
      let r := s.relStep
      (d.v = false → exec (.bar lvl) s = .next (trapped 2 (lvl.zeroExtend 64) s)) ∧
      (d.v = true → s.flushPending s.cur.1 = false → r.2 = false → exec (.bar lvl) s = .next { r.1 with out := .stalled }) ∧
      (d.v = true → s.flushPending s.cur.1 = false → d.t = true → r.2 = true → exec (.bar lvl) s = .next (r.1.park (.waiting (.bar (lvl.extractLsb' 0 2))))) ∧
      (d.v = true → s.flushPending s.cur.1 = false → d.t = false → r.2 = true →
        exec (.bar lvl) s = .next ((r.1.holdOn .sc).announce s.cur.1 s.cur.2 (.bar (lvl.extractLsb' 0 2))))) ∧
  ((∀ (s : State) (k : Nat) (d : Domain),
    s.domains[k]? = some d → s.barrierReady d = true →
    let t := (s.endPhase d (decide (d.count ≤ d.quota)) d.count).release1 d
    (d.lvl ≠ 4 → exec (.barrierRelease k) s = .next t) ∧
    (d.lvl = 1 → exec (.clusterBarrierRelease k) s = .next t)) ∧
  (∀ (s u : State) (k : Nat) (d : Domain), s.domains[k]? = some d → d.lvl = 4 → s.fabricBarrier d = some u →
    exec (.barrierRelease k) s = .next u) ∧
  (∀ (x : Ctx) (k : Fin 4),
    let y := x.released k.val
    let g := x.csr.dom[k]
    y.life = .live ∧ y.pc = x.pc + 4 ∧ y.x = x.x ∧ y.v = x.v ∧ y.sig = x.sig ∧
    y.csr = { x.csr with
      dom := x.csr.dom.set k { g with phase := !g.phase }
      qActive := x.csr.qActive && !(x.csr.qLvl == g.lvl && x.csr.qDom == g.dom) }))

/-- R393, R394, R395: a SEND that passes its checks reads V[rs2] and completes; the entry is staged at the receiver when the channel
has room, and else waits at its port. A receiver outside the domain, without arrival queues or whose plan names the channel gives a
deferred cause 24 with ktval X[rs1]. R398, R400: TSEND refuses what breaks its slot with cause 20 and otherwise stalls, with the
data read, for the next occurrence of its slot that no TSEND has used; when that starts, TSEND_SLOT_SEND sends the entry on and the
context goes on. R395, R401: a timed entry that has arrived enters its channel when there is room and nothing earlier waits, else
the holding buffer of eight entries, else it waits in the router and sets LATE of the core's contexts; and room that is freed goes
to a held entry, then to one in the router, then to one that waits at the port. That a SEND reaches the receiver's port in the step in
which it issues is log 56. -/
def Obligations.TimedEntries : Prop :=
  (∀ (s : State) (rs1 rs2 : Reg) (data : BitVec 4096),
    let w : Word := s.x rs1
    let dst := (w.extractLsb' 16 11).toNat
    let ch : Fin 8 := (w.extractLsb' 0 3).toFin
    let bad : Prop := w.extractLsb' 27 37 ≠ 0 ∨ w.extractLsb' 10 6 ≠ 0 ∨ w.extractLsb' 3 5 ≠ 0
    (bad → exec (.send rs1 rs2) s = .next (trapped 2 w s)) ∧
    ∀ k : Fin 4, ¬bad → (w.extractLsb' 8 2).toNat = k.val →
      let d := s.ctx.csr.dom[k]
      let t := ((s.consume s.cur.1 s.cur.2 rs2).modCore s.cur.1 fun c => { c with nextAge := s.me.nextAge + 1 }).advance
      let late : State := t.defer s.cur.1 s.cur.2 s.me.nextAge 24 s.pc w .none
      (d.v = false → exec (.send rs1 rs2) s = .next (trapped 2 (BitVec.ofNat 64 k.val) s)) ∧
      (d.v = true → isCompute dst = false → exec (.send rs1 rs2) s = .next (trapped 24 w s)) ∧
      (d.v = true → isCompute dst = true → s.misuse [rs2] [] [rs2] = false → s.vsrc rs2 = .ok data →
        s.admitted (s.master s.cur.1) kCore dst rCommand = true →
        (∀ to_, (s.domain d.lvl d.dom).bind (fun g => s.memberAt g dst) = some to_ →
          ((s.core to_).aqb = 0 ∨ s.planned to_ ch = true → exec (.send rs1 rs2) s = .next late) ∧
          ((s.core to_).aqb ≠ 0 → s.planned to_ ch = false →
            exec (.send rs1 rs2) s = .next ({ t with next := t.next + 1 }.stage to_
              ⟨ch, d.lvl, d.dom, s.cur.1, s.cur.2.val, s.next, 0, data⟩))) ∧
        ((s.domain d.lvl d.dom).bind (fun g => s.memberAt g dst) = none → exec (.send rs1 rs2) s = .next late))) ∧
  ((∀ (s : State) (rs1 rs2 : Reg) (data : BitVec 4096),
    let w : Word := s.x rs1
    let dst := (w.extractLsb' 16 11).toNat
    let slot := (w.extractLsb' 8 8).toNat
    let ch : Fin 8 := (w.extractLsb' 0 3).toFin
    let d := s.ctx.csr.dom[2]
    let bad : Prop := w.extractLsb' 27 37 ≠ 0 ∨ w.extractLsb' 3 5 ≠ 0
    (bad → exec (.tsend rs1 rs2) s = .next (trapped 2 w s)) ∧
    (¬bad → d.v = false ∨ d.t = false ∨ d.phase = false →
      exec (.tsend rs1 rs2) s = .next (trapped 20 (BitVec.ofNat 64 slot) s)) ∧
    (∀ g r, ¬bad → d.v = true → d.t = true → d.phase = true → s.domain d.lvl d.dom = some g → g.plan[slot]? = some r →
      (r.src ≠ s.cur.1 ∨ r.dst ≠ dst ∨ r.ch ≠ ch → exec (.tsend rs1 rs2) s = .next (trapped 20 (BitVec.ofNat 64 slot) s)) ∧
      (r.src = s.cur.1 → r.dst = dst → r.ch = ch → s.misuse [rs2] [] [rs2] = false → s.vsrc rs2 = .ok data →
        ∃ t, exec (.tsend rs1 rs2) s = .next t ∧ t.ctx.hold = .tsend slot dst ch data (g.occurrence r s.cycle) ∧
          t.pc = s.pc ∧ OnlyContext s t))) ∧
  (∀ (s : State) (ep : Nat) (n : Fin 11) (slot dst due : Nat) (ch : Fin 8) (data : BitVec 4096) (g : Domain) (r : SlotRec),
    let x := s.ctxAt ep n
    let d := x.csr.dom[2]
    x.hold = .tsend slot dst ch data due → s.domain d.lvl d.dom = some g → g.plan[slot]? = some r → (s.core ep).frozen = false →
    s.stoppedAt g due = false → g.start + r.off + r.used * (g.plen + 1) ≤ due → due ≤ s.cycle → x.took = none →
    let u := s.setDomain { g with plan := setAt g.plan slot { r with used := (due - g.start - r.off) / (g.plen + 1) + 1 } }
    exec (.tsendSlotSend ep n) s = .next (({ u with next := u.next + 1 }.post
      (.send dst ⟨ch, d.lvl, d.dom, ep, n.val, s.next, due, data⟩ x.pc (BitVec.ofNat 64 (dst * 65536 + slot * 256 + ch.val)))).modCtx ep n
        Ctx.passHeld)) ∧
  (∀ (d : Domain) (r : SlotRec) (now : Nat),
    let t := d.occurrence r now
    now ≤ t ∧ d.start + r.off + r.used * (d.plen + 1) ≤ t ∧ (t - d.start - r.off) % (d.plen + 1) = 0 ∧
    ∀ n, r.used ≤ n → now ≤ d.start + r.off + n * (d.plen + 1) → t ≤ d.start + r.off + n * (d.plen + 1))) ∧
  ((∀ (s : State) (k to_ : Nat) (a : Arrival) (pc word : Word),
    s.net[k]? = some (.send to_ a pc word) → a.due ≤ s.cycle →
    (∀ m ∈ s.net.take k, ∀ e b p w, m = .send e b p w → ¬(e = to_ ∧ b.ch = a.ch)) →
    s.admitted (s.master a.ep) kCore to_ rCommand = true → (s.core to_).aqb ≠ 0 →
    let c := s.core to_
    let u := s.take k
    let clear := earlier a.ch c.timed = false
    (c.hasRoom a.ch = true → earlier a.ch c.timedHeld = false → clear →
      exec (.timedArrival k) s = .next ((u.setCore to_ (c.append a)).wake (stackOf to_))) ∧
    (c.hasRoom a.ch = false ∨ earlier a.ch c.timedHeld = true → c.timedHeld.length < 8 → clear →
      exec (.timedArrival k) s = .next (u.setCore to_ { c with timedHeld := c.timedHeld ++ [a] })) ∧
    (¬clear ∨ (8 ≤ c.timedHeld.length ∧ (c.hasRoom a.ch = false ∨ earlier a.ch c.timedHeld = true)) →
      ∃ t, exec (.timedArrival k) s = .next t ∧ (t.core to_).timed = c.timed ++ [a] ∧ (t.core to_).chans = c.chans ∧
        ∀ n, (c.ctx n).alive = true → (t.ctxAt to_ n).csr.late = true)) ∧
  (∀ (s : State) (ep : Nat) (ch : Fin 8),
    let c := s.core ep
    let mine (a : Arrival) : Bool := a.ch == ch
    c.hasRoom ch = true → c.alive ≠ [] →
    (∀ a rest, takeFirst mine c.timedHeld = some (a, rest) →
      ∃ t, exec (.channelRoomFreed ep ch) s = .next t ∧ (t.core ep).chans = c.chans.set ch (c.chans[ch] ++ [a.data]) ∧
        (t.core ep).timedHeld = rest ++ c.timed.take 1 ∧ (t.core ep).timed = c.timed.drop 1) ∧
    (∀ a rest, takeFirst mine c.timedHeld = none → takeFirst mine c.timed = none → takeFirst mine c.wantRoom = some (a, rest) →
      exec (.channelRoomFreed ep ch) s = .next (s.setCore ep { c with wantRoom := rest, staged := c.staged ++ [a] }))))

/-- R410, R411, R412: QARM checks its index and entry, records the arm and ends a running handler; a firing handler enters at its
entry with the abandoned address in kqpc and its arm consumed; QRETIRE outside a handler, or of no member, is cause 2, of a retired
context only advances, and otherwise retires the context, or with context 0 or a gang the team. R406, R407, R413: the detector
samples every 1,024 cycles, and no sooner; a sample records the idle scopes and the wake events; a domain meets the condition when it
is idle at this sample and the one before with no wake event between, HWAKE is clear, no member is pre-empted, no barrier is to be
released and some member waits; of those that meet it, the sample declares the ones not declared in this phase of which a core is in
no wider one that meets it, and its coordinator starts the exchange of a fabric domain instead. The coordinator sends its probes while
its own part is idle, and else waits for the next sample that finds it so; when all devices have answered it sends the second wave,
declares the domain, or gives up; 4,096 cycles later the exchange may start again. That a level-4 domain which meets the condition on
this device takes the declaration from narrower ones, whatever the other devices' parts do, is the model's reading (log 128), and so are
IDX 0 after a QARM that disarms (log 57), the devices to which a probe goes (log 24) and that a context of a team that has completed is no
member for QRETIRE (log 140). -/
def Obligations.Quiescence : Prop :=
  ((∀ (s : State) (rs1 rs2 : Reg),
    let i : Word := s.x rs2
    let entry : Word := s.x rs1
    (4 ≤ i.toNat → exec (.qarm rs1 rs2) s = .next (trapped 2 i s)) ∧
    ∀ k : Fin 4, i.toNat = k.val →
      ((s.ctx.csr.dom[k]).v = false → exec (.qarm rs1 rs2) s = .next (trapped 2 i s)) ∧
      ((s.ctx.csr.dom[k]).v = true → entry.toNat % 4 ≠ 0 → exec (.qarm rs1 rs2) s = .next (trapped 0 entry s)) ∧
      ((s.ctx.csr.dom[k]).v = true → entry.toNat % 4 = 0 → exec (.qarm rs1 rs2) s =
        .next (s.setCtx { s.ctx with csr := { s.ctx.csr with
          armEntry := entry.extractLsb' 2 62, armIdx := if entry = 0 then 0 else BitVec.ofNat 2 k.val, qActive := false } }).advance)) ∧
  (∀ (s : State) (ep : Nat) (n : Fin 11) (d : Domain) (waiting : Nat),
    let x := s.ctxAt ep n
    let y := (s.fire ep n d waiting).ctxAt ep n
    y.pc = x.csr.armEntry ++ 0#2 ∧ y.x = x.x ∧ y.f = x.f ∧ y.v = x.v ∧
    y.csr = { x.csr with
      qpc := x.pc, qActive := true, qLvl := d.lvl, qDom := d.dom, qNwait := BitVec.ofNat 16 (min waiting 65535)
      armEntry := 0, armIdx := 0 }) ∧
  (∀ (s : State) (rs1 : Reg),
    let w : Word := s.x rs1
    let target := (w.extractLsb' 16 11).toNat
    let c := s.ctx.csr
    (w.extractLsb' 27 37 ≠ 0 ∨ w.extractLsb' 4 12 ≠ 0 ∨ 11 ≤ (w.extractLsb' 0 4).toNat ∨ c.qActive = false ∨ isCompute target = false →
      exec (.qretire rs1) s = .next (trapped 2 w s)) ∧
    ((s.domain c.qLvl c.qDom).bind (fun d => s.memberAt d target) = none → exec (.qretire rs1) s = .next (trapped 2 w s)) ∧
    (∀ (n : Fin 11) (e : Nat), w.extractLsb' 27 37 = 0 → w.extractLsb' 4 12 = 0 → (w.extractLsb' 0 4).toNat = n.val → c.qActive = true →
      isCompute target = true → (s.domain c.qLvl c.qDom).bind (fun d => s.memberAt d target) = some e →
      ((s.ctxAt e n).alive = false → exec (.qretire rs1) s = .next s.advance) ∧
      ((s.ctxAt e n).alive = true →
        let t := if n = 0 ∨ (s.core e).gang.g = true then s.endTeam e 2 0 0 0 0 else s.retireCtx e n 0
        ((s.core e).gang.g = false → (t.ctxAt e n).alive = false) ∧
        ((t.ctxAt s.cur.1 s.cur.2).alive = true → exec (.qretire rs1) s = .next t.advance) ∧
        ((t.ctxAt s.cur.1 s.cur.2).alive = false → exec (.qretire rs1) s = .next { t with out := .done }))))) ∧
  ((∀ s : State,
    let met := s.domains.filter fun d => s.settled d (s.scopeIdle d.dies)
    let goes (d : Domain) : Bool := s.settled d (s.scopeIdle d.dies) && !d.declared && widest met d
    let same (d g : Domain) : Bool := g.lvl == d.lvl && g.dom == d.dom
    (s.cycle < 1024 * (s.det.samples + 1) → exec .detectorSample s = .next s) ∧
    (1024 * (s.det.samples + 1) ≤ s.cycle →
      ∃ t, exec .detectorSample s = .next t ∧
        t.det = { s.det with
          samples := s.cycle / 1024
          idle := (s.domains.filter fun d => s.scopeIdle d.dies).map fun d => (d.lvl, d.dom)
          seen := #v[s.wakesOf 0, s.wakesOf 1, s.wakesOf 2, s.wakesOf 3] } ∧
        t.domains.map (fun d => (d.lvl, d.dom, d.declared, d.wave)) = s.domains.map fun d =>
          (d.lvl, d.dom, d.declared || (d.lvl != 4 && s.domains.any fun g => same d g && goes g),
            if d.lvl = 4 ∧ (s.domains.any fun g => same d g && goes g && g.coord == s.dev && g.wave == 0) = true then 1 else d.wave))) ∧
  (∀ (s : State) (d : Domain) (now : Bool), s.settled d now = true ↔
    now = true ∧ (d.lvl, d.dom) ∈ s.det.idle ∧ d.hwake = false ∧ (∀ e ∈ d.live, e < 4096) ∧ s.releaseDue d = false ∧ 0 < s.waitingIn d ∧
    ∀ i ∈ d.dies, s.wakesOf i = s.det.seen[i % 4]'(Nat.mod_lt _ (by decide))) ∧
  (∀ (wide : List Domain) (d : Domain), widest wide d = true ↔
    ∃ e ∈ d.live, ∀ g ∈ wide, d.lvl.toNat < g.lvl.toNat → e ∉ g.live) ∧
  (∀ (s : State) (dom : BitVec 16) (d : Domain), s.domain 4 dom = some d →
    let sent := (d.answers.map fun a => a.2.2.1).sum
    let recvd := (d.answers.map fun a => a.2.2.2.1).sum
    let idle : Prop := (∀ a ∈ d.answers, a.2.1 = true) ∧ s.releaseDue d = false ∧ d.hwake = false
    let again : Prop := exec (.quiescenceProbe dom) s = .next (s.modDomain 4 dom fun g =>
      { g with wave := 4, answers := [], first := [], failedAt := some s.cycle })
    (d.coord = s.dev → d.wave = 1 →
      ((s.probeAnswer d).2.1 = true → exec (.quiescenceProbe dom) s = .next (s.probe d 2 [])) ∧
      ((s.probeAnswer d).2.1 = false → exec (.quiescenceProbe dom) s = .next (s.modDomain 4 dom fun g => { g with wave := 0 }))) ∧
    (d.coord = s.dev → d.answers.length = d.ndev →
      (d.wave = 2 → idle → sent = recvd → exec (.quiescenceProbe dom) s = .next (s.probe d 3 d.answers)) ∧
      (d.wave = 2 → ¬(idle ∧ sent = recvd) → again) ∧
      (d.wave = 3 →
        let now : Prop := idle ∧ sent = (d.first.map fun a => a.2.2.1).sum ∧ recvd = (d.first.map fun a => a.2.2.2.1).sum
        (¬now → again) ∧
        (now → ∃ t, exec (.quiescenceProbe dom) s = .next t ∧
          ∀ g ∈ t.domains, g.lvl = 4 → g.dom = dom → g.declared = true ∧ g.wave = 0))) ∧
    (∀ t, d.wave = 4 → d.failedAt = some t → t + 4096 ≤ s.cycle → exec (.probeRestart dom) s =
      .next (s.modDomain 4 dom fun g => { g with wave := 0, failedAt := none }))))

/-! ## Distributors, tasks and launches (R418 to R456) -/

/-- R440, R442: TASKQ of a team with a range task checks its pair and asks the distributor, at most two requests of a context
outstanding; TASKEND asks it to take the interval back; without a range task both are cause 2. R439, R440, R442, R453: the distributor
answers the oldest request of a context, those that one cycle brings for a launch by endpoint and context, from the pool of its launch,
when it can keep the entry that the answer may need and, for an index that may come back, one more, and gives back the interval of one that asked for that; an answer fills both words of an empty
pair. -/
def Obligations.RangeTasks : Prop :=
  (∀ (s : State) (rs1 : Reg),
    let o : Word := s.x rs1
    let off := o.toNat
    (s.teamOf s.cur.1 = none → exec (.taskq rs1) s = .next (trapped 2 0 s) ∧ exec .taskend s = .next (trapped 2 0 s)) ∧
    ∀ t, s.teamOf s.cur.1 = some t →
      (t.rt = false → exec (.taskq rs1) s = .next (trapped 2 0 s) ∧ exec .taskend s = .next (trapped 2 0 s)) ∧
      (t.rt = true → exec .taskend s = .next (s.askTask t true 0).advance ∧
        (off % 8 ≠ 0 → exec (.taskq rs1) s = .next (trapped 4 o s)) ∧
        (off % 8 = 0 → s.padBad off 8 = none →
          (s.me.isSync off = false → exec (.taskq rs1) s = .next (trapped 24 (s.padAddr off) s)) ∧
          (s.me.isSync off = true → 2 ≤ s.ctx.taskqs → exec (.taskq rs1) s = .next { s with out := .stalled }) ∧
          (s.me.isSync off = true → s.ctx.taskqs < 2 → exec (.taskq rs1) s =
            .next ((s.setCtx { s.ctx with taskqs := s.ctx.taskqs + 1 }).askTask t false off).advance)))) ∧
  ((∀ (s : State) (dist : Fin 4) (k : Nat) (r : TaskqReq),
    (s.dist dist).taskqs[k]? = some r → (∀ o ∈ (s.dist dist).taskqs.take k, ¬(o.ep = r.ep ∧ o.ctx = r.ctx)) →
    (∀ o ∈ (s.dist dist).taskqs, o.asked = r.asked → o.launch = r.launch →
      ¬(o.ep < r.ep ∨ (o.ep = r.ep ∧ o.ctx.val < r.ctx.val))) →
    let t := s.setDist dist { s.dist dist with taskqs := dropAt (s.dist dist).taskqs k }
    (r.fin = true → exec (.taskqAnswer dist k) s = .next (t.giveBack r.launch r.ep r.ctx)) ∧
    (∀ l p, r.fin = false → s.launches.find? (fun l => l.id = r.launch) = some l → l.pool = some p →
      let a := p.answer r.ep r.ctx
      s.poolEntries dist + (if ∃ h ∈ p.holders, h.1 = r.ep ∧ h.2.1 = r.ctx.val then 0 else 1) + s.reserved r a.2.1 ≤ 2048 →
      exec (.taskqAnswer dist k) s = .next
        (({ t with launches := t.launches.map fun (l : Launch) => if l.id = r.launch then { l with pool := some a.1 } else l } :
          State).sendAnswer r a.2.1 a.2.2))) ∧
  (∀ (s : State) (r : TaskqReq) (i e : Nat), r.ep < 4096 →
    (s.core r.ep).isFull r.off = false → (s.core r.ep).isFull (r.off + 4) = false →
    s.sendAnswer r i e = (s.modCtx r.ep r.ctx fun x => { x with taskqs := x.taskqs - 1 }).modCore r.ep fun c =>
      c.padWrite r.off 8 (i + 2 ^ 32 * e) 255))

/-- R439, R441: an answer of a pool gives one index, which nobody else then has left; the end of work comes only when the pool is
empty, no interval was returned, and no holder has two indices left, and takes no index away. -/
def Obligations.PoolAnswers : Prop :=
  ∀ (p : Pool) (ep ctx : Nat),
    let inside (j c e : Nat) : Nat := if c ≤ j ∧ j < e then 1 else 0
    let left (p : Pool) (j : Nat) : Nat :=
      inside j p.p p.hi + (p.holders.map fun h => inside j h.2.2.1 h.2.2.2).sum + (p.returned.map fun r => inside j r.1 r.2).sum
    (p.holders.map fun h => (h.1, h.2.1)).Nodup → (∀ r ∈ p.returned, r.1 < r.2) →
    let a := p.answer ep ctx
    (a.2.1 < a.2.2 ∧ ∀ j, left p j = left a.1 j + if j = a.2.1 then 1 else 0) ∨
    (a.2 = (endOfWork, endOfWork) ∧ p.hi ≤ p.p ∧ p.returned = [] ∧ (∀ h ∈ p.holders, h.2.2.2 - h.2.2.1 < 2) ∧
      ∀ j, left p j = left a.1 j)

/-- R422, R426, R443: TASKPUT checks its operands, reads the entry, and, its earlier accesses performed, hands it to the distributor
and waits for it; TASK_RECORD_DECODE enters the record of an accepted entry at the end of its queue, in order of arrival, and the
TASKPUT that waited goes on, on a frozen core once the host has unfrozen it (R24). R427, R428: the head of a queue is compared once, with the time at which it became
the head, and is late when that time is past its deadline: it counts as late once and its lateness record is posted, and when it asks
for that it is retired unrun, with a completion record of status 4, and counted; the candidate with the smallest deadline, then
source, then arrival is selected, once every head has been compared. -/
def Obligations.TaskQueues : Prop :=
  ((∀ (s : State) (rs1 rs2 : Reg),
    let a : Word := s.x rs1
    let q : Word := s.x rs2
    (a.toNat % 8 ≠ 0 → exec (.taskput rs1 rs2) s = .next (trapped 4 a s)) ∧
    (a.toNat % 8 = 0 → q.extractLsb' 6 58 ≠ 0 → exec (.taskput rs1 rs2) s = .next (trapped 2 q s)) ∧
    (∀ u v h ws, a.toNat % 8 = 0 → q.extractLsb' 6 58 = 0 → s.innerWords a 1 = .ok (u, h) →
      u.innerWords (a + 8) ((h.headD 0).extractLsb' 16 8).toNat = .ok (v, ws) → v.relStep.2 = true →
      let w := v.relStep.1
      let d := (q.extractLsb' 4 2).toNat
      exec (.taskput rs1 rs2) s = .next ((w.setDist d { w.dist d with entries := (w.dist d).entries ++
        [⟨(q.extractLsb' 0 4).toFin, false, !v.ctx.csr.prv, h ++ ws, some v.cur⟩] }).holdOn .put))) ∧
  (∀ (s : State) (dist : Fin 4) (k : Nat) (e : Entry),
    let x := s.dist dist
    x.entries[k]? = some e → (∀ o ∈ x.entries.take k, o.q ≠ e.q) → entryReason (e.words.headD 0) (e.task x).f e.app = none →
    (x.queues[e.q]).length < Config.nQueue →
    ∃ t, exec (.taskRecordDecode dist k) s = .next t ∧
      (t.dist dist).queues = ({ x with queues := x.queues.set e.q (x.queues[e.q] ++ [e.task x]) }.headed s.time).queues ∧ (t.dist dist).arrivals = x.arrivals + 1 ∧
      (t.dist dist).entries = dropAt x.entries k ∧
      (∀ ep n, e.who = some (ep, n) → (t.ctxAt ep n).x = (s.ctxAt ep n).x ∧
        ((s.core ep).frozen = false → (t.ctxAt ep n).hold = .free ∧ (t.ctxAt ep n).pc = (s.ctxAt ep n).pc + 4) ∧
        ((s.core ep).frozen = true → (t.ctxAt ep n).hold = .told 0 0 ∧ (t.ctxAt ep n).pc = (s.ctxAt ep n).pc))) ∧
  (∀ (base : Vector Word 16) (mask : BitVec 16) (ws : List Word) (i : Fin 16),
    (recordFields base mask ws)[i] =
      if mask.getLsbD i.val = true then ws.getD ((List.range i.val).filter mask.getLsbD).length 0 else base[i])) ∧
  ((∀ (s : State) (dist : Fin 4) (q : Fin 16) (t : Task) (rest : List Task),
    let x := s.dist dist
    let now := t.headAt.getD s.time
    let late : Task := { t with late := BitVec.ofNat 64 (now - t.deadline) }
    let lates := if t.late = 0 then x.lates.set q (inc32 x.lates[q]) else x.lates
    let record : List Word := [2, BitVec.ofNat 64 (dist.val * 16 + q.val), t.tag, t.f[1], BitVec.ofNat 64 now]
    x.queues[q] = t :: rest → t.checked = false →
    (now ≤ t.deadline → exec (.headLatenessCheck dist q) s =
      .next (s.setDist dist { x with queues := x.queues.set q ({ t with checked := true } :: rest) })) ∧
    (t.deadline < now → t.noted = false →
      (s.canPost = false → exec (.headLatenessCheck dist q) s =
        .next (s.setDist dist { x with lates := lates, queues := x.queues.set q (late :: rest) })) ∧
      (s.canPost = true → ∃ u, exec (.headLatenessCheck dist q) s = .next u ∧ u.reports = s.reports ++ [record] ∧
        (u.dist dist).lates = lates ∧ (u.dist dist).drops = x.drops ∧
        (u.dist dist).queues = x.queues.set q
          ((if t.drop = true then { late with noted := true } else { late with checked := true }) :: rest))) ∧
    (t.deadline < now → t.noted = true → s.canPost = true → t.crec = 0 →
      ∃ u, exec (.headLatenessCheck dist q) s = .next u ∧
        u.reports = s.reports ++ [1 :: completion 4 0 0 t.tag 0 0 0 0 0] ∧
        (u.dist dist).lates = x.lates ∧ (u.dist dist).drops = x.drops.set q (inc32 x.drops[q]) ∧
        (u.dist dist).queues = ({ x with queues := x.queues.set q rest }.headed s.time).queues)) ∧
  (∀ (x : Dist) (now : Nat) (q : Fin 16),
    ((x.headed now).queues[q]) = match x.queues[q] with
      | [] => []
      | t :: rest => { t with headAt := some (t.headAt.getD now) } :: rest) ∧
  (∀ (s : State) (d : Fin 4), (s.dist d).unchecked = false → (s.dist d).best ≠ (s.dist d).selected →
    exec (.distributorSelect d) s = .next (s.setDist d { s.dist d with selected := (s.dist d).best })) ∧
  (∀ (x : Dist) (c : Nat × Task), x.best = some c → c ∈ x.candidates ∧ ∀ o ∈ x.candidates,
    c.2.deadline < o.2.deadline ∨ (c.2.deadline = o.2.deadline ∧
      (c.1 < o.1 ∨ (c.1 = o.1 ∧ c.2.arrival ≤ o.2.arrival)))))

/-- R428, R429, R431, R432, R433: the selected record that is still the best candidate and whose cores are free, whose domains are
in order and whose launch is accepted is launched, and leaves its source; each core then runs context 0 at the record's entry, with
the registers, the level and the grant set of the record, its team, its carve and every other register zero, and the launch keeps the
record and the numbers of its cores. R434, R435: a team whose end is known, and all of whose work is applied, completes outside a gang:
its record is written at CREC, to a HOST page or joined to a LAT page, and posted with its status, team, value, tag and trap, its core
is free, and its number is no longer live. -/
def Obligations.LaunchAndCompletion : Prop :=
  ((∀ (s u : State) (dist : Fin 4) (src : Nat) (t : Task) (eps : List Nat) (descs : List (Nat × List Word × List Word)),
    (s.dist dist).selected = some (src, t) → t.image = none → s.pkg.boot = 7 → s.canPost = true →
    s.pkg.ttrip = false → s.place dist t = .cores eps →
    (s.dist dist).stands = true → s.readDomains dist t = .ok (.ok descs) → s.launch dist t eps descs = some u →
    exec (.dispatch dist) s = .next ((u.setDist dist (u.dist dist).take).newHeads dist)) ∧
  (∀ x : Dist, x.stands = true ↔ x.unchecked = false ∧ x.best = x.selected) ∧
  (∀ (s : State) (p : Plan) (k : Nat), k < p.eps.length → p.task.shape = 0 →
    let t := p.task
    let ep := p.eps.getD k 0
    let u := s.startCore p k
    let x := u.ctxAt ep 0
    let sp : Word := if t.ctrl.getLsbD 3 = true then s.win ep + t.f[5] else t.f[5]
    let a0 : Word := t.f[6] + BitVec.ofNat 64 (k * (t.ctrl.extractLsb' 48 16).toNat)
    x.life = .live ∧ x.pc = t.f[2] ∧ x.csr.prv = t.ctrl.getLsbD 0 ∧ x.csr.gset = t.ctrl.extractLsb' 10 4 ∧ x.pad = none ∧
    (∀ r : Reg, x.rx r = if r = 2 then sp else if r = 10 then a0 else if r = 11 then t.f[7] else if r = 12 then t.f[8]
      else if r = 13 then t.f[9] else if r = 14 then t.f[10] else 0) ∧
    (∀ r : Reg, x.rf r = 0 ∧ x.rv r = 0) ∧ x.sig = 0 ∧ x.csr.tvec = 0 ∧
    (∀ n : Fin 11, n ≠ 0 → (u.ctxAt ep n).life = .retired) ∧
    (u.core ep).hmax = p.carve.hmax ∧ (u.core ep).l1b = p.carve.l1b ∧ (u.core ep).sync = p.carve.sync ∧
    (u.core ep).hnext = (if p.carve.hmax ≥ 1 then 1 else 0) ∧ (u.core ep).l1 = [] ∧ (u.core ep).tlb = [] ∧
    (∃ m, (u.core ep).team = some m ∧ m.num = p.nums.getD k 0 ∧ m.deadline = t.f[1] ∧ m.tag = t.tag ∧ m.ended = none ∧
      m.rank = BitVec.ofNat 8 k)) ∧
  (∀ (s u : State) (dist : Nat) (t : Task) (eps : List Nat) (descs : List (Nat × List Word × List Word)),
    s.launch dist t eps descs = some u → eps.Nodup →
    ∃ (p : Plan) (l : Launch), p.task = t ∧ p.eps = eps ∧ carveDesc t.f[3] t.f[4] = some p.carve ∧ p.nums.length = eps.length ∧
      u.launches = s.launches ++ [l] ∧ l.id = p.launch ∧ l.task = t ∧ l.dist = dist ∧ l.live = p.nums ∧
      ∀ k, k < eps.length → ∃ v : State, v.fab = s.fab ∧ u.core (eps.getD k 0) = (v.startCore p k).core (eps.getD k 0))) ∧
  ((∀ (s : State) (ep status : Nat) (t : Team) (value cause epc tval : Word) (u : State),
    (s.core ep).gang.g = false → (s.core ep).team = some t → t.ended = some (status, value, cause, epc, tval) →
    (s.core ep).cb = [] → s.teamBusy [ep] = false →
    s.postRecord t.dist.toNat t.crec t.rank.toNat
      (completion status t.num (if status = 0 then value else 0) t.tag cause epc tval t.nrep t.rank.toNat) = .ok u →
    let v := (((u.rejectSent [ep] ep).freeCore ep).endMembers [ep]).endNumbers t.launch [t.num]
    exec (.teamCompletion ep) s = .next v ∧ v.reports = u.reports ∧ v.pressQ = u.pressQ ∧ v.routers = u.routers ∧
      (v.core ep).team = none ∧ (v.core ep).gang = {} ∧ ∀ l ∈ v.launches, l.id = t.launch → t.num ∉ l.live) ∧
  (∀ (s : State) (d rank : Nat) (ws : List Word), s.canPost = true →
    ∃ u, s.postRecord d 0 rank ws = .ok u ∧ u.reports = s.reports ++ [BitVec.ofNat 64 1 :: ws]) ∧
  (∀ (s : State) (d rank : Nat) (crec : Word) (ws : List Word) (g : Tlb), s.canPost = true → crec ≠ 0 →
    let a := crec + BitVec.ofNat 64 (64 * rank)
    let pa := g.pa a
    let valid := maskRun 128 (pa % 128) 64
    let data := BitVec.ofNat 1024 (wordsNat ws * 2 ^ (8 * (pa % 128)))
    s.distLook d a true = .ok g →
    (g.cls = .host → s.admitted (s.distMaster d) kHome (pa / 65536) rWrite = true → s.heldSectors (pa / 128) valid true = [] →
      s.postRecord d crec rank ws = .ok (((s.putHome (pa / 128) valid data).clearFailed d).tell 1 ws)) ∧
    (g.cls = .lat → g.typ = 9 → g.width = 3 → s.admitted (s.distMaster d) kHome (pa / 65536) rJoin = true →
      s.postRecord d crec rank ws = .ok (((s.toPress ⟨pa / 128, lineVa a, g.typ, g.vint, ⟨s.dev, 1032 + d, 0, 0⟩, 0,
        .join g.width valid data [] false, 0⟩).clearFailed d).tell 1 ws)) ∧
    (g.cls = .own → s.postRecord d crec rank ws = .ok ((s.clearFailed d).tell 1 (ws.set 6 1)))) ∧
  (∀ (status : Nat) (team : BitVec 16) (value tag cause epc tval : Word) (nrep rank : Nat), status < 256 → rank < 65536 →
    let ws := completion status team value tag cause epc tval nrep rank
    ws.length = 8 ∧ (ws.getD 0 0).extractLsb' 48 16 = BitVec.ofNat 16 status ∧ (ws.getD 0 0).extractLsb' 32 16 = team ∧
    (ws.getD 0 0).extractLsb' 0 32 = value.extractLsb' 0 32 ∧ ws.getD 1 0 = tag ∧ ws.getD 2 0 = cause ∧ ws.getD 3 0 = epc ∧
    ws.getD 4 0 = tval ∧ (ws.getD 5 0).extractLsb' 32 16 = BitVec.ofNat 16 rank ∧
    (ws.getD 5 0).extractLsb' 0 32 = BitVec.ofNat 32 (min nrep 0xFFFFFFFF)))

/-- R444, R445, R446: every 4,096 cycles, and no sooner, the balancer issues at most four commands of at most 16 records; a command
moves the movable records that the balancer has counted (R453), latest arrival first, as many as fit into a list of 64. R447 to R452: a victim's issue stops, and when its
units are still its contexts leave what they wait for and the team is written to its image; a selected image whose cores are
available is restored, with every context's registers; and the old core of a migrated team writes its lines back and acknowledges.
-/
def Obligations.BalancingAndPreemption : Prop :=
  ((∀ s : State,
    (s.cycle < 4096 * (s.pkg.balanced + 1) → exec .balancerTick s = .next s) ∧
    (4096 * (s.pkg.balanced + 1) ≤ s.cycle → ∃ t, exec .balancerTick s = .next t ∧ t.pkg.balanced = s.cycle / 4096 ∧
      ∃ cs : List (Nat × Nat × Nat), cs.length ≤ 4 ∧ (∀ c ∈ cs, c.1 ≠ c.2.1 ∧ 1 ≤ c.2.2 ∧ c.2.2 ≤ 16 ∧ c.1 < 4 ∧ c.2.1 < 4) ∧
        t.net = s.net ++ cs.map fun c => .migrate c.1 c.2.1 c.2.2 ((s.movable c.1).map (·.arrival)))) ∧
  (∀ (s : State) (k src dst n : Nat) (counted : List Nat), s.net[k]? = some (.migrate src dst n counted) → src ≠ dst →
    let u := s.take k
    let go := ((sortBy (fun t => t.arrival) ((u.movable src).filter fun t => counted.contains t.arrival)).reverse).take (min n (64 - (u.dist dst).transfer.length))
    ∃ t, exec (.migrationCommand k) s = .next t ∧ t.net = dropAt s.net k ∧
      (t.dist dst).transfer.length = (u.dist dst).transfer.length + go.length ∧
      ∀ m ∈ go, ∃ c ∈ (t.dist dst).transfer, c.f = m.f ∧ c.image = m.image)) ∧
  ((∀ (s : State) (ep : Nat) (t : Team),
    let team := (s.core ep).teamCores ep
    let lead := team.headD ep
    (s.core lead).team = some t → t.ended = none →
    (t.stop = false → lead ∈ s.victims (stackOf lead) → exec (.preempt ep) s = .next (s.stopTeam lead)) ∧
    (t.stop = true → (∀ e ∈ team, s.coreStill e = true) →
      let u := (team.foldl (fun (u : State) e =>
        (allCtx.foldl (fun (u : State) n => u.modCtx e n Ctx.goOn) u).withdraw e) s).sendOn team
      exec (.preempt ep) s = .next ((team.foldl (fun (u : State) e => u.rejectSent team e) u).writeImage team))) ∧
  (∀ (s : State) (dist : Fin 4) (src : Nat) (t : Task) (i : Image) (target : List Nat),
    (s.dist dist).selected = some (src, t) → t.image = some i.id → s.images.find? (fun j => j.id = i.id) = some i →
    s.targetOk dist i target = true → s.pkg.boot = 7 → s.canPost = true → s.pkg.ttrip = false → (s.dist dist).stands = true →
    let u := s.restore i target
    exec (.resume dist target) s = .next ((u.setDist dist (u.dist dist).take).newHeads dist)) ∧
  (∀ (img phys : Core) (n : Fin 11),
    let c := img.resumed phys
    c.ctx n = img.ctx n ∧ c.pad = img.pad ∧ c.full = img.full ∧ c.z = img.z ∧ c.canopy = img.canopy ∧ c.amax = img.amax ∧
    c.accs = img.accs ∧ c.team = img.team ∧ c.chans = img.chans ∧ c.l1 = phys.l1 ∧ c.tlb = phys.tlb) ∧
  (∀ (s : State) (ep old k : Nat) (owner : BitVec 16), s.net[k]? = some (.flushed old ep owner) →
    (∀ m ∈ s.net.take k, ∀ a o, m ≠ .flushed a ep o) →
    let u := (s.take k).flushOwner old owner
    exec (.flushAck ep) s = .next { u with
      markers := u.markers.filter fun m => decide (m.2 ≠ old) || (mget (u.core old).l1 m.1).isSome }))

/-! ## Memory cores (R477 to R503) -/

/-- R489, R490, R491, R403: LEASE, RENEW and UNLEASE check their operands and, once what came before them is performed, are
announced; a notification window delivers them 64 cycles after its end, lapses first, then by endpoint and context; LEASE at its
place takes a FREE memory core, zeroed, or answers −1; RENEW sets the count anew, of a HELD core too, or answers 1; UNLEASE frees a core without calls, and the slot, and waits while a lapsed
lease drains (R498). R487, R492, R493, R496: MCALL reads its block, releases its ranges and sends the call, at most one running and one
queued; the call starts with words 0 to 7 in g0 to g7, or waits, or is answered with STATUS 1 on a core that the issuer holds no
longer; a token reaches its issuer once the call's accesses are performed; the count of a lease runs down, and a lapse drains the
core. The ktval of an MCALL of an empty slot is log 60. -/
def Obligations.LeasesAndCalls : Prop :=
  ((∀ (s : State) (rd rs1 rs2 : Reg),
    let w : Word := s.x rs1
    let n : Word := s.x rs2
    let mayCommand (mc : Nat) : Bool := s.admitted (s.master s.cur.1) kMem mc rCommand
    let r := s.relStep
    let said (k : ScKind) : State := (r.1.holdOn .sc).announce s.cur.1 s.cur.2 k
    (aDev w ≠ s.dev ∨ aWin w = false ∨ aOff w ≠ 0 ∨ isMemCore (aEp w) = false →
      exec (.lease rd rs1 rs2) s = .next (trapped 24 w s)) ∧
    (∀ mc k, aDev w = s.dev → aWin w = true → aOff w = 0 → aEp w = mc → isMemCore mc = true →
      n.extractLsb' 16 48 = 0 → n.extractLsb' 0 16 ≠ 0 → freeKey s.ctx.leases 4 = some k → mayCommand mc = true → r.2 = true →
      exec (.lease rd rs1 rs2) s = .next (said (.lease rd mc (n.extractLsb' 0 16) k))) ∧
    (∀ mc, s.ctx.leaseOf w = some mc → n.extractLsb' 16 48 = 0 → n.extractLsb' 0 16 ≠ 0 → mayCommand mc = true → r.2 = true →
      exec (.renew rd rs1 rs2) s = .next (said (.renew rd w.toNat (n.extractLsb' 0 16)))) ∧
    (∀ mc, s.ctx.leaseOf w = some mc → mayCommand mc = true → r.2 = true →
      exec (.unlease rs1) s = .next (said (.unlease w.toNat))) ∧
    (s.ctx.leaseOf w = none → exec (.renew rd rs1 rs2) s = .next (trapped 2 w s) ∧ exec (.unlease rs1) s = .next (trapped 2 w s))) ∧
  (∀ (s : State) (w : Nat), s.nextWindow = some w → 32 * (w + 1) + 64 ≤ s.cycle →
    let u := { s with sc := s.sc.filter fun o => o.window ≠ w, windows := w + 1 }
    let u := ((s.mcs.filter fun m => m.2.lapsed = some w).map (·.1)).foldl (fun (u : State) mc => u.lapseAt mc) u
    exec .notificationWindow s =
      .next ((sortBy (fun o => o.ep * 16 + o.ctx.val) (s.sc.filter fun o => o.window = w)).foldl State.scAt u) ∧
    ∀ o ∈ s.sc, w ≤ o.window) ∧
  (∀ (s : State) (w ep : Nat) (n : Fin 11) (rd : Reg) (mc : Nat) (count : BitVec 16) (k : Nat),
    let t := s.leaseAt w ep n rd mc count k
    let m := s.mc mc
    (s.core ep).frozen = false →
    (t.ctxAt ep n).hold = .free ∧ (t.ctxAt ep n).pc = (s.ctxAt ep n).pc + 4 ∧
    (m.st = .free → m.freed ≤ w → m.disabled = false → m.marked = false →
      (t.ctxAt ep n).rx rd = (if rd = 0 then 0 else BitVec.ofNat 64 k) ∧ mget (t.ctxAt ep n).leases k = some mc ∧
      t.mc mc = { m with st := .leased, lessee := some (ep, n, k), team := s.teamNum ep, owner := (s.core ep).owner, count := count,
                         g := Vector.replicate 16 0, bufs := Vector.replicate 4 0, p := Vector.replicate 8 false
                         bad := m.bad.filter fun b => decide (b < 4096) }) ∧
    (m.st ≠ .free → (t.ctxAt ep n).rx rd = (if rd = 0 then 0 else BitVec.allOnes 64) ∧ t.mc mc = m ∧
      (t.ctxAt ep n).leases = (s.ctxAt ep n).leases)) ∧
  (∀ (s : State) (w ep : Nat) (n : Fin 11) (rd : Reg) (k mc : Nat) (count : BitVec 16),
    let m := s.mc mc
    let leased (st : McState) : Bool := st == .leased || st == .running
    (s.core ep).frozen = false →
    (s.holds ep n k (fun st => leased st || st == .held) = some mc →
      ((s.renewAt ep n rd k count).ctxAt ep n).rx rd = 0 ∧
      (s.renewAt ep n rd k count).mc mc = { m with count := count, lapsed := none }) ∧
    (s.holds ep n k (· == .draining) = some mc → s.unleaseAt w ep n k = s) ∧
    (s.holds ep n k leased = some mc →
      ((s.unleaseAt w ep n k).ctxAt ep n).pc = (s.ctxAt ep n).pc + 4 ∧
      (m.call = none → m.queued = none → m.sent = [] → (s.unleaseAt w ep n k).mc mc = m.free w) ∧
      (m.call ≠ none → (s.unleaseAt w ep n k).mc mc = { m with st := .releasing, lapsed := none })) ∧
    (s.holds ep n k (fun st => leased st || st == .held) = none → ((s.renewAt ep n rd k count).ctxAt ep n).rx rd = (if rd = 0 then 0 else 1) ∧
      (s.renewAt ep n rd k count).mcs = s.mcs))) ∧
  ((∀ (s : State) (rd rs1 rs2 : Reg) (mc : Nat),
    let v : Word := s.x rs1
    (s.x rs2).toNat % 64 ≠ 0 → v.extractLsb' 2 14 = 0 → v.extractLsb' 28 36 = 0 → mget s.ctx.leases (v.toNat % 4) = some mc →
      exec (.mcall rd rs1 rs2) s = .next (trapped 4 (s.x rs2) s)) ∧
  (∀ (s : State) (rd rs1 rs2 : Reg),
    let v : Word := s.x rs1
    v.extractLsb' 2 14 = 0 → v.extractLsb' 28 36 = 0 → mget s.ctx.leases (v.toNat % 4) = none →
      exec (.mcall rd rs1 rs2) s = .next (trapped 2 0 s)) ∧
  (∀ (s u : State) (rd rs1 rs2 : Reg) (mc : Nat) (ws : List Word),
    let v : Word := s.x rs1
    let ranges := argRanges ws (ws.headD 0).toNat
    let r := u.releaseRanges s.cur.1 ranges
    let m := r.mc mc
    v.extractLsb' 2 14 = 0 → v.extractLsb' 28 36 = 0 → mget s.ctx.leases (v.toNat % 4) = some mc → (s.x rs2).toNat % 64 = 0 →
    s.innerWords (s.x rs2) 8 = .ok (u, ws) → (ws.headD 0).extractLsb' 2 62 = 0 → u.ticketFree s.cur.1 u.cur.2 = true →
    r.rangesBusy s.cur.1 ranges = false →
    (if m.call.isSome then 1 else 0) + (if m.queued.isSome then 1 else 0) + m.sent.length < 2 →
    r.admitted (r.master s.cur.1) kMem mc rCommand = true →
    let c : Call := ⟨(v.extractLsb' 16 12).toNat, Vector.ofFn fun i => ws.getD i.val 0, s.cur.1, r.cur.2, rd, r.ctx.nCall, 0⟩
    let t := r.setMc mc { m with sent := m.sent ++ [c] }
    exec (.mcall rd rs1 rs2) s = .next
      (t.setCtx { t.ctx with nCall := t.ctx.nCall + 1, busyX := if rd = 0 then t.ctx.busyX else rd :: t.ctx.busyX }).advance) ∧
  (∀ (s : State) (mc : Nat) (c : Call) (rest : List Call) (l : Nat × Fin 11 × Nat),
    let m := s.mc mc
    m.sent = c :: rest → m.lessee = some l →
    (l.1 = c.ep → l.2.1 = c.ctx → m.st = .leased → m.call = none →
      ∃ t, exec (.mcCallStart mc) s = .next t ∧ (t.mc mc).call = some c ∧ (t.mc mc).st = .running ∧ (t.mc mc).pc = c.entry ∧
        (t.mc mc).sent = rest ∧ (t.mc mc).lb = 0 ∧ (t.mc mc).bi = 0 ∧ (∀ p ∈ (t.mc mc).p.toList, p = false) ∧
        (∀ i : Fin 16, (t.mc mc).g[i] = if h : i.val < 8 then c.words[i.val] else m.g[i]) ∧ (t.mc mc).bufs = m.bufs) ∧
    (l.1 = c.ep → l.2.1 = c.ctx → m.st = .running → m.call ≠ none →
      exec (.mcCallStart mc) s = .next (s.setMc mc { m with sent := rest, queued := some c })) ∧
    ((l.1 ≠ c.ep ∨ l.2.1 ≠ c.ctx) → m.st ≠ .held →
      exec (.mcCallStart mc) s = .next (s.setMc mc { m with sent := rest, ended := m.ended ++ [(c, callToken 0 0 c.seq 1)] }))) ∧
  (∀ (s : State) (mc : Nat) (c : Call) (token : Word) (rest : List (Call × Word)), (s.mc mc).ended = (c, token) :: rest →
    s.mcQuiet (s.mc mc) = true →
    let u := s.setMc mc { s.mc mc with ended := rest }
    ((s.ctxAt c.ep c.ctx).alive = true →
      exec (.mcallToken mc) s = .next (u.modCtx c.ep c.ctx fun x => x.takeToken c token)) ∧
    ((s.ctxAt c.ep c.ctx).alive = false → exec (.mcallToken mc) s = .next u)) ∧
  (∀ (x : Ctx) (c : Call) (token : Word),
    (c.rd = 0 → x.takeToken c token = { x with sig := x.sig ||| c.sig }) ∧
    (c.rd ≠ 0 → (x.takeToken c token).rx c.rd = token ∧ c.rd ∉ (x.takeToken c token).busyX ∧
      mget (x.takeToken c token).tokens c.rd.toNat = some c.sig ∧ (x.takeToken c token).sig = x.sig)) ∧
  (∀ s : State, let k := s.pkg.leaseTicks + 1
    1024 * k ≤ s.cycle → ∃ t, exec .leaseCountTick s = .next t ∧ t.pkg.leaseTicks = k ∧
      ∀ mc, ((s.mc mc).st = .leased ∨ (s.mc mc).st = .running) → (s.mc mc).count ≠ 0 →
        (t.mc mc).count = (s.mc mc).count - 1 ∧ ((s.mc mc).count = 1 → (t.mc mc).lapsed = some (1024 * k / 32))) ∧
  (∀ (s : State) (mc w : Nat), (s.mc mc).lapsed = some w → 32 * (w + 1) + 64 ≤ s.cycle → (∀ o ∈ s.sc, w ≤ o.window) →
    ((s.mc mc).st = .leased ∨ (s.mc mc).st = .running) →
    exec (.leaseLapse mc) s = .next (s.setMc mc { s.mc mc with st := .draining, lapsed := none })) ∧
  (∀ (s : State) (mc : Nat), s.mcQuiet (s.mc mc) = true → (s.mc mc).sent = [] → (s.mc mc).st = .draining →
    ∃ t, exec (.mcDrainComplete mc) s = .next t ∧ (t.mc mc).st = .free ∧ (t.mc mc).lessee = none ∧
      (t.mc mc).ended = (s.mc mc).ended ++ (s.mc mc).lapseTokens ∧
      ∀ ep n k, (s.mc mc).lessee = some (ep, n, k) → ∃ words, t.net = s.net ++ [.report ep n.val words] ∧
        (words.headD 0).extractLsb' 0 6 = 35))

/-- R482, R483: the loads, stores and joins of a memory core through an entry that it finds, and its pushes: an exact read of a LAT
page needs every element readable, else the call ends with cause 16; a push reaches a core that runs the lessee's team. R480: the
ALU of a memory core computes from a and the value moved, and its index and buffer ports work on the selected buffer. R479, R480,
R484, R493, R494: a bundle performs both its moves with the values read at its start, the word of the selected buffer that bget names among them, and goes
on to the next bundle or, after the delay bundle, to the target of jmp; a move fault ends the call with STATUS 2; done and fence wait
for earlier accesses, and for those of their own bundle, and done ends the call with STATUS 0, and a queued call starts. R497: a word
that a move reads from a g port or a line buffer, and that cannot be corrected, ends the call with STATUS 4. That a single bget
trigger leaves its word in lr (log 27) and that the moves of a bundle are performed in order (log 66) are read by inference. -/
def Obligations.MemoryCoreBundles : Prop :=
  ((∀ (s u : State) (mc : Nat) (a : Word) (t : Tlb), McReady s mc → (s.mc mc).miss = none →
    aDev a = s.dev → aWin a = false → s.mcLook mc a = (u, .hit t) →
    let line := t.pa a / 128
    let m := u.mc mc
    let forms (d : BitVec 1024) : List (Instr × Nat × MemCore) :=
      let got (n : Nat) : Nat := lineVal d (a.toNat % 128) n
      [(.mcLd mc a, 8, { m with lr := BitVec.ofNat 64 (got 8) }), (.mcLwz mc a, 4, { m with lr := BitVec.ofNat 64 (got 4) }),
        (.mcLld mc a, 128, { m with bufs := m.bufs.set m.lb (BitVec.ofNat 1024 (got 128))
                                    bad := m.bad.filter fun b => !m.bufWords.contains b })]
    let plain := lineOf u.mem line
    (∀ p ∈ forms plain,
      (a.toNat % p.2.1 ≠ 0 → exec p.1 s = .next (s.setMc mc ((s.mc mc).accessFault 4 a))) ∧
      (a.toNat % p.2.1 = 0 → s.admitted (s.master mc) kHome (t.pa a / 65536) (Need.read.right t.cls) = true →
        (∀ k ∈ u.markers, k.1 ≠ line) → t.cls = .own → u.poisoned.contains line = false → exec p.1 s = .next (u.setMc mc p.2.2))) ∧
    (∀ p ∈ forms ((u.line line).shown t.typ t.width plain),
      let refused := maskRun 128 (a.toNat % 128) p.2.1 &&& ~~~ readMask (u.line line) t.typ t.width plain
      a.toNat % p.2.1 = 0 → s.admitted (s.master mc) kHome (t.pa a / 65536) (Need.read.right t.cls) = true →
        (∀ k ∈ u.markers, k.1 ≠ line) → t.cls = .lat → t.cork = false → u.poisoned.contains line = false →
        (u.pressQ.any fun o => o.line == line && o.who == u.lesseeParty m) = false →
        (refused = 0 → exec p.1 s = .next (u.setMc mc p.2.2)) ∧
        (refused ≠ 0 → exec p.1 s = .next (u.setMc mc (m.accessFault 16 a))))) ∧
  (∀ (s u : State) (mc : Nat) (v : Word) (t : Tlb), McReady s mc → (s.mc mc).miss = none →
    let m := s.mc mc
    ∀ p ∈ ([(.mcSt mc v, m.sa, 8, v.zeroExtend 1024), (.mcSw4 mc v, m.sa, 4, v.zeroExtend 1024), (.mcLst mc v, v, 128, m.bufs[m.lb])] :
        List (Instr × Word × Nat × BitVec 1024)),
      let a := p.2.1
      let valid := maskRun 128 (a.toNat % 128) p.2.2.1
      let data := p.2.2.2 <<< (8 * (a.toNat % 128))
      let fin (w : State) : State := w.setMc mc { w.mc mc with miss := none }
      aDev a = s.dev → aWin a = false → s.mcLook mc a = (u, .hit t) → (p.2.2.1 = 128 → m.bufWords.any m.bad.contains = false) →
      (a.toNat % p.2.2.1 ≠ 0 → exec p.1 s = .next (s.setMc mc (m.accessFault 6 a))) ∧
      (a.toNat % p.2.2.1 = 0 → s.admitted (s.master mc) kHome (t.pa a / 65536) (Need.write.right t.cls) = true →
        (t.cls = .own → exec p.1 s = .next (fin (u.mcOwn mc (t.pa a / 128) a valid data))) ∧
        (t.cls = .lat → p.2.2.1 = 128 → exec p.1 s = .next (u.setMc mc ((u.mc mc).accessFault 17 a))) ∧
        (t.cls = .lat → p.2.2.1 ≠ 128 → p.2.2.1 = wBytes t.width → joinAccepts t.typ = true →
          exec p.1 s = .next (fin (u.mcJoin mc t (t.pa a / 128) a valid data))))) ∧
  (∀ (s u : State) (mc : Nat) (v : Word) (t : Tlb), McReady s mc → (s.mc mc).miss = none →
    v.toNat % 128 = 0 → aDev v = s.dev → aWin v = false → s.mcLook mc v = (u, .hit t) → t.cls = .lat →
    s.admitted (s.master mc) kHome (t.pa v / 65536) (Need.join.right t.cls) = true → joinAccepts t.typ = true →
    (s.mc mc).bufWords.any (s.mc mc).bad.contains = false →
    let w := u.mcJoin mc t (t.pa v / 128) v (BitVec.allOnes 128) (s.mc mc).bufs[(s.mc mc).lb]
    exec (.mcLjoin mc v) s = .next (w.setMc mc { w.mc mc with miss := none })) ∧
  (∀ (s : State) (mc : Nat) (v : Word), McReady s mc → (s.mc mc).miss = none →
    let m := s.mc mc
    let sent (ep addr : Nat) (canopy : Bool) : State :=
      s.setMc mc { m with pushes := m.pushes ++
        [⟨mc, ep, canopy, addr, v, m.bufs[m.lb], m.team, m.pc, m.call.map fun c => (c.ctx, c.seq)⟩] }
    (m.bufWords.any m.bad.contains = true → exec (.mcLst mc v) s = .next (s.mcBroken mc) ∧ exec (.mcLjoin mc v) s = .next (s.mcBroken mc)) ∧
    (m.bufWords.any m.bad.contains = false → v.toNat % 128 = 0 → aDev v = s.dev → aWin v = true → isCompute (aEp v) = true →
      s.admitted (s.master mc) kCore (aEp v) rWrite = true → exec (.mcPw mc v) s = .next (sent (aEp v) (aOff v) false)) ∧
    (∀ ep, m.bufWords.any m.bad.contains = false → (v.extractLsb' 16 11).toNat = ep → v.extractLsb' 13 3 = 0 →
      v.extractLsb' 27 37 = 0 → isCompute ep = true → s.admitted (s.master mc) kCore ep rWrite = true → exec (.mcPc mc v) s = .next (sent ep (v.toNat % 8192) true))) ∧
  (∀ (s u : State) (mc : Nat) (p : Push) (rest : List Push), (s.mc mc).pushes = p :: rest →
    ((s.teamOf p.ep).any fun t => t.num = p.team) = true →
    let r := s.setMc mc { s.mc mc with pushes := rest }
    (p.canopy = true → exec (.mcPushArrival mc) s = .next (r.modCore p.ep fun c =>
      c.putCanopy (128 * p.addr) 128 p.data.toNat)) ∧
    (p.canopy = false → p.addr < (s.core p.ep).padSize →
      r.winPut p.ep false false p.addr 128 p.data.toNat (2 ^ 128 - 1) = .ok u → exec (.mcPushArrival mc) s = .next u))) ∧
  (∀ (s : State) (mc : Nat) (v : BitVec 64), McReady s mc →
    let m := s.mc mc
    let b (p : Bool) : Word := if p then 1 else 0
    (∀ p ∈ ([(.mcAdd mc v, m.a + v), (.mcSub mc v, m.a - v), (.mcAnd mc v, m.a &&& v), (.mcOr mc v, m.a ||| v),
        (.mcXor mc v, m.a ^^^ v), (.mcShl mc v, m.a <<< (v.toNat % 64)), (.mcShr mc v, m.a >>> (v.toNat % 64)),
        (.mcSra mc v, m.a.sshiftRight (v.toNat % 64)), (.mcMul mc v, BitVec.ofNat 64 (m.a.toNat * v.toNat)),
        (.mcLtu mc v, b (decide (m.a.toNat < v.toNat))), (.mcLt mc v, b (decide (m.a.toInt < v.toInt))), (.mcEq mc v, b (m.a == v)),
        (.mcMinu mc v, BitVec.ofNat 64 (min m.a.toNat v.toNat)), (.mcMaxu mc v, BitVec.ofNat 64 (max m.a.toNat v.toNat)),
        (.mcInc mc v, v + 1), (.mcDec mc v, v - 1), (.mcNot mc v, ~~~v), (.mcNeg mc v, -v)] : List (Instr × Word)),
      exec p.1 s = .next (s.setMc mc { m with r := p.2, miss := none })) ∧
    (∃ t, exec (.mcBput mc v) s = .next t ∧ (t.mc mc).bi = m.bi + 1 ∧ (t.mc mc).g = m.g ∧
      (∀ i : Fin 4, i ≠ m.lb → (t.mc mc).bufs[i] = m.bufs[i]) ∧
      ∀ k : Fin 16, (t.mc mc).bufs[m.lb].extractLsb' (64 * k.val) 64 =
        if k = m.bi then v else m.bufs[m.lb].extractLsb' (64 * k.val) 64) ∧
    (m.bad.contains (4112 + 16 * m.lb.val + m.bi.val) = false →
      exec (.mcBget mc) s = .next (s.setMc mc { m with bi := m.bi + 1, lr := m.bufs[m.lb].extractLsb' (64 * m.bi.val) 64, miss := none })) ∧
    (m.bad.contains (4112 + 16 * m.lb.val + m.bi.val) = true → exec (.mcBget mc) s = .next (s.mcBroken mc))) ∧
  (∀ (c : Core) (addr n v : Nat), (c.putCanopy addr n v).canopy = writeRange c.canopy addr n v) ∧
  ((∀ (s : State) (mc : Nat) (c : Call), McReady s mc → s.pkg.ttrip = false → (s.mc mc).await = none →
      (s.mc mc).bad.contains (s.mc mc).pc = false → (s.mc mc).call = some c →
    let m := s.mc mc
    let w := mgetD m.imem m.pc 0
    let a := moveOf (w.extractLsb' 0 32)
    let b := moveOf (w.extractLsb' 32 32)
    let far (v : Move) : Bool := v.fires m && v.dst == 56 && decide (4096 ≤ (v.get m mc).toNat)
    let takes (v : Move) (d : Nat) : Bool := v.fires m && v.dst == d
    let value (d : Nat) : Option Word := if takes a d then some (a.get m mc) else if takes b d then some (b.get m mc) else none
    let bget (v : Move) : Bool := v.fires m && !v.imm && v.src == 48
    let broken (v : Move) : Bool := v.fires m && v.broken m
    let fence : Bool := (takes a 57 || takes a 58) || (takes b 57 || takes b 58)
    (bundleBad a b m.jump.isSome = true ∨ far a = true ∨ far b = true →
      exec (.mcBundle mc) s = .next (s.setMc mc (m.endCall (callToken 0 m.pc c.seq 2)))) ∧
    (bundleBad a b m.jump.isSome = false → far a = false → far b = false →
      (broken a = true ∨ broken b = true → exec (.mcBundle mc) s = .next (s.mcBroken mc)) ∧
      (broken a = false → broken b = false →
        (fence = true → s.mcQuiet m = false → exec (.mcBundle mc) s = .next s) ∧
        ∀ t u, fence = false ∨ s.mcQuiet m = true →
          (if bget a || bget b then s.setMc mc { m with bi := m.bi + 1 } else s).mcMove mc (a.fires m) a.dst (a.get m mc) = .ok t →
          t.mcMove mc (b.fires m) b.dst (b.get m mc) = .ok u →
          let v := u.setMc mc { u.mc mc with miss := none }
          (fence = true → v.mcQuiet (v.mc mc) = false →
            exec (.mcBundle mc) s = .next (v.setMc mc { v.mc mc with await := some (value 57) })) ∧
          (fence = false ∨ v.mcQuiet (v.mc mc) = true →
            (value 57 = none → exec (.mcBundle mc) s = .next (v.setMc mc { v.mc mc with
              pc := (match m.jump with | some d => d | none => (m.pc + 1) % 4096)
              jump := (value 56).map (·.toNat), await := none })) ∧
            (∀ x d, value 57 = some x → (v.mc mc).call = some d →
              exec (.mcBundle mc) s =
                .next (v.setMc mc ((v.mc mc).endCall (callToken (x.extractLsb' 0 32) m.pc d.seq 0)))))))) ∧
  (∀ (s : State) (mc : Nat) (done : Option Word), McReady s mc → s.pkg.ttrip = false → (s.mc mc).await = some done →
    let m := s.mc mc
    (s.mcQuiet m = false → exec (.mcBundle mc) s = .next s) ∧
    (s.mcQuiet m = true →
      (done = none → exec (.mcBundle mc) s = .next (s.setMc mc { m with
        pc := (match m.jump with | some d => d | none => (m.pc + 1) % 4096), jump := none, await := none })) ∧
      (∀ x c, done = some x → m.call = some c →
        exec (.mcBundle mc) s = .next (s.setMc mc (m.endCall (callToken (x.extractLsb' 0 32) m.pc c.seq 0)))))) ∧
  (∀ (s : State) (mc : Nat) (v : BitVec 64) (c : Call), McReady s mc → (s.mc mc).call = some c →
    let m := s.mc mc
    (v.toNat < 4096 → m.jump = none → exec (.mcJmp mc v) s = .next (s.setMc mc { m with jump := some v.toNat, miss := none })) ∧
    (m.miss = none → (4096 ≤ v.toNat ∨ m.jump ≠ none) →
      exec (.mcJmp mc v) s = .next (s.setMc mc (m.endCall (callToken 0 m.pc c.seq 2)))) ∧
    (s.mcQuiet m = true → exec (.mcFence mc) s = .next (s.setMc mc { m with miss := none }) ∧
      exec (.mcDone mc v) s = .next (s.setMc mc ({ m with miss := none }.endCall (callToken (v.extractLsb' 0 32) m.pc c.seq 0)))) ∧
    (s.mcQuiet m = false → exec (.mcFence mc) s = .next s ∧ exec (.mcDone mc v) s = .next s)) ∧
  (∀ (m : MemCore) (c : Call) (token : Word), m.call = some c →
    (m.endCall token).ended = m.ended ++ [(c, token)] ∧ (m.st ≠ .draining → (m.endCall token).call = m.queued) ∧
    (m.st = .draining → (m.endCall token).call = none ∧ (m.endCall token).queued = m.queued) ∧
    (m.queued = none → m.st = .running → (m.endCall token).st = .leased)))

/-- R475, R477: RHOLD makes a handle in the lowest free slot from the pages it translates, RPRIO sets a priority, RDROP frees a
slot, with the traps of each; a limit that no slice exceeds demotes nothing. -/
def Obligations.ResidencyHandles : Prop :=
  (∀ (s u : State) (rd rs1 rs2 : Reg) (k : Nat) (pages : List (Nat × Nat × Bool)),
    let a : Word := s.x rs1
    let d : Word := s.x rs2
    let n := (d.extractLsb' 32 32).toNat
    (n = 0 ∨ 65536 < n ∨ d.extractLsb' 3 29 ≠ 0 → exec (.rhold rd rs1 rs2) s = .next (trapped 2 d s)) ∧
    (n ≠ 0 → n ≤ 65536 → d.extractLsb' 3 29 = 0 →
      (a.toNat % 65536 ≠ 0 → exec (.rhold rd rs1 rs2) s = .next (trapped 6 a s)) ∧
      (a.toNat % 65536 = 0 → (aDev a ≠ s.dev ∨ aWin a = true) → exec (.rhold rd rs1 rs2) s = .next (trapped 17 a s)) ∧
      (a.toNat % 65536 = 0 → aDev a = s.dev → aWin a = false → freeKey s.ctx.handles 8 = none →
        exec (.rhold rd rs1 rs2) s = .next (trapped 2 0 s)) ∧
      (a.toNat % 65536 = 0 → aDev a = s.dev → aWin a = false → freeKey s.ctx.handles 8 = some k →
        s.holdPages a [] n = .ok (u, pages) →
        let h : Handle := ⟨pages, d.extractLsb' 0 3, u.next⟩
        let t := { u.setCtx { u.ctx with handles := mput u.ctx.handles k h } with next := u.next + 1 }
        exec (.rhold rd rs1 rs2) s = .next (t.applyPins.setX rd (BitVec.ofNat 64 k)).advance))) ∧
  (∀ (s : State) (rs1 rs2 : Reg),
    let v : Word := s.x rs1
    let p : Word := s.x rs2
    (7 < v.toNat ∨ mget s.ctx.handles v.toNat = none →
      exec (.rprio rs1 rs2) s = .next (trapped 2 v s) ∧ exec (.rdrop rs1) s = .next (trapped 2 v s)) ∧
    (∀ h, v.toNat ≤ 7 → mget s.ctx.handles v.toNat = some h →
      (7 < p.toNat → exec (.rprio rs1 rs2) s = .next (trapped 2 v s)) ∧
      (1 ≤ p.toNat → p.toNat ≤ 7 → exec (.rprio rs1 rs2) s = .next
        (s.setCtx { s.ctx with handles := mput s.ctx.handles v.toNat { h with prio := p.extractLsb' 0 3 } }).applyPins.advance) ∧
      (p = 0 → exec (.rprio rs1 rs2) s = .next
        ((s.released h).setCtx { (s.released h).ctx with
          handles := mput (s.released h).ctx.handles v.toNat { h with prio := 0 } }).applyPins.advance) ∧
      exec (.rdrop rs1) s = .next
        ((s.released h).setCtx { (s.released h).ctx with handles := mdel (s.released h).ctx.handles v.toNat }).advance)) ∧
  (∀ s : State, s.overPinned = false → s.applyPins = s)

/-! ## The lattice (R93 to R135, R460 to R476) -/

/-- R106, R108, R109, R121, R127: through a translation that it finds, JOIN and JOINM send a join of the low W bytes for each
element, XLD reads from the copy in the L1 or from the press, with the sign of its type, REL waits and REL_SEND then sends value and
signature and clears the signature, and FOLD.S and FOLD.H append a record of the domain that kdom names; what the type or alignment
refuses traps. R523: words with uncorrectable errors of a list that JOINM has read are reported. -/
def Obligations.ElementInstructions : Prop :=
  (∀ (s u : State) (rs1 rs2 : Reg) (t : Tlb),
    let a : Word := s.x rs1
    let w := wBytes t.width
    let line := t.pa a / 128
    let b := lineBytes a w (s.x rs2)
    PieceReady s a (8 - a.toNat % 8) → s.translate s.cur.1 .join a = (u, .ok t (t.pa a)) →
    (t.cls = .lat → joinAccepts t.typ = true →
      (a.toNat % w = 0 → exec (.join rs1 rs2) s = .next (u.storeLat s.cur.1 s.cur.2 t line a b.1 b.2).advance) ∧
      (a.toNat % w ≠ 0 → ∃ v, exec (.join rs1 rs2) s = .next (trapped 6 a v) ∧ v.ctx = s.ctx)) ∧
    (t.cls ≠ .lat ∨ joinAccepts t.typ = false → ∃ v, exec (.join rs1 rs2) s = .next (trapped 17 a v) ∧ v.ctx = s.ctx)) ∧
  (∀ (s u : State) (rd rs1 : Reg) (t : Tlb),
    let a : Word := s.x rs1
    let w := wBytes t.width
    let line := t.pa a / 128
    let v := u.cbDrainLine s.cur.1 s.cur.2 line
    let acc := scalarAcc u .xld a w 0 (.x rd w (t.typ == 2 || t.typ == 5))
    PieceReady s a (8 - a.toNat % 8) → s.translate s.cur.1 .read a = (u, .ok t (t.pa a)) →
    (t.cls = .lat → a.toNat % w = 0 →
      (∀ d, v.latCopy s.cur.1 line (lineBytes a w 0).1 = some d →
        exec (.xld rd rs1) s = .next (v.addAcc s.cur.1 (acc (.back (fromLine [(a, 0, w)] d)))).advance) ∧
      (v.latCopy s.cur.1 line (lineBytes a w 0).1 = none →
        exec (.xld rd rs1) s = .next (((v.toPress (v.pressOp s.cur.1 s.cur.2 t line a (.read t.width u.me.nextAge t.cork))).addAcc
          s.cur.1 (acc .press)).holdOn (.exact u.me.nextAge)))) ∧
    (t.cls = .lat → a.toNat % w ≠ 0 → ∃ v, exec (.xld rd rs1) s = .next (trapped 4 a v) ∧ v.ctx = s.ctx) ∧
    (t.cls ≠ .lat → ∃ v, exec (.xld rd rs1) s = .next (trapped 17 a v) ∧ v.ctx = s.ctx)) ∧
  (∀ (s u : State) (rs1 rs2 : Reg) (ps : List (Word × Tlb)),
    let cs := ps.map fun p => elemChunk p.1
    s.readList (s.x rs1) 16 = .ok (ps.map fun p => p.1) →
    s.lineBusy s.cur.1 s.cur.2 false cs = false → s.rangeBusy s.cur.1 cs = false → s.acquiring s.cur.1 s.cur.2 = false →
    s.me.tickets ≤ 16 → (∀ x ∈ s.me.accs, x.grp < s.me.nextAge) →
    s.locate s.cur.1 .join (cs.map fun c => [c]) = (u, ps.map fun p => ([elemChunk p.1], .page (.ok p.2 (p.2.pa p.1)))) →
    (∀ p ∈ ps, p.2.cls = .lat ∧ joinAccepts p.2.typ = true ∧ p.1.toNat % wBytes p.2.width = 0) →
    let joined := (ps.foldl (fun (v : State) p =>
      let b := lineBytes p.1 (wBytes p.2.width) (s.x rs2)
      v.storeLat s.cur.1 s.cur.2 p.2 (p.2.pa p.1 / 128) p.1 b.1 b.2) u).advance
    exec (.joinm rs1 rs2) s = .next (joined.tellPad s.cur.1 s.cur.2 s.cur.1 0 [((s.x rs1).toNat, 8 * (ps.length + 1))])) ∧
  (∀ (s : State) (rs1 rs2 : Reg), exec (.rel rs1 rs2) s =
    .next ((s.cbDrainCtx s.cur.1 s.cur.2).holdOn (.rel (s.x rs1) (s.x rs2)))) ∧
  (∀ (s u : State) (ep : Nat) (n : Fin 11) (a v : Word) (t : Tlb), (s.ctxAt ep n).hold = .rel a v →
    s.quiet ep n = true → (s.ctxAt ep n).deferred = [] → (s.core ep).frozen = false →
    let s1 := { s.modCtx ep n fun x => { x with hold := .free } with cur := (ep, n), out := .done }
    let w := wBytes t.width
    PieceReady s1 a (8 - a.toNat % 8) → s1.translate ep .join a = (u, .ok t (t.pa a)) →
    t.cls = .lat → t.typ = 1 → t.width = 2 ∨ t.width = 3 → a.toNat % w = 0 →
    exec (.relSend ep n) s = .next (((u.toPress (u.pressOp ep n t (t.pa a / 128) a (.rel (a.toNat % 128) t.width v
      (s.ctxAt ep n).sig))).advance).modCtx ep n fun x => { x with sig := 0 })) ∧
  (∀ (s u : State) (rs1 rs2 rs3 : Reg) (lvl : BitVec 2) (t : Tlb),
    let d := s.ctx.csr.dom[lvl.toNat]
    let a : Word := s.x rs1
    let key : BitVec 32 := (s.x rs2).extractLsb' 0 32
    let rec_ (value : BitVec 32) : PressOp := u.pressOp s.cur.1 s.cur.2 t (t.pa a / 128) a
      (.fold (a.toNat % 128) ⟨a, key, value, d.lvl, d.dom, d.phase⟩)
    (d.v = false → exec (.foldS rs1 rs2 rs3 lvl) s = .next (trapped 17 a s) ∧ exec (.foldH rs1 rs2 rs3 lvl) s = .next (trapped 17 a s)) ∧
    (d.v = true → PieceReady s a (4 - a.toNat % 4) → s.translate s.cur.1 .join a = (u, .ok t (t.pa a)) → t.cls = .lat → a.toNat % 4 = 0 →
      (t.typ = 12 → exec (.foldS rs1 rs2 rs3 lvl) s = .next (u.toPress (rec_ (s.f rs3))).advance) ∧
      (t.typ = 13 → exec (.foldH rs1 rs2 rs3 lvl) s =
        .next (u.toPress (rec_ (BitVec.ofNat 32 ((s.f rs3).toNat % 65536 * 65536)))).advance)))

/-- R110, R111, R112, R124: a WAIT or ACQ that its page accepts goes to the press and parks the context, which keeps its pc; the
answer writes the result and lets the context go on; the answer of ACQ removes the copies of LAT lines that its signature names.
R102, R107, R305, R113, R114, R131, R117, R118: the range instructions, page by page, a large page as one, which the range is to cover or
the instruction traps with its base, and a page only when nothing older of the context in its lines is outstanding: CORK and RACK send an operation for each line of a page, CORK goes on and CORKW and RACK park
after the last page, until their acknowledgements are all there; BOTTLE and RECYCLE ask a conversion of the page, the context held,
and complete after the last page. -/
def Obligations.WaitsAndRanges : Prop :=
  ((∀ (s u : State) (rd rs1 rs2 rs3 : Reg) (t : Tlb),
    let a : Word := s.x rs1
    let line := t.pa a / 128
    let sent (i : Instr) (form : WaitForm) (trig : List Word) (prior : Word) (after : State → State) : Prop :=
      let s1 := { s.setCtx { s.ctx with life := .parked (.wait (form == .acq) rd s.next) } with next := s.next + 1 }
      s.flushPending s.cur.1 = false → PieceReady s1 a (8 - a.toNat % 8) → s1.translate s.cur.1 .wait a = (u, .ok t (t.pa a)) →
      t.cls = .lat → waitAccepts form t.typ t.width = true → a.toNat % wBytes t.width = 0 →
      let v := u.cbDrainLine s.cur.1 s.cur.2 line
      let v := (v.toPress (u.pressOp s.cur.1 s.cur.2 t line a (.wait (a.toNat % 128) t.width form trig prior s.next))).advance
      exec i s = .next (after (v.setCtx { v.ctx with pc := s.pc }))
    sent (.waitGe rd rs1 rs2) .ge [s.x rs2] 0 id ∧ sent (.waitHas rd rs1 rs2) .has [s.x rs2] 0 id ∧
    sent (.waitFull rd rs1) .full [] 0 id ∧ sent (.waitCork rd rs1) .cork [] 0 id ∧
    sent (.acq rd rs1 rs2 rs3) .acq [s.x rs2] (s.x rs3) id ∧
    ∀ trig, s.readList (s.x rs2) 8 = .ok trig → compatPair t.typ t.width trig = none → sent (.waitAny rd rs1 rs2) .any trig 0 fun w =>
      w.tellPad s.cur.1 s.cur.2 s.cur.1 0 [((s.x rs2).toNat, 8 * (trig.length + 1))]) ∧
  (∀ (s : State) (k ep : Nat) (n : Fin 11) (rd : Reg) (id : Nat) (result : Word) (fdom : BitVec 16),
    s.net[k]? = some (.waitAns ep n id result fdom) → (s.core ep).frozen = false → (s.ctxAt ep n).life = .parked (.wait false rd id) →
    exec (.waitAnswer k) s = .next ((s.take k).endWait ep n rd result)) ∧
  (∀ (s : State) (k ep : Nat) (n : Fin 11) (rd : Reg) (id : Nat) (result : Word) (g : BitVec 1024),
    s.net[k]? = some (.acqAns ep n id result g) → (s.core ep).frozen = false → (s.ctxAt ep n).life = .parked (.wait true rd id) →
    exec (.acqAnswer k) s = .next (((s.take k).modCore ep fun c => c.invalidate g).endWait ep n rd result)) ∧
  (∀ (s : State) (ep : Nat) (n : Fin 11) (rd : Reg) (result : Word),
    let x := (s.endWait ep n rd result).ctxAt ep n
    x.life = .live ∧ x.pc = (s.ctxAt ep n).pc + 4 ∧
    ∀ r : Reg, x.rx r = if r = 0 then 0 else if r = rd then result else (s.ctxAt ep n).rx r) ∧
  (∀ (c : Core) (g : BitVec 1024) (l : Nat × L1Line),
    l ∈ (c.invalidate g).l1 ↔ l ∈ c.l1 ∧ (l.2.lat = true → sigHas g (aLine l.2.va) = false)) ∧
  (∀ (s : State) (ep : Nat) (n : Fin 11) (off : Nat), (s.ctxAt ep n).life = .parked (.word off) → (s.core ep).frozen = false →
    ((s.core ep).isFull off = true → exec (.emptyWordReadWake ep n) s = .next (s.modCtx ep n fun x => { x with life := .live })) ∧
    ((s.core ep).isFull off = false → exec (.emptyWordReadWake ep n) s = .next s))) ∧
  ((∀ (s u : State) (rs1 rs2 : Reg) (t : Tlb),
    let base : Word := s.x rs1
    let total := (s.x rs2).toNat / 128
    let a := base + BitVec.ofNat 64 (128 * s.ctx.cursor)
    let lines := pageLines a (total - s.ctx.cursor) t.lg
    let whole : Prop := t.lg = true → a.toNat % 33554432 = 0 ∧ 262144 ≤ total - s.ctx.cursor
    let corked := u.pagePress t (t.pa a) a lines .cork
    let racked := u.pagePress t (t.pa a) a lines .rack
    let next (v : State) : State := { v.setCtx { v.ctx with cursor := v.ctx.cursor + lines } with out := .done }
    let parks (v : State) (why : Park) : State := (v.setCtx { v.ctx with cursor := 0 }).park (.parked why)
    let all := decide (s.ctx.cursor + lines ≥ total)
    (base.toNat % 128 ≠ 0 ∨ (s.x rs2).toNat % 128 ≠ 0 →
      ∀ i ∈ ([.cork rs1 rs2, .corkw rs1 rs2, .rack rs1 rs2] : List Instr), exec i s = .next (trapped 6 base s)) ∧
    (base.toNat % 128 = 0 → (s.x rs2).toNat % 128 = 0 → total ≠ 0 → aDev a = s.dev → aWin a = false →
      s.pageHeld a (pageLines a (total - s.ctx.cursor) false) = false → (t.lg = true → whole → u.pageHeld a lines = false) →
      s.translate s.cur.1 .cork a = (u, .ok t (t.pa a)) →
      (¬whole → ∀ i ∈ ([.cork rs1 rs2, .corkw rs1 rs2, .rack rs1 rs2] : List Instr),
        exec i s = .next (trapped 6 (BitVec.ofNat 64 (a.toNat / 33554432 * 33554432)) s)) ∧
      (whole → t.cls = .lat → t.typ ≠ 12 → t.typ ≠ 13 →
        exec (.cork rs1 rs2) s = .next (if all then corked.advance else next corked) ∧
        exec (.corkw rs1 rs2) s = .next (if all then parks corked .corkw else next corked) ∧
        ∃ v, exec (.rack rs1 rs2) s = .next (trapped 17 a v)) ∧
      (whole → t.cls = .lat → t.typ = 12 ∨ t.typ = 13 →
        exec (.rack rs1 rs2) s = .next (if all then parks racked .rack else next racked) ∧
        (∃ v, exec (.cork rs1 rs2) s = .next (trapped 17 a v)) ∧ ∃ v, exec (.corkw rs1 rs2) s = .next (trapped 17 a v)))) ∧
  (∀ (s : State) (ep : Nat) (n : Fin 11), s.rangeAcked ep n = true → (s.core ep).frozen = false → s.flushPending ep = false →
    let woken := s.modCtx ep n fun x => { x with life := .live, pc := x.pc + 4 }
    ((s.ctxAt ep n).life = .parked .corkw → exec (.corkAck ep n) s = .next woken) ∧
    ((s.ctxAt ep n).life = .parked .rack → exec (.rackComplete ep n) s = .next woken)) ∧
  (∀ (s u v : State) (rs1 rs2 rs3 : Reg) (t : Tlb) (c : Cluster),
    let base : Word := s.x rs1
    let total := (s.x rs2).toNat / 128
    let target : Word := s.x rs3
    let a := base + BitVec.ofNat 64 (128 * s.ctx.cursor)
    let lines := pageLines a (total - s.ctx.cursor) t.lg
    let whole : Prop := t.lg = true → a.toNat % 33554432 = 0 ∧ 262144 ≤ total - s.ctx.cursor
    base.toNat % 65536 = 0 → (s.x rs2).toNat % 65536 = 0 →
    (total ≤ s.ctx.cursor → exec (.bottle rs1 rs2) s = .next s.advance ∧
      (targetBad target = false → exec (.recycle rs1 rs2 rs3) s = .next s.advance)) ∧
    (targetBad target = true → exec (.recycle rs1 rs2 rs3) s = .next (trapped 2 target s)) ∧
    (s.ctx.cursor < total → s.relStep = (u, true) → u.me.tickets < 16 → aDev a = s.dev → aWin a = false → u.ctx.cursor = s.ctx.cursor →
      u.pageHeld a (pageLines a (total - s.ctx.cursor) false) = false → (t.lg = true → v.pageHeld a lines = false) →
      u.translate s.cur.1 .cork a = (v, .ok t (t.pa a)) → whole →
      let held (r : Res) (w : State) (what : Nat) (tg : Word) (after : State → State) : Prop :=
        ∃ acc code, acc.va = a ∧ acc.len = 128 * lines ∧ acc.op = .range what tg base total ∧ acc.stage = .ticket s.dev code ∧
          acc.ctx = s.cur.2 ∧
          r = .next (after (((w.setCluster (clusterOf s.cur.1) c).addAcc s.cur.1 acc).holdOn (.convert w.me.nextAge)))
      let asked (w : State) (m : Word × Word) (tg : Word) : Prop :=
        w.convert (clusterOf s.cur.1) (s.dev, s.cur.1) (aVpn a) lines w.me.owner m.1 m.2 (w.party s.cur.1 s.cur.2, w.me.nextAge, tg) = some c
      (t.cls = .own → t.owner = v.me.owner → t.mask = 0 → t.pa a < 2 ^ 40 →
        let w := v.cleanLines t.owner (t.pa a / 128) lines
        asked w (mapWord (t.pa a / 65536) .lat 9 3 t.vint true, 0) 0 → held (exec (.bottle rs1 rs2) s) w 3 0 fun x => x) ∧
      (t.cls = .lat → targetBad target = false → asked v (recycleWords t (t.pa a) target) target →
        held (exec (.recycle rs1 rs2 rs3) s) v 4 target fun x =>
          x.pagePress t (t.pa a) a lines (if t.typ = 12 ∨ t.typ = 13 then .rack else .cork)))) ∧
  (∀ (t : Tlb) (pa : Nat) (target : Word),
    let m := (recycleWords t pa target).1
    m.extractLsb' 16 8 = t.vint + 1 ∧ m.getLsbD 15 = false ∧ m.extractLsb' 32 32 = BitVec.ofNat 32 (pa / 65536)))

/-- R96, R97: the joins of values are commutative and associative, and but for SATADD idempotent; what has been passed is what a
join leaves unchanged, and for SATADD what is not greater. -/
def Obligations.JoinAlgebra : Prop :=
  ∀ (typ : BitVec 4) (w : BitVec 2) (a b c : Nat), typeOk typ w = true → joinAccepts typ = true → typ ≠ 9 →
    let n := 8 * wBytes w
    a < 2 ^ n → b < 2 ^ n → c < 2 ^ n →
    latJoin typ n a b < 2 ^ n ∧ latJoin typ n a b = latJoin typ n b a ∧
    latJoin typ n (latJoin typ n a b) c = latJoin typ n a (latJoin typ n b c) ∧
    (typ ≠ 8 → (typ = 3 ∨ typ = 6 → isNan32 a = false) → latJoin typ n a a = a) ∧
    latJoin typ n (latBottom typ n) a = (if (typ = 3 ∨ typ = 6) ∧ isNan32 a = true then qnan32 else a) ∧
    (typ ≠ 8 → (passed typ n a b = true ↔ latJoin typ n b a = b)) ∧ (typ = 8 → (passed typ n a b = true ↔ a ≤ b))

/-- R463: the oldest operation of a line is taken from the input of its press and applied; one behind another operation of its line is
not. R115: a cork sets the line's cork state and changes no memory. R461: WOVF stays set while a registration of the line is in the waiter
table. R131: a rack corks and racks a line that is not racked. R128, R129:
a fold of the line's vintage, before its rack and of its first domain, is appended to the lees, which it counts in; another one is not.
R464: an exact read is answered with the line and its readability mask. R465: a wait whose condition holds is answered; another one is
registered in the array, in the waiter table with WOVF set, or, where that is full, made again 1,024 cycles later. R175, R385: an
entry of a combining buffer leaves when its hold time is over, LAT data towards the press and OWN data into the L1; one of a router
leaves its port after 16 cycles, for the next port of its way or the press. That a read or a wait has the line's vintage is
R105's condition; the ports of a way are the model's (log 14). -/
def Obligations.PressSteps : Prop :=
  ((∀ (s : State) (k : Nat) (op : PressOp), s.pressQ[k]? = some op →
    let t := s.takePress k
    ((∀ o ∈ s.pressQ.take k, o.line ≠ op.line) →
      (∀ w valid data ps host, op.kind = .join w valid data ps host →
        exec (.pressJoin k) s = .next (t.pressJoin op w valid data ps host)) ∧
      (∀ off w v g, op.kind = .rel off w v g → exec (.pressRel k) s = .next (t.pressRel op off w v g)) ∧
      (op.kind = .cork → exec (.pressCork k) s = .next ((t.pressCork op.line).ackLast op)) ∧
      (op.kind = .rack → exec (.pressCork k) s = .next ((t.rackLine op.line fun _ => true).ackLast op)) ∧
      (∀ off r, op.kind = .fold off r → exec (.pressFoldAppend k) s = .next (t.pressFold op off r)) ∧
      (∀ off w form trig prior id, op.kind = .wait off w form trig prior id → op.vint = (s.line op.line).vint →
        exec (.pressWaitRegister k) s = .next (t.register op off w form trig prior id)) ∧
      (∀ w age all, op.kind = .read w age all → op.vint = (s.line op.line).vint → op.who.dev = s.dev → op.who.ep ≠ 1036 →
        s.poisoned.contains op.line = false →
        let d := lineOf s.mem op.line
        exec (.pressExactRead k) s = .next (t.exactBack op.who.ep op.line op.va age ((s.line op.line).shown op.typ w d)
          (if all then BitVec.allOnes 128 else readMask (s.line op.line) op.typ w d)))) ∧
    ((∃ o ∈ s.pressQ.take k, o.line = op.line) →
      ∀ i ∈ ([.pressJoin k, .pressRel k, .pressCork k, .pressFoldAppend k, .pressWaitRegister k, .pressExactRead k] : List Instr),
        exec i s = .next s)) ∧
  (∀ (s : State) (line : Nat),
    let t := s.pressCork line
    let far (r : Registration) : Bool := r.line == line && r.table
    t.mem = s.mem ∧ t.line line = { s.line line with cork := true, wovf := (t.line line).wovf } ∧
    ((s.line line).wovf = s.regs.any far → (t.line line).wovf = t.regs.any far) ∧ ∀ l, l ≠ line → t.line l = s.line l) ∧
  (∀ (s : State) (line : Nat) (sel : LeesRec → Bool),
    let t := s.rackLine line sel
    ((s.line line).rack = true → t = s) ∧
    ((s.line line).rack = false → t.line line = { s.line line with cork := true, rack := true, wovf := (t.line line).wovf } ∧
      t.lees = s.lees.filter fun r => !(r.line = line && sel r))) ∧
  (∀ (s : State) (op : PressOp) (off : Nat) (r : FoldRec),
    let l := s.line op.line
    let t := s.pressFold op off r
    let takes : Prop := l.vint = op.vint ∧ l.rack = false ∧ (l.fdv = true → l.fdom = r.dom ∧ l.flvl = r.lvl)
    (takes → t.lees = s.lees ++ [⟨op.line, off, r.key, r.value, r.lvl, r.dom, r.phase, op.who⟩] ∧
      (t.line op.line).fdv = true ∧ (t.line op.line).fdom = r.dom ∧ (t.line op.line).flvl = r.lvl) ∧
    (¬takes → t.lees = s.lees ∧ t.line op.line = l)) ∧
  (∀ (s : State) (op : PressOp) (off : Nat) (w : BitVec 2) (form : WaitForm) (trig : List Word) (prior : Word) (id : Nat),
    let slice := homeSlice op.line
    let here := (s.regs.filter fun r => r.line = op.line && !r.table).length
    let array := (s.regs.filter fun r => homeSlice r.line = slice && !r.table).length
    let table := (s.regs.filter fun r => homeSlice r.line = slice && r.table).length
    let reg (far : Bool) : Registration := ⟨op.line, off, op.typ, w, form, trig, prior, op.who, id, op.fdom, far⟩
    let t := s.register op off w form trig prior id
    (∀ res g, s.waitNow op.line off op.typ w form trig prior = some (res, g) → t = s.answer op.who id op.fdom form res g) ∧
    (s.waitNow op.line off op.typ w form trig prior = none →
      (here < 16 → array < 1024 → t = { s with regs := s.regs ++ [reg false] }) ∧
      (16 ≤ here ∨ 1024 ≤ array → table < 8192 → t.regs = s.regs ++ [reg true] ∧ (t.line op.line).wovf = true) ∧
      (16 ≤ here ∨ 1024 ≤ array → 8192 ≤ table → t = s.post (.retry (s.cycle + 1024) op)))) ∧
  (∀ (s : State) (k at_ : Nat) (op : PressOp), s.net[k]? = some (.retry at_ op) →
    (at_ ≤ s.cycle → exec (.pressWaitRetry k) s = .next ((s.take k).toPress op)) ∧
    (s.cycle < at_ → exec (.pressWaitRetry k) s = .next s))) ∧
  ((∀ (s : State) (ep k : Nat) (e : CbEntry), (s.core ep).cb[k]? = some e →
    let hold := if (s.core ep).heat e.line ≥ 2 then 64 else 4
    (e.since + hold ≤ s.cycle →
      exec (.combiningBufferLeave ep k) s = .next ((s.modCore ep fun c => { c with cb := dropAt c.cb k }).cbGo ep e)) ∧
    (s.cycle < e.since + hold → exec (.combiningBufferLeave ep k) s = .next s)) ∧
  (∀ (s : State) (ep : Nat) (e : CbEntry),
    let warmed := if e.count = 1 then s.modCore ep fun c => c.warm e.line false else s
    let ps := e.parties.map fun n => s.party ep n
    (e.lat = true → s.cbGo ep e = warmed.toRouter ep
      ⟨e.line, e.va, e.typ, e.vint, ps.headD ⟨s.dev, ep, 0, 0⟩, 0, .join e.width e.valid e.data ps false, 0⟩) ∧
    (e.lat = false → e.valid ≠ 0 →
      s.cbGo ep e = warmed.modCore ep fun c => c.l1Put e.line e.va (s.core ep).owner e.valid e.data)) ∧
  (∀ (s : State) (k : Nat) (e : RouteEntry), s.routers[k]? = some e →
    (s.cycle < e.since + 16 → exec (.routerCombineLeave k) s = .next s) ∧
    (e.since + 16 ≤ s.cycle →
      exec (.routerCombineLeave k) s = .next (s.leavePort e) ∧
      (let rest := s.routers.filter fun x => !(x.port == e.port && x.op.line == e.op.line)
       (nextPort e.port e.op.line = none → s.leavePort e = { s with routers := rest, pressQ := s.pressQ ++ [e.op] }) ∧
       ∀ p, nextPort e.port e.op.line = some p → (∀ x ∈ rest, x.port ≠ p) →
         s.leavePort e = { s with routers := rest ++ [⟨p, s.cycle, e.op⟩] }))))

/-- R95, R98, R115, R116: a join of the line's vintage before the cork joins each whole element of its line, and no other byte of
memory changes; a join after the cork, or of an old vintage, changes no memory and is reported with cause 32 and its reason for each
element, to its contexts or, for a join of the host, to the host; a FILL element takes a first value and keeps it for equal ones, and so
does the whole line of a FILLT page; a different one makes it conflicted, which is reported with cause 33. -/
def Obligations.JoinsAtPress : Prop :=
  ∀ (s : State) (op : PressOp) (w : BitVec 2) (valid : BitVec 128) (data : BitVec 1024) (ps : List Party) (host : Bool),
    let t := s.pressJoin op w valid data ps host
    let n := wBytes w
    let old (off : Nat) := lineVal (lineOf s.mem op.line) off n
    let new (off : Nat) := lineVal data off n
    let offs := activeOffs n valid
    (∀ off, off ∈ offs ↔ off % n = 0 ∧ off < 128 ∧ ∀ i < n, valid.getLsbD (off + i) = true) ∧
    (Memory.wf s.mem = true → (s.line op.line).joinDiscard op.vint = none → joinAccepts op.typ = true →
      (∀ a, ¬(a / 128 = op.line ∧ a % 128 / n * n ∈ offs) → byteAt t.mem a = byteAt s.mem a) ∧
      (op.typ ≠ 9 → ∀ off ∈ offs, lineVal (lineOf t.mem op.line) off n = latJoin op.typ (8 * n) (old off) (new off) % 2 ^ (8 * n)) ∧
      (op.typ = 9 → 4 ≤ n → ∀ off ∈ offs, (s.line op.line).fill 9 (off / n) = 0 →
        lineVal (lineOf t.mem op.line) off n = new off ∧ (t.line op.line).fill 9 (off / n) = 1) ∧
      (op.typ = 9 → 4 ≤ n → ∀ off ∈ offs, (s.line op.line).fill 9 (off / n) = 1 → old off = new off →
        lineVal (lineOf t.mem op.line) off n = new off ∧ (t.line op.line).fill 9 (off / n) = 1) ∧
      (op.typ = 9 → 4 ≤ n → ∀ off ∈ offs, (s.line op.line).fill 9 (off / n) = 1 → old off ≠ new off →
        (t.line op.line).fill 9 (off / n) = 2)) ∧
    (op.typ ≠ 10 → host = false → (∀ p ∈ ps, p.dev = s.dev) → (s.line op.line).joinDiscard op.vint ≠ none →
      t.mem = s.mem ∧ t.lines = s.lines ∧
      t.net = s.net ++ offs.flatMap fun off => (partyCtxs ps).map fun p => .report p.ep p.ctx (mkRecord 32 p.ctx
        (if (s.line op.line).vint ≠ op.vint then 1 else 0) (op.va + BitVec.ofNat 64 off) s.dev 0 (homeSlice op.line)
        (BitVec.ofNat 64 (new off)) (BitVec.ofNat 64 ((s.line op.line).vint.toNat * 2 ^ 32)) false)) ∧
    (op.typ ≠ 10 → host = true → (∀ p ∈ ps, p.dev = s.dev) → (s.line op.line).joinDiscard op.vint ≠ none →
      t.mem = s.mem ∧ t.lines = s.lines ∧ t.net = s.net ∧
      t.reports = s.reports ++ offs.map fun off => [4, 5, BitVec.ofNat 64 (aVa (op.va + BitVec.ofNat 64 off)) - s.pkg.hvBase]) ∧
    (op.typ = 10 → Memory.wf s.mem = true → (s.line op.line).joinDiscard op.vint = none →
      let st := (s.line op.line).fill 10 0
      (∀ a, a / 128 ≠ op.line → byteAt t.mem a = byteAt s.mem a) ∧
      (st = 0 ∨ (st = 1 ∧ lineOf s.mem op.line = data) → lineOf t.mem op.line = data ∧ (t.line op.line).fill 10 0 = 1) ∧
      (st = 1 → lineOf s.mem op.line ≠ data → (t.line op.line).fill 10 0 = 2) ∧
      (st = 2 → t.mem = s.mem ∧ (t.line op.line).fill 10 0 = 2) ∧
      (st = 2 ∨ (st = 1 ∧ lineOf s.mem op.line ≠ data) → host = false → (∀ p ∈ ps, p.dev = s.dev) → s.regs = [] →
        t.net = s.net ++ (partyCtxs ps).map fun p => .report p.ep p.ctx (mkRecord 33 p.ctx 0 op.va s.dev 0 (homeSlice op.line)
          (data.extractLsb' 0 64) 0 false)))

/-! ## Vectors and matrices (R163 to R266) -/

/-- R206, R207, R209 to R213: elementwise instructions, for registers and bound streams, every element type, and the broadcast form:
each active element is the operation of the elements of both sources, integers modulo 2^w, floats rounded once; an inactive element
keeps its value and gives no flag; an operation that its type does not have is cause 2. R206, R207, R214, R215, R217 to R223:
compares and mask moves, selection, broadcasts, permutations, slides and transposes, reductions, conversions and amax offers: what
each writes to each element or mask bit, an inactive one keeping its value. -/
def Obligations.VectorArithmetic : Prop :=
  (∀ (s : State) (bc : BitVec 1) (t : ElemT) (rd rs1 rs2 : Reg) (vs : List (BitVec 4096)),
    let w := elemBits t
    let n := 4096 / w
    let A := s.ctx.active n
    let el (v : BitVec 4096) (e : Nat) : Nat := (v.extractLsb' (w * e) w).toNat
    let second (e : Nat) : Nat := if bc = 1 then (s.bcast t rs2).1 else el (vs.getD 1 0) e
    let flags : Flags := if bc = 1 then (s.bcast t rs2).2 else 0
    let gives (srcs : List Reg) (extra : Flags) (i : Instr) (f : Nat → Nat → Nat → Nat × Flags) : Prop :=
      ∃ val fl, exec i s = .next (vectorDone s srcs rd val (actBytes w A) fl) ∧
        (∀ e < n, el val e =
          if A.testBit e then (f (el (vs.headD 0) e) (second e) (el (s.vold rd) e)).1 % 2 ^ w else el (s.vold rd) e) ∧
        fl = (List.range n).foldr (fun e (fl : Flags) =>
          if A.testBit e then (f (el (vs.headD 0) e) (second e) (el (s.vold rd) e)).2 ||| fl else fl) 0 ||| extra
    let srcs := if bc = 1 then [rs1] else [rs1, rs2]
    (VectorReady s srcs rd vs (actBytes w A) →
      (isFltT t = false → ∀ p ∈ ([(.vadd bc t rd rs1 rs2, fun a c _ => a + c), (.vsub bc t rd rs1 rs2, fun a c _ => a + 2 ^ w - c),
          (.vmul bc t rd rs1 rs2, fun a c _ => a * c),
          (.vmax bc t rd rs1 rs2, fun a c _ => if signedOf w a ≤ signedOf w c then c else a),
          (.vmin bc t rd rs1 rs2, fun a c _ => if signedOf w a ≤ signedOf w c then a else c),
          (.vand bc t rd rs1 rs2, fun a c _ => a &&& c), (.vor bc t rd rs1 rs2, fun a c _ => a ||| c),
          (.vxor bc t rd rs1 rs2, fun a c _ => a ^^^ c), (.vshl bc t rd rs1 rs2, fun a c _ => a * 2 ^ (c % w)),
          (.vshrl bc t rd rs1 rs2, fun a c _ => a / 2 ^ (c % w)),
          (.vshra bc t rd rs1 rs2, fun a c _ =>
            if a < 2 ^ (w - 1) then a / 2 ^ (c % w) else 2 ^ w - 1 - (2 ^ w - 1 - a) / 2 ^ (c % w))] :
          List (Instr × (Nat → Nat → Nat → Nat))), gives srcs flags p.1 fun a c d => (p.2 a c d, 0)) ∧
      (isFltT t = false → s.ctx.bound rd = none → gives srcs flags (.vfma bc t rd rs1 rs2) fun a c d => (a * c + d, 0)) ∧
      (∀ g, elemFlt t = some g →
        let r (x : Val × Flags) : Nat × Flags := encodeArith g .rne x
        let dec (a : Nat) : Val := decodeFlt g a
        gives srcs flags (.vadd bc t rd rs1 rs2) (fun a c _ => r (vAdd false (dec a) (dec c))) ∧
        gives srcs flags (.vsub bc t rd rs1 rs2) (fun a c _ => r (vAdd false (dec a) (dec c).negate)) ∧
        gives srcs flags (.vmul bc t rd rs1 rs2) (fun a c _ => r (vMul (dec a) (dec c))) ∧
        gives srcs flags (.vmax bc t rd rs1 rs2) (fun a c _ => maxFlt g true a c) ∧
        gives srcs flags (.vmin bc t rd rs1 rs2) (fun a c _ => maxFlt g false a c) ∧
        (s.ctx.bound rd = none →
          gives srcs flags (.vfma bc t rd rs1 rs2) fun a c d => r (vFma false (dec a) (dec c) (dec d))))) ∧
    (VectorReady s [rs1] rd vs (actBytes w A) →
      (isFltT t = false →
        gives [rs1] 0 (.vabs t rd rs1) (fun a _ _ => (if a < 2 ^ (w - 1) then a else 2 ^ w - a, 0)) ∧
        gives [rs1] 0 (.vneg t rd rs1) (fun a _ _ => (2 ^ w - a, 0))) ∧
      (∀ g, elemFlt t = some g →
        let r (x : Val × Flags) : Nat × Flags := encodeArith g .rne x
        gives [rs1] 0 (.vabs t rd rs1) (fun a _ _ => (a % 2 ^ (w - 1), 0)) ∧
        gives [rs1] 0 (.vneg t rd rs1) (fun a _ _ => (if a < 2 ^ (w - 1) then a + 2 ^ (w - 1) else a - 2 ^ (w - 1), 0)) ∧
        gives [rs1] 0 (.vexp2 t rd rs1) (fun a _ _ => r (vExp2 (decodeFlt g a))) ∧
        gives [rs1] 0 (.vrcp t rd rs1) (fun a _ _ => r (vRcp (decodeFlt g a))) ∧
        gives [rs1] 0 (.vrsq t rd rs1) (fun a _ _ => r (vRsq (decodeFlt g a))) ∧
        gives [rs1] 0 (.vlog2 t rd rs1) (fun a _ _ => r (vLog2 (decodeFlt g a))))) ∧
    (isFltT t = true → ∀ i ∈ ([.vand bc t rd rs1 rs2, .vor bc t rd rs1 rs2, .vxor bc t rd rs1 rs2, .vshl bc t rd rs1 rs2,
      .vshra bc t rd rs1 rs2, .vshrl bc t rd rs1 rs2] : List Instr), exec i s = .next (trapped 2 0 s)) ∧
    (isFltT t = false → ∀ i ∈ ([.vexp2 t rd rs1, .vrcp t rd rs1, .vrsq t rd rs1, .vlog2 t rd rs1] : List Instr),
      exec i s = .next (trapped 2 0 s))) ∧
  (∀ (s : State) (bc : BitVec 1) (t : ElemT) (rd rs1 rs2 : Reg) (vs : List (BitVec 4096)),
    let w := elemBits t
    let n := 4096 / w
    let A := s.ctx.active n
    let el (v : BitVec 4096) (e : Nat) : Nat := (v.extractLsb' (w * e) w).toNat
    let b := s.bcast t rs2
    let second (e : Nat) : Nat := if bc = 1 then b.1 else el (vs.getD 1 0) e
    let flags : Flags := if bc = 1 then b.2 else 0
    let srcs := if bc = 1 then [rs1] else [rs1, rs2]
    let all : BitVec 512 := BitVec.allOnes 512
    let moves (srcs : List Reg) (bytes : BitVec 512) (i : Instr) (f : Nat → Nat) : Prop :=
      ∃ val, exec i s = .next ((s.consumeAll srcs).vput rd val bytes).advance ∧ ∀ e < n, el val e = f e
    let kept (f : Nat → Nat) (e : Nat) : Nat := if A.testBit e then f e else el (s.vold rd) e
    (7 < rd.toNat → exec (.vcmplt bc t rd rs1 rs2) s = .next (trapped 2 0 s) ∧ exec (.vcmpeq bc t rd rs1 rs2) s = .next (trapped 2 0 s)) ∧
    (rd.toNat ≤ 7 → s.misuse srcs [] (srcs ++ []) = false → s.vsrcs srcs = .ok vs →
      let k : BitVec 3 := rd.extractLsb' 0 3
      ∀ p ∈ ([(.vcmplt bc t rd rs1 rs2, true), (.vcmpeq bc t rd rs1 rs2, false)] : List (Instr × Bool)),
        ∃ m fl, exec p.1 s = .next ((((s.consumeAll srcs).setM k m).vflags fl)).advance ∧
          ∀ e < 512, m.getLsbD e = (decide (e < n) &&
            if A.testBit e then (cmpElem t p.2 (el (vs.headD 0) e) (second e)).1 else (s.ctx.rm k).getLsbD e)) ∧
    (VectorReady s srcs rd vs all →
      ∃ val, exec (.vsel bc t rd rs1 rs2) s = .next (vectorDone s srcs rd val all flags) ∧
        ∀ e < n, el val e = if (s.ctx.rm s.ctx.csr.midx).getLsbD e = true then el (vs.headD 0) e else second e % 2 ^ w) ∧
    (bc = 1 → rs1 = 0 → VectorReady s [] rd [] (actBytes w A) →
      ∃ val, exec (.vbcast bc t rd rs1 rs2) s = .next (vectorDone s [] rd val (actBytes w A) b.2) ∧
        ∀ e < n, el val e = kept (fun _ => b.1 % 2 ^ w) e) ∧
    (bc = 0 → VectorReady s [rs2] rd vs (actBytes w A) →
      ∃ val, exec (.vbcast bc t rd rs1 rs2) s = .next (vectorDone s [rs2] rd val (actBytes w A) 0) ∧
        ∀ e < n, el val e = kept (fun _ => el (vs.headD 0) ((s.x rs1).toNat % n)) e) ∧
    (VectorReady s [rs1, rs2] rd vs (actBytes w A) →
      moves [rs1, rs2] (actBytes w A) (.vperm t rd rs1 rs2) (kept fun e => el (vs.headD 0) (el (vs.getD 1 0) e % n)) ∧
      moves [rs1, rs2] (actBytes w A) (.vtrn t rd rs1 rs2)
        (kept fun e => if e % 2 = 0 then el (vs.headD 0) e else el (vs.getD 1 0) (e - 1))) ∧
    (VectorReady s [rs1] rd vs (actBytes w A) →
      let k : Int := if isFltT t then (s.f rs2).toInt else (s.x rs2).toInt
      moves [rs1] (actBytes w A) (.vslide t rd rs1 rs2)
        (kept fun e => if 0 ≤ (e : Int) + k ∧ (e : Int) + k < n then el (vs.headD 0) ((e : Int) + k).toNat else 0)) ∧
    (VectorReady s [rs1] rd vs all →
      let as := (List.range n).map (el (vs.headD 0))
      exec (.vredsum t rd rs1) s = .next (vectorDone s [rs1] rd (BitVec.ofNat 4096 (redSum t A as).1) all (redSum t A as).2) ∧
      exec (.vredmax t rd rs1) s = .next (vectorDone s [rs1] rd (BitVec.ofNat 4096 (redMax t A as).1) all (redMax t A as).2) ∧
      (isFltT t = false →
        (redSum t A as).1 = ((as.zipIdx.filter fun p => A.testBit p.2).map fun p => p.1).sum % 2 ^ w ∧
        (∀ e < n, A.testBit e = true → signedOf w (el (vs.headD 0) e) ≤ signedOf w (redMax t A as).1))) ∧
    (s.misuse [rs1] [] [rs1] = false → s.vsrcs [rs1] = .ok vs →
      let u := s.consumeAll [rs1]
      exec (.vamax t rs1) s = .next (u.setMe (u.me.offer s.ctx.csr.amaxIdx (elemFmt t).isInt
        (activeVals (elemFmt t) A ((List.range n).map (el (vs.headD 0)))))).advance) ∧
    (s.misuse [rs1] [] [rs1] = false → s.vsrcs [rs1] = .ok vs → rd.toNat ≤ 7 →
      ∃ m, exec (.vmovm t rd rs1 0) s = .next ((s.consumeAll [rs1]).setM (rd.extractLsb' 0 3) m).advance ∧
        ∀ e < 512, m.getLsbD e = (decide (e < n) &&
          decide ((if isFltT t then el (vs.headD 0) e % 2 ^ (w - 1) else el (vs.headD 0) e) ≠ 0))) ∧
    (VectorReady s [] rd [] all → rs1.toNat ≤ 7 →
      moves [] all (.vmovm t rd rs1 1) fun e => if (s.ctx.rm (rs1.extractLsb' 0 3)).getLsbD e = true then oneElem t else 0) ∧
    (rd.toNat ≤ 7 → rs1.toNat ≤ 7 →
      let a := s.ctx.rm (rd.extractLsb' 0 3)
      let c := s.ctx.rm (rs1.extractLsb' 0 3)
      ∀ p ∈ ([(2, a &&& c), (3, a ||| c), (4, a ^^^ c), (5, ~~~c)] : List (BitVec 5 × BitVec 512)),
        exec (.vmovm t rd rs1 p.1) s = .next (s.setM (rd.extractLsb' 0 3) p.2).advance) ∧
    (∀ k : BitVec 5, 5 < k.toNat → exec (.vmovm t rd rs1 k) s = .next (trapped 2 0 s)) ∧
    (∀ code g, cvtFmt code = some g → s.ctx.csr.rnd ≠ 3 →
      let src := if bc = 1 then g else elemFmt t
      let dst := if bc = 1 then elemFmt t else g
      let k := 4096 / max src.w dst.w
      let B := s.ctx.active k
      let bit (v : BitVec 4096) (c : Nat) (e : Nat) : Nat := (v.extractLsb' (c * e) c).toNat
      let bytes := actBytes dst.w B ||| maskRun 512 ((k * dst.w + 7) / 8) (512 - (k * dst.w + 7) / 8)
      VectorReady s [rs1] rd vs bytes →
      let y (e : Nat) := encodeNum dst (cvtRnd s.ctx.csr.rnd s.ctx.csr.seed (s.imageBit rd + e * dst.w))
        (decodeNum src (bit (vs.headD 0) src.w e))
      let offered (u : State) : State := if s.ctx.csr.amaxEn = true
        then u.setMe (u.me.offer s.ctx.csr.amaxIdx src.isInt (activeVals src B ((List.range k).map (bit (vs.headD 0) src.w)))) else u
      ∃ val fl, exec (.vcvt bc t rd rs1 code) s =
          .next ((offered ((s.consumeAll [rs1]).vflags fl)).vput rd val bytes).advance ∧
        (∀ e < k, bit val dst.w e = if B.testBit e then (y e).1 % 2 ^ dst.w else bit (s.vold rd) dst.w e) ∧
        val.toNat < 2 ^ (k * dst.w) ∧
        fl = (List.range k).foldr (fun e (fl : Flags) => if B.testBit e then (y e).2 ||| fl else fl) 0) ∧
    (∀ code, cvtFmt code = none ∨ s.ctx.csr.rnd = 3 → exec (.vcvt bc t rd rs1 code) s = .next (trapped 2 0 s)))

/-- R104, R206, R225 to R230: vector loads and stores, whose lines are all found by translation: a plain load leaves one outstanding
portion for each line with an active byte, a load into a write generator waits for them, an exact load of lines that the L1 does not
hold asks the presses and waits; a store of a core that is the first of its team enters OWN lines (R343 orders the others), a join joins the whole active elements, and
bound sources go on. R168,
R232 to R235: VLDF reads and empties the active words of a full block of this core's synchronised scratchpad, after what is older of its context
there (R304, R307), or parks on an empty one; VSTF fills an empty block of any core; SBIND binds a stream register, which it clears, and SUNBIND ends the binding. That the BASE of
a generator has to lie in the carve is the model's reading of R271 (log 117), that a word of VLDF or VSTF takes part when its lowest
byte is active is log 96, and that a store to a HOST page or a window is performed at its issue is log 131. -/
def Obligations.VectorMemory : Prop :=
  (∀ (s u : State) (rd rs1 rs2 : Reg) (ps : List (List Chunk × Tlb)),
    let a : Word := s.x rs1
    let ep := s.cur.1
    let byte := s.ctx.byteMask
    let pieces (cs : List Chunk) (mask : BitVec 512) : List Chunk := cs.filter fun c => decide (chunkMask mask c ≠ 0)
    let found (need : Need) (cs : List Chunk) (mask : BitVec 512) : Prop :=
      s.lineBusy ep s.cur.2 (decide (need = .read)) (pieces cs mask) = false ∧ s.rangeBusy ep (pieces cs mask) = false ∧
      s.acquiring ep s.cur.2 = false ∧ (need = .read → s.heldAcquire ep (pieces cs mask) = false) ∧ s.me.tickets ≤ 16 ∧ s.me.remotes s.dev ≤ 256 ∧
      (∀ x ∈ s.me.accs, x.grp < s.me.nextAge) ∧ s.locate ep need (portions (pieces cs mask)) =
        (u, ps.map fun p => (p.1, .page (.ok p.2 (p.2.pa (p.1.headD (0, 0, 0)).1))))
    let line (p : List Chunk × Tlb) : Nat := p.2.pa (p.1.headD (0, 0, 0)).1 / 128
    let va (p : List Chunk × Tlb) : Word := (p.1.headD (0, 0, 0)).1
    let first : Prop := (s.me.teamCores ep).headD ep = ep
    let issued (op : AccOp) (mask : BitVec 512) : State := ps.foldl (fun (v : State) p => v.issuePortion u.me.nextAge op mask 0 (.v rd)
      (p.1, .page (.ok p.2 (p.2.pa (va p))))) u
    (∀ p ∈ ([(.vld rd rs1, a.toNat % 64 = 0, blockChunks a), (.vlds rd rs1 rs2, segBad 4 a (s.x rs2) = none, segChunks a (s.x rs2))] :
        List (Instr × Prop × List Chunk)),
      let op : AccOp := .vload false false
      s.misuse [] [rd] [rd] = false → p.2.1 → found .read p.2.2 byte → s.firstEmpty ep byte (pieces p.2.2 byte) = none →
      (∀ q ∈ ps, q.2.cls ≠ .lat) →
      (s.ctx.bound rd = none → exec p.1 s = .next (issued op byte).advance) ∧
      (∀ b, s.ctx.bound rd = some b → s.me.genBad (s.win ep) b 0 = none → s.genHeld ep s.cur.2 rd = false → ps ≠ [] → s.ctx.hold = .free →
        let t := (issued op byte).advance
        exec p.1 s = .next (t.setCtx { t.ctx with pc := s.pc, hold := .gen u.me.nextAge })) ∧
      (issued op byte).me.accs = u.me.accs ++ ps.zipIdx.map fun q =>
        { u.newAcc u.me.nextAge op q.1.1 byte 0 (.v rd) (.ready (q.1.2.pa (va q.1)) q.1.2.cls q.1.2.vint) with
          age := u.me.nextAge + q.2, ent := u.me.nextAge + q.2 }) ∧
    (∀ o : BitVec 4096,
      let cs := laneChunks a o
      let mask := laneMask byte
      s.misuse [rs2] [rd] [rs2, rd] = false → s.vsrc rs2 = .ok o → laneBad cs mask = none →
      found .read cs mask → s.firstEmpty ep mask (pieces cs mask) = none → (∀ q ∈ ps, q.2.cls ≠ .lat) →
      s.ctx.bound rd = none → exec (.vldx rd rs1 rs2) s =
        .next ((issued (.vload false true) mask).advance.consume ep s.cur.2 rs2)) ∧
    (s.misuse [] [rd] [rd] = false → a.toNat % 64 = 0 → found .read (blockChunks a) byte →
      s.firstEmpty ep byte (pieces (blockChunks a) byte) = none → s.ctx.bound rd = none → ps ≠ [] →
      (∀ q ∈ ps, q.2.cls = .lat) → (∀ q ∈ ps, (s.latCopy ep (line q)
        (lineForm q.1 (effMask (wBytes q.2.width) q.1 byte) 0).1) = none) →
      exec (.vxld rd rs1) s = .next ((issued (.vload true false) byte).holdOn (.exact u.me.nextAge))) ∧
    (a.toNat % 64 ≠ 0 → s.misuse [] [rd] [rd] = false →
      exec (.vld rd rs1) s = .next (trapped 4 a s) ∧ exec (.vxld rd rs1) s = .next (trapped 4 a s)) ∧
    (a.toNat % 64 ≠ 0 → s.misuse [rd] [] [rd] = false →
      exec (.vst rd rs1) s = .next (trapped 6 a s) ∧ exec (.vjoin rd rs1) s = .next (trapped 6 a s)) ∧
    (∀ d : BitVec 4096, s.misuse [rd] [] [rd] = false → s.vsrc rd = .ok d →
      (∀ p ∈ ([(.vst rd rs1, a.toNat % 64 = 0, blockChunks a), (.vsts rd rs1 rs2, segBad 6 a (s.x rs2) = none, segChunks a (s.x rs2))] :
          List (Instr × Prop × List Chunk)),
        p.2.1 → found .write p.2.2 byte → first → (∀ q ∈ ps, q.2.cls = .own) →
        exec p.1 s = .next ((ps.foldl (fun (v : State) q =>
          let f := lineForm q.1 byte d
          v.storeOwn ep s.cur.2 (line q) (va q) f.1 f.2) u).advance.consumeAll [rd])) ∧
      (a.toNat % 64 = 0 → found .join (blockChunks a) byte → (∀ q ∈ ps, q.2.cls = .lat ∧ joinAccepts q.2.typ = true) →
        exec (.vjoin rd rs1) s = .next ((ps.foldl (fun (v : State) q =>
          let f := lineForm q.1 (effMask (wBytes q.2.width) q.1 byte) d
          v.storeLat ep s.cur.2 q.2 (line q) (va q) (wholeElems q.2.width f.1) f.2) u).advance.consumeAll [rd]))) ∧
    (∀ o d : BitVec 4096,
      let cs := laneChunks a o
      let mask := laneMask byte
      s.misuse [rs2, rd] [] [rs2, rd] = false → s.vsrcs [rs2, rd] = .ok [o, d] → laneBad cs mask = none → found .write cs mask → first →
      (∀ q ∈ ps, q.2.cls = .own) →
      exec (.vstx rd rs1 rs2) s = .next ((ps.foldl (fun (v : State) q =>
        let f := lineForm q.1 mask d
        v.storeOwn ep s.cur.2 (line q) (va q) f.1 f.2) u).advance.consumeAll [rs2, rd])) ∧
    (∀ d : BitVec 4096,
      let k : Word := s.x rs2
      let mask := laneMask byte
      let dom := s.ctx.csr.dom[(k.extractLsb' 32 2).toNat]
      let cs : List Chunk := (List.range 128).map fun e => (a + BitVec.ofNat 64 (4 * e), 4 * e, 4)
      s.misuse [rd] [] [rd] = false → s.vsrc rd = .ok d → k.extractLsb' 34 30 = 0 → a.toNat % 4 = 0 → dom.v = true →
      found .join cs mask →
      (∀ q ∈ ps, q.2.cls = .lat ∧ (q.2.typ = 12 ∨ q.2.typ = 13)) →
      let lane (q : List Chunk × Tlb) (c : Chunk) : BitVec 32 :=
        if q.2.typ = 13 then d.extractLsb' (8 * c.2.1) 16 ++ 0#16 else d.extractLsb' (8 * c.2.1) 32
      exec (.vfold rd rs1 rs2) s = .next ((ps.foldl (fun (v : State) q =>
        (q.1.filter fun c => chunkMask mask c % 2 = 1).foldl (fun (v : State) c =>
          v.toPress (v.pressOp ep s.cur.2 q.2 (line q) c.1 (.fold (c.1.toNat % 128)
            ⟨c.1, k.extractLsb' 0 32, lane q c, dom.lvl, dom.dom, dom.phase⟩))) v) u).advance.consumeAll [rd]))) ∧
  (∀ (s : State) (rd rs1 rs2 : Reg),
    let a : Word := s.x rs1
    let o := a.toNat
    let mask := laneMask s.ctx.byteMask
    let words := maskWords o 512 mask.toNat
    (s.misuse [] [rd] [rd] = false →
      (o % 64 ≠ 0 → exec (.vldf rd rs1) s = .next (trapped 4 a s)) ∧
      (o % 64 = 0 → s.mustWait true (words.map fun w => (s.padAddr w, 0, 4)) = true →
        exec (.vldf rd rs1) s = .next { s with out := .stalled }) ∧
      (o % 64 = 0 → s.mustWait true (words.map fun w => (s.padAddr w, 0, 4)) = false →
        let bad (k : Nat) : Bool := !decide (k + 4 ≤ s.me.padSize) || !s.me.isSync k
        (∀ k, words.find? bad = some k → exec (.vldf rd rs1) s = .next (trapped 24 (s.padAddr k) s)) ∧
        (words.find? bad = none →
          (∀ k, s.me.emptyWord o 512 mask.toNat = some k →
            (s.me.ftrap = true → exec (.vldf rd rs1) s = .next (trapped 16 (s.padAddr k) s)) ∧
            (s.me.ftrap = false → exec (.vldf rd rs1) s = .next (s.park (.parked (.word k))))) ∧
          (s.me.emptyWord o 512 mask.toNat = none → s.vrefuse rd mask = none →
            let t := s.tellPad s.cur.1 s.cur.2 s.cur.1 0 (words.map fun w => (w, 4))
            exec (.vldf rd rs1) s = .next (((t.setMe (t.me.emptyWords words)).vput rd
              (mergeV (s.vold rd) (BitVec.ofNat 4096 (readNat s.me.pad o 512)) mask) mask).advance))))) ∧
    (∀ d : BitVec 4096, s.misuse [rd] [] [rd] = false → s.vsrc rd = .ok d → o % 64 = 0 → aWin a = true → aDev a = s.dev →
      isCompute (aEp a) = true → s.coreOn (aEp a) = true → mask ≠ 0 →
      NothingOlder s false a 512 → s.me.tickets ≤ 16 →
      (∀ x ∈ s.me.accs, x.grp < s.me.nextAge) → s.imageBusy false mask [([(a, 0, 512)], .window)] = false →
      s.admitted (s.master s.cur.1) kCore (aEp a) rWrite = true → (s.core (aEp a)).vstfBad (aOff a) mask.toNat = none →
      exec (.vstf rd rs1) s = .next ((s.modCore (aEp a) fun c => c.padWrite (aOff a) 512 d.toNat mask.toNat).advance.consumeAll [rd])) ∧
    (rd.toNat < 24 → exec (.sbind rd rs1 rs2) s = .next (trapped 2 0 s) ∧ exec (.sunbind rd) s = .next (trapped 2 0 s)) ∧
    (24 ≤ rd.toNat →
      let bound (b : Stream) : State := (s.setCtx { s.ctx.wv rd 0 with streams := mput s.ctx.streams rd.toNat b }).advance
      exec (.sunbind rd) s = .next (s.setCtx { s.ctx.wv rd 0 with streams := mdel s.ctx.streams rd.toNat }).advance ∧
      (a.extractLsb' 62 2 = 0 → exec (.sbind rd rs1 rs2) s = .next (trapped 2 a s)) ∧
      (a.extractLsb' 62 2 = 3 → rs2 ≠ 0 ∨ a.extractLsb' 32 30 ≠ 0 ∨ a.extractLsb' 3 29 ≠ 0 →
        exec (.sbind rd rs1 rs2) s = .next (trapped 2 a s)) ∧
      (a.extractLsb' 62 2 = 3 → rs2 = 0 → a.extractLsb' 32 30 = 0 → a.extractLsb' 3 29 = 0 →
        (s.me.aqb = 0 ∨ s.chanTaken rd (o % 8) = true → exec (.sbind rd rs1 rs2) s = .next (trapped 24 0 s)) ∧
        (s.me.aqb ≠ 0 → s.chanTaken rd (o % 8) = false → exec (.sbind rd rs1 rs2) s = .next (bound
          { kind := 3, fe := false, count := 0, base := o % 8, inner := 0, ostr := 0, istr := 0, k := 0 }))) ∧
      (a.extractLsb' 62 2 = 1 ∨ a.extractLsb' 62 2 = 2 →
        let g : Word := s.x rs2
        (genOk a g = false → exec (.sbind rd rs1 rs2) s = .next (trapped 2 a s)) ∧
        (genOk a g = true → s.me.padSize ≤ (a.extractLsb' 0 32).toNat →
          exec (.sbind rd rs1 rs2) s = .next (trapped 24 (s.padAddr (a.extractLsb' 0 32).toNat) s)) ∧
        (genOk a g = true → (a.extractLsb' 0 32).toNat < s.me.padSize → exec (.sbind rd rs1 rs2) s = .next (bound
          { kind := a.extractLsb' 62 2, fe := a.getLsbD 61, count := (a.extractLsb' 32 22).toNat, base := (a.extractLsb' 0 32).toNat
            inner := (g.extractLsb' 48 16).toNat, ostr := (g.extractLsb' 24 24).toInt, istr := (g.extractLsb' 0 24).toInt, k := 0 })))) ∧
    (∀ (c : Core) (off : Nat), (c.emptyWords words).isFull off = (c.isFull off && !(words.contains (off / 4 * 4))) ∧
      (c.emptyWords words).pad = c.pad))

/-- R171, R172, R239, R247, R250 to R253, R256, R259 to R261, R265, R266: a matrix command that its checks admit enters the engine's
queue, or stalls while that is full or an older ticket of its context is held, and one that they do not traps with what they name;
MSEND waits as a release does and sends the command; MPOP takes the oldest completion in push order; the amax registers are read,
cleared and joined. -/
def Obligations.MatrixCommands : Prop :=
  (∀ (s : State) (zd : BitVec 2) (acc tb ta : BitVec 1) (pair : BitVec 4) (sp : BitVec 2) (rd rs1 rs2 rs3 : Reg),
    s.me.gang.g = false →
    let a : Word := s.x rs1
    let b : Word := s.x rs2
    ∀ p ∈ ([(.mma zd acc tb ta pair rs1 rs2 rs3, s.mcmd (.mma zd acc tb ta pair rs1 rs2 rs3) a b (s.f rs3) 0),
        (.mmas zd acc tb sp rs1 rs2 rs3, s.mcmd (.mmas zd acc tb sp rs1 rs2 rs3) a b (s.f rs3) 0),
        (.mzero rd, s.mcmd (.mzero rd) 0 0 0 0), (.mcvtst rd rs1 rs2, s.mcmd (.mcvtst rd rs1 rs2) a b 0 0),
        (.cnld rs1 rs2, s.mcmd (.cnld rs1 rs2) a b 0 0)] : List (Instr × MCmd)),
      (∀ cause tval, p.2.check s.me (s.win s.cur.1) = some (cause, tval) → exec p.1 s = .next (trapped cause tval s)) ∧
      (p.2.check s.me (s.win s.cur.1) = none →
        (s.me.engineUse < 2 → s.pushHeld = false → exec p.1 s = .next (s.push p.2).advance) ∧
        (2 ≤ s.me.engineUse ∨ s.pushHeld = true → exec p.1 s = .next { s with out := .stalled }))) ∧
  (∀ (s : State) (rd rs1 rs2 : Reg) (row : BitVec 4096),
    let v : Word := s.x rs1
    (3 < rs2.toNat → exec (.mrd rd rs1 rs2) s = .next (trapped 2 0 s)) ∧
    (3 < rd.toNat → exec (.mwr rd rs1 rs2) s = .next (trapped 2 0 s)) ∧
    (rs2.toNat ≤ 3 →
      (s.me.mx = false → exec (.mrd rd rs1 rs2) s = .next (trapped 24 0 s)) ∧
      (s.me.mx = true → v.extractLsb' 8 56 ≠ 0 → exec (.mrd rd rs1 rs2) s = .next (trapped 2 v s)) ∧
      (s.me.mx = true → v.extractLsb' 8 56 = 0 → s.misuse [] [rd] [rd] = true → exec (.mrd rd rs1 rs2) s = .next (trapped 2 0 s)) ∧
      (s.me.mx = true → v.extractLsb' 8 56 = 0 → s.misuse [] [rd] [rd] = false → s.vrefuse rd (BitVec.allOnes 512) = none →
        s.me.engineUse < 2 → s.pushHeld = false →
        exec (.mrd rd rs1 rs2) s = .next (s.push (s.mcmd (.mrd rd rs1 rs2) v 0 0 0)).advance)) ∧
    (rd.toNat ≤ 3 →
      (s.me.mx = false → exec (.mwr rd rs1 rs2) s = .next (trapped 24 0 s)) ∧
      (s.me.mx = true → v.extractLsb' 8 56 ≠ 0 → exec (.mwr rd rs1 rs2) s = .next (trapped 2 v s)) ∧
      (s.me.mx = true → v.extractLsb' 8 56 = 0 → s.misuse [rs2] [] [rs2] = true → exec (.mwr rd rs1 rs2) s = .next (trapped 2 0 s)) ∧
      (s.me.mx = true → v.extractLsb' 8 56 = 0 → s.misuse [rs2] [] [rs2] = false → s.vsrc rs2 = .ok row → s.me.engineUse < 2 →
        s.pushHeld = false → exec (.mwr rd rs1 rs2) s =
          .next ((s.push (s.mcmd (.mwr rd rs1 rs2) v 0 0 row)).consume s.cur.1 s.cur.2 rs2).advance))) ∧
  (∀ (s : State) (q : MCmd),
    let t := s.push q
    t.me.mq = s.me.mq ++ [q] ∧ t.ctx.nPush = (if completes q.instr = true then s.ctx.nPush + 1 else s.ctx.nPush) ∧
    ∀ e ∈ t.me.cb, s.cur.2 ∉ e.parties) ∧
  (∀ (s u : State) (rs1 rs2 : Reg) (ws : List Word) (i : Instr) (bad : Bool),
    let t : Word := s.x rs1
    let o : Word := s.x rs2
    (s.me.mx = false → exec (.msend rs1 rs2) s = .next (trapped 24 0 s)) ∧
    (s.me.mx = true → aDev t ≠ s.dev ∨ aWin t = false ∨ isCompute (aEp t) = false ∨ s.coreOn (aEp t) = false ∨ aOff t ≠ 0 →
      exec (.msend rs1 rs2) s = .next (trapped 24 t s)) ∧
    (s.me.mx = true → aDev t = s.dev → aWin t = true → isCompute (aEp t) = true → aOff t = 0 → s.coreOn (aEp t) = true →
      (o.toNat % 64 ≠ 0 → exec (.msend rs1 rs2) s = .next (trapped 4 (s.win s.cur.1 + o) s)) ∧
      (o.toNat % 64 = 0 → o.toNat + 64 ≤ s.me.padSize → s.rangeBusy s.cur.1 [(s.padAddr o.toNat, 0, 64)] = false →
        s.listWords o.toNat 8 = .ok ws →
        (sendInstr ((ws.headD 0).extractLsb' 0 32) = none ∨ blockBad ws = true →
          exec (.msend rs1 rs2) s = .next (trapped 2 (ws.headD 0) s)) ∧
        (sendInstr ((ws.headD 0).extractLsb' 0 32) = some (i, bad) → blockBad ws = false →
          s.donePlaces < 8 → s.relStep = (u, true) →
          let q := { u.mcmd i (ws.getD 1 0) (ws.getD 2 0) ((ws.getD 3 0).extractLsb' 0 32) 0 with bad := bad, sent := true }
          let v := u.post (.msend (aEp t) q ((ws.getD 4 0).extractLsb' 32 32))
          let sent := (v.setCtx { v.ctx with
            nPush := v.ctx.nPush + 1, pushed := v.ctx.pushed + 1, sentOut := v.ctx.sentOut + 1 }).advance
          exec (.msend rs1 rs2) s = .next (sent.tellPad s.cur.1 s.cur.2 s.cur.1 0 [(o.toNat, 64)]))))) ∧
  (∀ (s : State) (rd : Reg),
    (s.me.mx = false → exec (.mpop rd) s = .next (trapped 24 0 s)) ∧
    (s.me.mx = true → s.ctx.pushed = 0 → s.ctx.done = [] → exec (.mpop rd) s = .next (s.setX rd 0xF0000).advance) ∧
    (s.me.mx = true → s.ctx.pushed + s.ctx.done.length ≠ 0 →
      (s.flushPending s.cur.1 = false → ∀ c, s.ctx.done.find? (fun c => decide (c.token.extractLsb' 24 16 = s.ctx.oldestSeq)) = some c →
        let u := s.popDone s.cur.1 s.cur.2
        u.ctx.csr.vstat = s.ctx.csr.vstat ||| c.flags ∧ c ∉ u.ctx.done ∧
        (c.token.extractLsb' 16 4 = 1 → exec (.mpop rd) s = .next (trapped 23 c.token u)) ∧
        (c.token.extractLsb' 16 4 = 2 →
          exec (.mpop rd) s = .next (trapped 25 (winAddr s.dev c.ep (c.token.extractLsb' 40 22).toNat) u)) ∧
        (c.token.extractLsb' 16 4 ≠ 1 → c.token.extractLsb' 16 4 ≠ 2 → exec (.mpop rd) s = .next (u.setX rd c.token).advance)) ∧
      (s.ctx.done.find? (fun c => decide (c.token.extractLsb' 24 16 = s.ctx.oldestSeq)) = none →
        exec (.mpop rd) s = .next { s with out := .stalled }))) ∧
  (∀ (s u : State) (rd rs1 rs2 : Reg) (t : Tlb),
    let i := (s.x rs1).toNat
    let j := (s.x rs2).toNat
    let a : Word := s.x rs1
    (16 ≤ i → exec (.amxrd rd rs1) s = .next (trapped 2 (s.x rs1) s) ∧ exec (.amxclr rs1) s = .next (trapped 2 (s.x rs1) s)) ∧
    (16 ≤ j → exec (.amxjoin rs1 rs2) s = .next (trapped 2 (s.x rs2) s)) ∧
    (s.offersPending = false →
      (i < 16 → exec (.amxrd rd rs1) s = .next (s.setX rd ((mgetD s.me.amax i 0).zeroExtend 64)).advance ∧
        exec (.amxclr rs1) s = .next (s.setMe { s.me with amax := mdel s.me.amax i }).advance) ∧
      (j < 16 → PieceReady s a (8 - a.toNat % 8) → s.translate s.cur.1 .join a = (u, .ok t (t.pa a)) →
        t.cls = .lat → t.typ = 3 → t.width = 2 → a.toNat % 4 = 0 →
        let v := mgetD s.me.amax j 0
        let b := lineBytes a 4 (if v.getLsbD 32 = true then 0x7FC00000 else v.extractLsb' 0 32 |>.zeroExtend 64)
        exec (.amxjoin rs1 rs2) s = .next (u.storeLat s.cur.1 s.cur.2 t (t.pa a / 128) a b.1 b.2).advance)))

/-- R248 to R250, R253, R263, R264: an idle engine executes the oldest command that may start, and its completion reaches the
pusher's list, if the pusher has not retired; a command that MSEND carried is taken by its target, in the order of its sender, while
there is room and its capability admits it, and is rejected otherwise with its reason; MRD, MWR and MZERO move the words of an
accumulator. -/
def Obligations.MatrixEngine : Prop :=
  (∀ (s : State) (ep : Nat) (q : MCmd) (rest : List MCmd), (s.core ep).mrun = none → (s.core ep).mq = q :: rest →
    let u := s.setCore ep { s.core ep with mq := rest }
    (s.mayStart ep q = false → exec (.engineCommandStart ep) s = .next s) ∧
    (s.mayStart ep q = true →
      (q.refused (s.core ep) (s.win ep) = none → exec (.engineCommandStart ep) s =
        .next (((u.tellOperands ep q).runCmd ep q).1.modCore ep fun c => { c with mrun := some ((u.tellOperands ep q).runCmd ep q).2 })) ∧
      (∀ reason, q.refused (s.core ep) (s.win ep) = some reason → exec (.engineCommandStart ep) s =
        .next (u.modCore ep fun c => { c with mrun := some { q.plain with status := 1, reason := reason } })))) ∧
  (∀ (s : State) (ep : Nat) (d : MDone), (s.core ep).mrun = some d → d.copying = none →
    exec (.engineCommandComplete ep) s = .next ((s.modCore ep fun c => { c with mrun := none }).giveDone ep d) ∧
    (d.cmd.orphan = true → s.giveDone ep d = s) ∧
    (d.cmd.orphan = false → completes d.cmd.instr = true ∨ d.cmd.sent = true →
      ((s.giveDone ep d).ctxAt d.cmd.ep d.cmd.ctx).done = (s.ctxAt d.cmd.ep d.cmd.ctx).done ++ [⟨d.token ep, d.flags, ep⟩])) ∧
  (∀ (d : MDone) (ep : Nat),
    let t := d.token ep
    t.extractLsb' 24 16 = d.cmd.seq ∧ t.extractLsb' 20 4 = 0 ∧ t.extractLsb' 16 4 = d.status ∧ t.extractLsb' 13 3 = 0 ∧
    t.extractLsb' 8 5 = d.flags ∧ t.getLsbD 7 = d.cmd.sent ∧ (d.status = 0 → t.extractLsb' 40 24 = 0) ∧
    (d.status = 1 → t.extractLsb' 53 11 = BitVec.ofNat 11 ep ∧ t.extractLsb' 44 9 = 0 ∧ t.extractLsb' 40 4 = d.reason)) ∧
  (∀ (s : State) (k to_ : Nat) (q : MCmd) (key : BitVec 32), s.net[k]? = some (.msend to_ q key) →
    (∀ t p y, Msg.msend t p y ∈ s.net.take k → ¬(t = to_ ∧ p.ep = q.ep)) → s.admitted (s.master q.ep) kCore to_ rCommand = true →
    (2 ≤ (s.core to_).engineUse → exec (.msendArrival k) s = .next s) ∧
    ((s.core to_).engineUse < 2 →
      let cap := (s.core to_).kmcap
      (cap.getLsbD 4 = false ∨ cap.extractLsb' 32 32 ≠ key →
        exec (.msendArrival k) s = .next ((s.take k).giveDone to_ { q.plain with status := 1, reason := 1 })) ∧
      (cap.getLsbD 4 = true → cap.extractLsb' 32 32 = key →
        (cap.getLsbD (allowBit q.instr) = false →
          exec (.msendArrival k) s = .next ((s.take k).giveDone to_ { q.plain with status := 1, reason := 2 })) ∧
        (cap.getLsbD (allowBit q.instr) = true →
          exec (.msendArrival k) s = .next ((s.take k).modCore to_ fun c => { c with mq := c.mq ++ [q] }))))) ∧
  (∀ (s : State) (ep : Nat) (q : MCmd) (rd rs1 rs2 : Reg), keysRise (s.core ep).z = true →
    let t := (s.runCmd ep q).1
    let i := (q.a.extractLsb' 0 6).toNat
    let lo := 128 * (q.a.extractLsb' 6 2).toNat
    let z (s : State) (k i j : Nat) : BitVec 32 := mgetD (s.core ep).z (k * 32768 + i * 512 + j) 0
    (q.instr = .mrd rd rs1 rs2 → q.orphan = false → (s.ctxAt ep q.ctx).bound rd = none →
      (∀ e < 128, ((t.ctxAt ep q.ctx).rv rd).extractLsb' (32 * e) 32 = z s rs2.toNat i (lo + e)) ∧ (t.core ep).z = (s.core ep).z) ∧
    (q.instr = .mwr rd rs1 rs2 → ∀ k i' j, i' < 64 → j < 512 → z t k i' j =
      if k = rd.toNat ∧ i' = i ∧ lo ≤ j ∧ j < lo + 128 then q.row.extractLsb' (32 * (j - lo)) 32 else z s k i' j) ∧
    (q.instr = .mzero rd → ∀ k i' j, i' < 64 → j < 512 → z t k i' j = if k = rd.toNat then 0 else z s k i' j))

/-- R201, R242, R244, R248: a dense product of INT8 operands, not transposed: each of the 64 rows and N columns of the accumulator
is the exact sum of the 64 products, with the old word when the command accumulates, clamped to 32 bits; no other word of any
accumulator changes. -/
def Obligations.IntegerMatrixProduct : Prop :=
  ∀ (s : State) (ep : Nat) (q : MCmd) (zd : BitVec 2) (acc : BitVec 1) (rs1 rs2 rs3 : Reg),
    q.instr = .mma zd acc 0 0 13 rs1 rs2 rs3 →
    let c := s.core ep
    let n := (q.b.extractLsb' 0 10).toNat
    let base := 512 * (q.b.extractLsb' 16 16).toNat
    n ≤ 512 → keysRise c.z = true → Memory.wf c.pad = true → Memory.wf c.canopy = true →
    let t := (s.runCmd ep q).1
    let z (s : State) (k i j : Nat) : BitVec 32 := mgetD (s.core ep).z (k * 32768 + i * 512 + j) 0
    let A (i k : Nat) : Int := (byteAt c.pad (q.a.toNat + 64 * i + k)).toInt
    let B (k j : Nat) : Int := (byteAt c.canopy (base + 512 * k + j)).toInt
    let sum (i j : Nat) : Int := ((List.range 64).map fun k => A i k * B k j).sum +
      if acc = 1 then (z s zd.toNat i j).toInt else 0
    ∀ k i j, i < 64 → j < 512 → z t k i j =
      if k = zd.toNat ∧ j < n then BitVec.ofInt 32 (max (-2147483648) (min 2147483647 (sum i j))) else z s k i j

/-! ## Casks and copies (R272 to R299) -/

/-- R272, R278, R281, R287, R289, R295: a cask command whose instruction, address word or descriptor is wrong traps; a local one is
checked against the carve of its core, and enters the queues of its banks, its ranges held; one for another core of the device waits
as a release does, and is sent with its scalar, rounding, seed and amax index; where ranges or entries are not free, or an acquire of
the context is under way, it stalls. R286, R287, R289: a command is performed once no earlier one of its banks, no older overlapping
range and no empty word that it reads hold it back, unless a word that it only writes is full, which ends it with cause 25; one that
writes in several banks retires with its last part, its parts performed lowest bank first (log 21), each writing its bank alone; a
command from another core is taken in its issuer's order, where the target admits it, its checks pass and its queues have room, and
its completion releases the ranges of its issuer, merges its flags, or defers its trap. -/
def Obligations.CaskCommands : Prop :=
  (∀ (s u : State) (rd rs1 rs2 : Reg),
    ∀ p ∈ ([(.ckAxpy rd rs1 rs2, 0, rd), (.ckScal rd rs1 rs2, 1, rd), (.ckDot rs1 rs2, 2, 0), (.ckMax rs1 rs2, 3, 0),
        (.ckSmx rd rs1 rs2, 4, rd), (.ckAmax rs1 rs2, 5, 0), (.ckCvt rd rs1 rs2, 6, rd), (.ckFill rd rs1 rs2, 7, rd),
        (.ckEmpty rs1 rs2, 8, 0), (.ckSum rs1 rs2, 9, 0)] : List (Instr × Nat × Reg)),
      let a : Word := s.x rs1
      let d : Word := s.x rs2
      let csr := s.ctx.csr
      let ep := s.cur.1
      let k : Cask := {
        kind := p.2.1, acc := a.getLsbD 63, p := (a.extractLsb' 0 42).toNat, q := (d.extractLsb' 20 28).toNat
        fmt := d.extractLsb' 16 4, len := (d.extractLsb' 0 16).toNat, a := s.f p.2.2, rnd := csr.rnd, amaxEn := csr.amaxEn
        amaxIdx := csr.amaxIdx, seed := csr.seed, ep := ep, ctx := s.cur.2, pc := s.pc, age := s.me.nextAge }
      let room := s.me.held.length + k.live.length ≤ 32
      let held (s : State) (tgt : Nat) : Core := { s.me with
        nextAge := k.age + 1, held := s.me.held ++ k.live.map fun r => ⟨winAddr s.dev tgt r.1, r.2, k.age⟩ }
      (∀ v, caskBad p.2.1 p.2.2 a d csr.rnd = some v → exec p.1 s = .next (trapped 2 v s)) ∧
      (caskBad p.2.1 p.2.2 a d csr.rnd = none → a.getLsbD 53 = false →
        (∀ cause tval, k.check s.me (s.win ep) d = some (cause, tval) → exec p.1 s = .next (trapped cause tval s)) ∧
        (k.check s.me (s.win ep) d = none → room → s.me.caskRoom k = true → s.acquiring ep s.cur.2 = false →
          exec p.1 s = .next (s.setMe { held s ep with casks := s.me.casks ++ [k] }).advance) ∧
        (k.check s.me (s.win ep) d = none → ¬(room ∧ s.me.caskRoom k = true ∧ s.acquiring ep s.cur.2 = false) →
          exec p.1 s = .next { s with out := .stalled })) ∧
      (caskBad p.2.1 p.2.2 a d csr.rnd = none → a.getLsbD 53 = true →
        let tgt := (a.extractLsb' 42 11).toNat
        (isCompute tgt = false ∨ s.coreOn tgt = false ∨ tgt = ep → exec p.1 s = .next (trapped 24 a s)) ∧
        (isCompute tgt = true → s.coreOn tgt = true → tgt ≠ ep →
          (¬room → exec p.1 s = .next { s with out := .stalled }) ∧
          (room → s.relStep = (u, true) → u.me.nextAge = k.age → exec p.1 s = .next ((u.setMe (held u tgt)).post (.cask tgt k)).advance) ∧
          (room → s.relStep = (u, false) → exec p.1 s = .next { u with out := .stalled })))) ∧
  ((∀ (s : State) (ep k : Nat) (q : Cask), (s.core ep).casks[k]? = some q →
    let c : Core := { s.core ep with casks := dropAt (s.core ep).casks k }
    let may := (∀ o ∈ (s.core ep).casks.take k, ∀ b ∈ o.parts, b ∉ q.banks) ∧
      (∀ h ∈ (s.core q.ep).held, h.age < q.age → ∀ r ∈ q.live,
        overlap h.base.toNat h.len (winAddr s.dev ep r.1).toNat r.2 = false) ∧
      (s.core ep).allFull (q.reads.filter fun r => r.2 ≠ 0) = true
    let full := (wordsOf q.writes).find? fun w => c.isSync w && c.isFull w
    (q.started = true → exec (.caskPartExecute ep k) s = .next (s.caskPart ep k q)) ∧
    (q.started = false →
      (¬may → exec (.caskPartExecute ep k) s = .next s) ∧
      (may → ∀ w, full = some w → exec (.caskPartExecute ep k) s =
        .next ((s.setCore ep c).caskEnd ep q 0 (some (25, winAddr s.dev ep w)))) ∧
      (may → full = none → q.errors c = [] →
        let r := q.run c []
        let q1 : Cask := { q with started := true, out := q.runs r.1.pad [], fill := q.filled [], flags := r.2 }
        (q1.parts.length ≤ 1 → exec (.caskPartExecute ep k) s =
          .next ((s.setCore ep (if q.kind = 8 then r.1 else
            (r.1.mendPad (q1.out.map fun r => (r.1, r.2.1))).fillWords q1.fill)).caskEnd ep q r.2 none)) ∧
        (1 < q1.parts.length → exec (.caskPartExecute ep k) s =
          .next ((s.setCore ep { s.core ep with amax := r.1.amax, casks := setAt (s.core ep).casks k q1 }).caskPart ep k q1))))) ∧
  (∀ (s : State) (ep k : Nat) (q : Cask) (b : Nat), q.parts.min? = some b →
    let r := q.rest b
    let u := s.modCore ep (q.part b)
    (r.parts = [] → s.caskPart ep k q =
      (u.modCore ep fun c => { c with casks := dropAt c.casks k }).caskEnd ep q q.flags none) ∧
    (r.parts ≠ [] → s.caskPart ep k q = u.modCore ep fun c => { c with casks := setAt c.casks k r })) ∧
  (∀ (q : Cask) (b : Nat) (c : Core), Memory.wf c.pad = true → (∀ r ∈ q.out, (r.1 + r.2.1 - 1) / 65536 = r.1 / 65536) →
    (∀ i, i / 65536 ≠ b → byteAt (q.part b c).pad i = byteAt c.pad i) ∧
    (∀ r ∈ (q.rest b).out, r ∈ q.out ∧ r.1 / 65536 ≠ b) ∧ ∀ o ∈ (q.rest b).fill, o ∈ q.fill ∧ o / 65536 ≠ b) ∧
  (∀ (s : State) (k to_ : Nat) (q : Cask), s.net[k]? = some (.cask to_ q) →
    (∀ m ∈ s.net.take k, ∀ t o, m = .cask t o → ¬(t = to_ ∧ o.ep = q.ep)) →
    (s.admitted (s.master q.ep) kCore to_ rCommand = false → (s.core q.ep).frozen = false →
      exec (.remoteCaskArrival k) s = .next (s.freeze q.ep q.ctx (winAddr s.dev to_ q.p) 6 [])) ∧
    (s.admitted (s.master q.ep) kCore to_ rCommand = true →
    (∀ bad, q.check (s.core to_) (s.win to_) q.desc = some bad →
      exec (.remoteCaskArrival k) s = .next ((s.take k).caskEnd to_ q 0 (some bad))) ∧
    (q.check (s.core to_) (s.win to_) q.desc = none →
      ((s.core to_).caskRoom q = false → exec (.remoteCaskArrival k) s = .next s) ∧
      ((s.core to_).caskRoom q = true → exec (.remoteCaskArrival k) s =
        .next ((s.take k).modCore to_ fun c => { c with casks := c.casks ++ [q] }))))) ∧
  (∀ (s : State) (k : Nat) (q : Cask) (fl : Flags) (bad : Option (BitVec 6 × Word)), s.net[k]? = some (.caskDone q fl bad) →
    exec (.remoteCaskCompletion k) s = .next ((s.take k).caskEnd q.ep q fl bad)) ∧
  (∀ (s : State) (ep : Nat) (k : Cask) (fl : Flags) (bad : Option (BitVec 6 × Word)),
    let t := s.caskEnd ep k fl bad
    (k.ep ≠ ep → t = s.post (.caskDone k fl bad)) ∧
    (k.ep = ep →
      (t.core ep).held = (s.core ep).held.filter (fun h => h.age ≠ k.age) ∧
      (k.orphan = true → t.ctxAt ep k.ctx = s.ctxAt ep k.ctx) ∧
      (k.orphan = false → bad = none → (t.ctxAt ep k.ctx).csr.vstat = (s.ctxAt ep k.ctx).csr.vstat ||| fl) ∧
      (k.orphan = false → ∀ cause tval, bad = some (cause, tval) → (s.ctxAt ep k.ctx).alive = true →
        ⟨k.age, cause, k.pc, tval, false, 0, 0, false⟩ ∈ (t.ctxAt ep k.ctx).deferred))))

/-- R279, R283 to R285: what a command whose operands hold no error does to the scratchpad of its core: each element of P takes the
exact result rounded once, or the code of the greater one; the result word of CK.DOT and CK.SUM takes the sum of the 16 partial sums,
or is added to; CK.SMX takes the greatest of the old maximum and the chunk, writes the powers of the differences over the chunk, and
rescales and adds to the old sum, or writes zeros and 1.0 where every value is -infinity; CK.CVT writes the codes and the scales of
the scaled sources, and offers them where EN is set; CK.AMAX offers the elements; the fourth word of the state block and every byte
outside the ranges written keep their values; only CK.EMPTY empties words. -/
def Obligations.CaskResults : Prop :=
  ∀ (k : Cask) (c : Core), Memory.wf c.pad = true → caskFmt k.kind k.fmt = true → k.kind ≤ 9 →
    let w := fmtWidth k.fmt
    let f : FltFmt := match fmtOf k.fmt with | some (.flt f) => f | _ => fp32
    let val (x : Nat) : Val := decodeFlt f x
    let a := decodeFlt fp32 k.a.toNat
    let t := (k.run c []).1
    let codes (c : Core) (o : Nat) : List Nat := c.array o k.len w
    let y := k.q + 64 * ((k.len * w + 511) / 512)
    let terms : List Val := if k.kind = 9 then (codes c k.q).map val
      else ((codes c k.q).zip (codes c y)).map fun p => (vMul (val p.1) (val p.2)).1
    let total := (caskSum terms).1
    (k.kind ≠ 6 → ∀ e < k.len, (codes c k.p)[e]? = some (readNat c.pad (k.p + e * w / 8) (w / 8))) ∧
    (k.kind ∈ [0, 1, 3, 7] → ∀ e < k.len,
      let v := (codes c k.p).getD e 0
      let x := (codes c k.q).getD e 0
      (codes t k.p).getD e 0 =
        (match k.kind with
         | 0 => (encodeArith f .rne (vFma false a (val x) (val v))).1
         | 1 => (encodeArith f .rne (vMul a (val v))).1
         | 3 => (maxFlt f true v x).1
         | _ => (encodeNum (.flt f) .rne a).1) % 2 ^ w) ∧
    (k.kind = 2 ∨ k.kind = 9 → t.word32 k.p =
      if k.len = 0 then (if k.acc = true then c.word32 k.p else 0)
      else (if k.acc = true then (add32 (c.word32 k.p) total).1 else total) % 2 ^ 32) ∧
    (∀ i, ¬(k.kind ≠ 5 ∧ k.kind ≠ 8 ∧ k.p ≤ i ∧ i < k.p + k.pBytes) → ¬(k.kind = 4 ∧ k.q ≤ i ∧ i < k.q + 12) →
      byteAt t.pad i = byteAt c.pad i) ∧
    (∀ o, t.isFull o = (c.isFull o && !(k.kind == 8 &&
      (maskWords k.p (4 * k.len) (2 ^ (4 * k.len) - 1)).contains (o / 4 * 4)))) ∧
    (k.kind = 4 → 0 < k.len → k.q + 16 ≤ k.p ∨ k.p + k.pBytes ≤ k.q →
      let xs := codes c k.p
      let m := c.word32 k.q
      let l := c.word32 (k.q + 4)
      let single (b : Nat) : Val := decodeFlt fp32 b
      let round (v : Val × Flags) : Nat := (encodeArith fp32 .rne v).1
      let mn := (maxFlt fp32 true m (round (val ((xs.drop 1).foldl (fun y z => (maxFlt f true y z).1) (xs.headD 0)), 0))).1
      let power (v : Val) : Nat :=
        round (vExp2 (single (round (vMul a (single (round (vAdd false v (single mn).negate)))))))
      (mn = 0xFF800000 → (∀ e < k.len, (codes t k.p).getD e 0 = 0) ∧
        t.word32 k.q = m ∧ t.word32 (k.q + 4) = l ∧ t.word32 (k.q + 8) = 0x3F800000) ∧
      (mn ≠ 0xFF800000 →
        let ps := xs.map fun x => power (val x)
        let c' := power (single m)
        (∀ e < k.len, (codes t k.p).getD e 0 = (encodeNum (.flt f) .rne (single (ps.getD e 0))).1 % 2 ^ w) ∧
        t.word32 k.q = mn % 2 ^ 32 ∧ t.word32 (k.q + 8) = c' % 2 ^ 32 ∧
        t.word32 (k.q + 4) = (add32 (round (vMul (single l) (single c'))) (caskSum (ps.map single)).1).1 % 2 ^ 32)) ∧
    (let vs := if k.kind = 6 then (c.array k.q k.len 32).map fun x => (vMul a (decodeFlt fp32 x)).1 else (codes c k.p).map val
     let offered := vs.foldl (fun (r : BitVec 33) v => amaxJoin r (amaxOf false v)) (mgetD c.amax k.amaxIdx.toNat 0)
     (k.kind = 6 → fmtBlock k.fmt = 0 ∨ k.len % fmtBlock k.fmt = 0 →
       let r := encRow k.fmt (rowRnd k.rnd k.seed k.fmt (8 * k.p)) vs
       (∀ e < k.len, (codes t k.p).getD e 0 = r.2.1.getD e 0 % 2 ^ w) ∧
       ∀ b < k.plane, (byteAt t.pad (k.p + arrayBytes k.len w + b)).toNat = r.1.getD b 0 % 256) ∧
     (k.kind = 5 ∨ k.kind = 6 ∧ k.amaxEn = true → keysRise c.amax = true →
       mgetD t.amax k.amaxIdx.toNat 0 = offered ∧ ∀ i, i ≠ k.amaxIdx.toNat → mgetD t.amax i 0 = mgetD c.amax i 0)) ∧
    (k.kind ≠ 5 → k.kind ≠ 6 ∨ k.amaxEn = false → t.amax = c.amax)

/-- R291, R292, R294, R295: CP, CPX, CPJ and CPFILL check their length and alignments in order; a length of zero moves nothing and
gives the token at once, and counts as a push (log 122); else the copy enters the engine's queue, its ranges held and its register
busy, or stalls without room, or while an older ticket or an acquire of the context is outstanding; the token holds the count of
earlier pushes and the kind. R172, R274, R275, R287, R292 to R295: a portion never crosses a line of its
source or destination, and portions follow one another; a copy waits for its pusher's earlier stores and for older overlapping
ranges; between windows a portion reads its bytes, then writes them; one that a window refuses, or a class that the kind does not
allow, is a deferred trap that names the token's register and ends the copy (log 19); at its end the ranges are released and the register
takes the token. That a portion waits in the engine at an empty word of another core, too, is log 51. -/
def Obligations.Copies : Prop :=
  ((∀ (s : State) (rd rs1 rs2 rs3 : Reg),
    let dst : Word := s.x rs1
    let src : Word := s.x rs2
    let len : Word := s.x rs3
    let n := s.ctx.nCopy
    ∀ p ∈ ([(.cp rd rs1 rs2 rs3, 0), (.cpx rd rs1 rs2 rs3, 1), (.cpj rd rs1 rs2 rs3, 2), (.cpfill rd rs1 rs2 rs3, 3)] :
        List (Instr × Nat)),
      (len.extractLsb' 32 32 ≠ 0 → exec p.1 s = .next (trapped 2 len s)) ∧
      (len.extractLsb' 32 32 = 0 →
        (dst.toNat % 4 ≠ 0 → exec p.1 s = .next (trapped 6 dst s)) ∧
        (dst.toNat % 4 = 0 → src.toNat % 4 ≠ 0 → exec p.1 s = .next (trapped 4 src s)) ∧
        (dst.toNat % 4 = 0 → src.toNat % 4 = 0 → len.toNat % 4 ≠ 0 → exec p.1 s = .next (trapped 6 len s)) ∧
        (dst.toNat % 4 = 0 → src.toNat % 4 = 0 → len = 0 →
          exec p.1 s = .next ((s.setCtx { s.ctx with nCopy := n + 1 }).setX rd (copyToken n p.2)).advance) ∧
        (dst.toNat % 4 = 0 → src.toNat % 4 = 0 → len.toNat % 4 = 0 → len ≠ 0 →
          (¬(s.me.cq.length < 2 ∧ s.me.held.length + 2 ≤ 32 ∧ s.pushHeld = false) →
            exec p.1 s = .next { s with out := .stalled }) ∧
          (s.me.cq.length < 2 → s.me.held.length + 2 ≤ 32 → s.pushHeld = false →
            let u := s.cbDrainCtx s.cur.1 s.cur.2
            let age := u.me.nextAge
            let v := u.setMe { u.me with
              cq := u.me.cq ++ [⟨p.2, dst, src, len.toNat, 0, u.cur.2, u.pc, rd, n, [], false, age, false⟩]
              nextAge := age + 1, held := u.me.held ++ [⟨dst, len.toNat, age⟩, ⟨src, len.toNat, age⟩] }
            exec p.1 s = .next (v.setCtx { v.ctx with
              nCopy := n + 1, busyX := if rd = 0 then v.ctx.busyX else rd :: v.ctx.busyX }).advance)))) ∧
  (∀ (n : BitVec 16) (kind : Nat), kind < 4 →
    let t := copyToken n kind
    t.extractLsb' 40 24 = 0 ∧ t.extractLsb' 24 16 = n ∧ t.extractLsb' 7 17 = 0 ∧ (t.extractLsb' 0 7).toNat = 0x20 + kind)) ∧
  ((∀ q : Copy, q.kind < 4 → q.at_ < q.len →
    0 < q.portion ∧ q.portion ≤ q.len - q.at_ ∧ (q.dst.toNat + q.at_) % 128 + q.portion ≤ 128 ∧
    (q.src.toNat + q.at_) % 128 + q.portion ≤ 128 ∧ q.next = { q with at_ := q.at_ + q.portion }) ∧
  (∀ (s : State) (ep : Nat) (q : Copy) (rest : List Copy),
    (s.core ep).cq = q :: rest → (s.core ep).mrun = none → q.kind < 4 →
    (s.copyHeld ep q = true → exec (.copyPortion ep) s = .next s) ∧
    (s.copyHeld ep q = false → q.failed = false → q.at_ < q.len → s.copyOut ep q = none →
      let n := q.portion
      let src := q.src + BitVec.ofNat 64 q.at_
      let dst := q.dst + BitVec.ofNat 64 q.at_
      let failed (t : State) (cause : BitVec 6) (tval : Word) : State :=
        (if q.orphan = true then t else t.defer ep q.ctx q.age cause q.pc tval (if q.rd = 0 then .none else .tok q.rd)).modCore ep fun c =>
          { c with cq := setAt c.cq 0 { q with failed := true } }
      (aDev src = s.dev → aWin src = true → isCompute (aEp src) = true →
        s.admitted (s.master ep) kCore (aEp src) rRead = true →
        (q.kind = 1 → exec (.copyPortion ep) s = .next (failed s 17 src)) ∧
        (q.kind ≠ 1 →
          (∀ o, s.winRead (aEp src) (s.sysLevel ep q.ctx) (aOff src) n (2 ^ n - 1) = .bad o →
            exec (.copyPortion ep) s = .next (failed s 24 (winAddr s.dev (aEp src) o))) ∧
          (∀ w, s.winRead (aEp src) (s.sysLevel ep q.ctx) (aOff src) n (2 ^ n - 1) = .empty w →
            exec (.copyPortion ep) s = .next s) ∧
          (∀ v, s.winRead (aEp src) (s.sysLevel ep q.ctx) (aOff src) n (2 ^ n - 1) = .ok v →
            let p := s.tellPad ep q.ctx (aEp src) 0 [(aOff src, n)]
            aDev dst = s.dev → aWin dst = true → isCompute (aEp dst) = true → s.coreOn (aEp dst) = true →
            s.admitted (s.master ep) kCore (aEp dst) (if q.kind = 2 then rJoin else rWrite) = true →
            (q.kind = 2 → exec (.copyPortion ep) s = .next (failed p 17 dst)) ∧
            (q.kind ≠ 2 → q.kind = 3 → (s.core (aEp dst)).padSize < aOff dst + n →
              exec (.copyPortion ep) s = .next (failed p 24 (winAddr s.dev (aEp dst) (aOff dst)))) ∧
            ((q.kind = 3 → aOff dst + n ≤ (s.core (aEp dst)).padSize ∧
                ∀ w ∈ maskWords (aOff dst) n (2 ^ n - 1), (s.core (aEp dst)).isSync w = true) → q.kind ≠ 2 →
              (∀ t, p.winPut (aEp dst) (p.sysLevel ep q.ctx) (is960 ep) (aOff dst) n v (2 ^ n - 1) = .ok t →
                exec (.copyPortion ep) s = .next (t.modCore ep fun c => { c with cq := setAt c.cq 0 q.next })) ∧
              (∀ w, p.winPut (aEp dst) (p.sysLevel ep q.ctx) (is960 ep) (aOff dst) n v (2 ^ n - 1) = .full w →
                exec (.copyPortion ep) s = .next (failed p 25 (winAddr s.dev (aEp dst) w))))))))) ∧
  (∀ (s : State) (ep : Nat) (q : Copy) (rest : List Copy),
    (s.core ep).cq = q :: rest → q.over = true → s.copyOut ep q = none →
    let u := s.setCore ep { s.core ep with cq := rest, held := (s.core ep).held.filter fun h => h.age ≠ q.age }
    let free (x : Ctx) : Ctx := { x with busyX := x.busyX.filter fun r => r ≠ q.rd }
    (q.orphan = true → exec (.copyComplete ep) s = .next u) ∧
    (q.orphan = false → q.failed = true → exec (.copyComplete ep) s = .next (u.modCtx ep q.ctx free)) ∧
    (q.orphan = false → q.failed = false → exec (.copyComplete ep) s =
      .next (u.modCtx ep q.ctx fun x => (free x).wx q.rd (copyToken q.seq q.kind)))))

/-! ## Translation (R345 to R377) -/

/-- R364 to R369, R375: the instructions of the service cores. TLBW reads a 24-byte image, answers why it refuses it, or enters it
where the cluster translates and answers 0; TLBINV answers 1 where a pin keeps the page, its entries retiring and its release
awaited, and otherwise removes its entries, and answers 0 once no access under them is under way; REPLAYALL sends the all notice;
TKPOST answers a slot and frees it; FLUSHCTX flushes a team from a core. R357, R359, R372, R551: a request for a translation reaches
the fault buffer of its cluster, and its requester records the ticket; a notice acts on each matching entry of a core, on a memory
core's miss and on a distributor's; one that matches nothing changes nothing: a slot notice matches an equal code, an all notice
every code of its cluster, but it leaves a conversion to the notice of its own slot (log 115). A reserved flag of TLBINV and a status
of a conversion's slot other than 0 are cause 2 with ktval 0 (logs 65 and 98); TKPOST removes a message not yet read (log 58); what
FLUSHCTX takes from a core, and that it acknowledges at once, is log 26. -/
def Obligations.ServiceInstructions : Prop :=
  (∀ (s : State) (rd rs1 rs2 : Reg),
    let a : Word := s.x rs1
    let f : Word := s.x rs2
    let cl := clusterOf s.cur.1
    (isService s.cur.1 = false →
      ∀ i ∈ ([.tlbw rd rs1, .tlbinv rd rs1 rs2, .replayall, .tkpost rs1 rs2] : List Instr), exec i s = .next (trapped 2 0 s)) ∧
    (isService s.cur.1 = false → s.ctx.csr.prv = false → exec (.flushctx rd rs1) s = .next (trapped 2 0 s)) ∧
    (isService s.cur.1 = true →
      (a.toNat % 8 ≠ 0 → exec (.tlbw rd rs1) s = .next (trapped 4 a s)) ∧
      (∀ u tag map ownw, a.toNat % 8 = 0 → s.innerWords a 3 = .ok (u, [tag, map, ownw]) →
        (∀ code, u.tlbImage tag map ownw = .error code → exec (.tlbw rd rs1) s = .next (u.setX rd (BitVec.ofNat 64 code)).advance) ∧
        (∀ t, u.tlbImage tag map ownw = .ok t → u.cur = s.cur →
          let v := (coresOf cl).foldl (fun (s : State) e =>
            s.modCore e fun c => { c with tlb := c.tlb.filter fun o => !o.meets t }) u
          exec (.tlbw rd rs1) s = .next ((v.setCluster cl ((v.cluster cl).install t)).setX rd 0).advance)) ∧
      (∀ n page, n = (if f.getLsbD 0 = true then 512 else 1) → page = aVpn a →
        (a.toNat % (65536 * n) ≠ 0 → exec (.tlbinv rd rs1 rs2) s = .next (trapped 2 a s)) ∧
        (a.toNat % (65536 * n) = 0 → f.extractLsb' 32 32 ≠ 0 ∨ f.extractLsb' 2 14 ≠ 0 →
          exec (.tlbinv rd rs1 rs2) s = .next (trapped 2 0 s)) ∧
        (a.toNat % (65536 * n) = 0 → f.extractLsb' 32 32 = 0 → f.extractLsb' 2 14 = 0 →
          (f.getLsbD 1 = false → s.pinned page n = true →
            let u := s.everyTlb fun l => l.map fun t => if t.within page n = true then { t with ret := true } else t
            let pages := (s.pinnedIn page n).filter fun v => !(s.cluster cl).deferred.contains v
            exec (.tlbinv rd rs1 rs2) s = .next
              ((u.setCluster cl { u.cluster cl with deferred := (u.cluster cl).deferred ++ pages }).setX rd 1).advance) ∧
          (f.getLsbD 1 = true ∨ s.pinned page n = false →
            let u := s.everyTlb fun l => l.filter fun t => !t.within page n
            let v := (if f.getLsbD 0 = true then u else u.flushSubs page (f.extractLsb' 16 16)).sendPages page n
            (v.pagesBusy page n = false → exec (.tlbinv rd rs1 rs2) s = .next (v.setX rd 0).advance) ∧
            (v.pagesBusy page n = true → exec (.tlbinv rd rs1 rs2) s = .next { v with out := .stalled })))) ∧
      (let u := s.setCluster cl { s.cluster cl with seen := [] }
       let code := ticketCode true cl 0 0
       exec .replayall s = .next ((s.cluster cl).seen.foldl (fun (s : State) d => s.notify d 2047 true code 0 0)
        (u.holders.foldl (fun (s : State) e => s.notify s.dev e true code 0 0) u)).advance) ∧
      (8 ≤ a.toNat → exec (.tkpost rs1 rs2) s = .next (trapped 2 a s)) ∧
      (a.toNat < 8 → 2 < f.toNat → exec (.tkpost rs1 rs2) s = .next (trapped 2 f s)) ∧
      (∀ i : Fin 8, a.toNat = i.val → f.toNat ≤ 2 →
        let k := (s.cluster cl).slots[i]
        (k.st = 0 → exec (.tkpost rs1 rs2) s = .next (trapped 2 a s)) ∧
        (k.st ≠ 0 → k.kind = 2 → f ≠ 0 → exec (.tkpost rs1 rs2) s = .next (trapped 2 0 s)) ∧
        (k.st ≠ 0 → k.kind = 2 → f = 0 → s.convertBusy k = true → exec (.tkpost rs1 rs2) s = .next { s with out := .stalled }) ∧
        (k.st ≠ 0 → (k.kind = 2 → f = 0 ∧ s.convertBusy k = false) →
          let u := if k.kind = 2 then s.convertPage k else s
          let v := u.setCluster cl { u.cluster cl with
            slots := (u.cluster cl).slots.set i { k with st := 0, reqs := [], who := none }
            msgs := (u.cluster cl).msgs.filter fun m => m ≠ .slot i }
          exec (.tkpost rs1 rs2) s = .next (k.reqs.foldl (fun (s : State) r =>
            s.notify r.1 r.2 false (ticketCode false cl i k.gen) (f.extractLsb' 0 2) (if k.kind = 1 then 7 else 8)) v).advance))) ∧
    (isService s.cur.1 = true ∨ s.ctx.csr.prv = true →
      let ep := (a.extractLsb' 16 11 : BitVec 11).toNat
      let owner : BitVec 16 := a.extractLsb' 0 16
      (a.extractLsb' 27 37 ≠ 0 ∨ isCompute ep = false → exec (.flushctx rd rs1) s = .next (trapped 2 a s)) ∧
      (a.extractLsb' 27 37 = 0 → isCompute ep = true → exec (.flushctx rd rs1) s =
        .next ((s.flushOwner ep owner).setX rd (if (s.core ep).ran.contains owner = true then 0 else 1)).advance))) ∧
  ((∀ (s : State) (k cl : Nat) (who : BitVec 10 × Nat) (vpn : Nat) (kind : BitVec 2) (team : BitVec 16) (sub : BitVec 4)
      (acc : BitVec 2) (age : Nat), s.net[k]? = some (.request cl who vpn kind team sub acc age) → isCompute who.2 = true →
    let r := (s.cluster cl).request cl s.dev who vpn kind team sub acc
    exec (.faultBufferRequest k) s = .next (((s.take k).setCluster cl r.1).setStage who.2 age (.ticket s.dev r.2))) ∧
  (∀ (s : State) (k ep : Nat) (tdev : BitVec 10) (all : Bool) (code : BitVec 16) (status : BitVec 2) (reason : Nat),
    s.net[k]? = some (.notice ep tdev all code status reason) →
    let t := s.take k
    (isCompute ep = true ∨ isService ep = true →
      exec (.replayNotice k) s = .next (t.noticeCore ep tdev all code status reason) ∧
      ((∀ a ∈ (s.core ep).accs, ∀ c, a.stage = .ticket tdev c → codeMatches all code c = false ∨ all = true ∧ a.converts = true) →
        t.noticeCore ep tdev all code status reason = t)) ∧
    (isMemCore ep = true → tdev = s.dev → exec (.replayNotice k) s = .next (t.noticeMc ep all code status reason)) ∧
    (1032 ≤ ep → ep < 1036 → tdev = s.dev → exec (.replayNotice k) s = .next (t.noticeDist (ep - 1032) all code status)) ∧
    (ep = 1036 → tdev = s.dev → exec (.replayNotice k) s = .next (t.noticeHost all code status))) ∧
  (∀ (s : State) (ep : Nat) (a : Acc) (reason : Nat),
    s.noticeAcc ep a 0 reason = s.replay ep a ∧
    s.noticeAcc ep a 1 reason = s.failLate ep a a.op.pageFault a.va ∧
    s.noticeAcc ep a 2 reason = (s.setStage ep a.age a.frozenStage).freeze ep a.ctx a.va reason [] ∧
    (∀ dev code, a.stage = .ticket dev code → a.frozenStage = .frozen dev code)) ∧
  (∀ (code held : BitVec 16), codeMatches false code held = (code == held) ∧
    codeMatches true code held = (code.extractLsb' 8 7 == held.extractLsb' 8 7)))

/-- R347, R349 to R352, R365, R366: an image that TLBW accepts has its fields where R349 to R351 place them, a legal class, type and
width, and populated memory; an entry that enters a cluster's TLB is in it, in the place of every entry that meets it; after TLBINV
no entry of any TLB covers a page of the range. R354, R355: a collision is split exactly where the sub-page is the owner's still and
the page has no other second owner; the split gives that sub-page to the team and leaves every other sub-page and field as they were.
A collision slot that Choing resolves gets status 2 for a violation; for a split the sub-page goes home, the page leaves every TLB, and
the cluster has the new entry when the notice leaves. -/
def Obligations.TranslationEntries : Prop :=
  (∀ (s : State) (tag map ownw : Word) (t : Tlb), s.tlbImage tag map ownw = .ok t →
    tag.getLsbD 63 = true ∧ tag.extractLsb' 37 25 = 0 ∧ map.extractLsb' 0 14 = 0 ∧ ownw.extractLsb' 16 16 = 0 ∧
    t.lg = tag.getLsbD 62 ∧ t.vpn = (tag.extractLsb' 0 37).toNat ∧ t.ppn = (map.extractLsb' 32 32).toNat ∧
    map.extractLsb' 30 2 = (match t.cls with | .own => 0 | .host => 1 | .lat => 2) ∧ t.typ = map.extractLsb' 26 4 ∧
    t.width = map.extractLsb' 24 2 ∧ t.vint = map.extractLsb' 16 8 ∧ t.cork = map.getLsbD 15 ∧ t.ret = map.getLsbD 14 ∧
    t.owner = ownw.extractLsb' 48 16 ∧ t.second = ownw.extractLsb' 32 16 ∧ t.mask = ownw.extractLsb' 0 16 ∧
    (t.cls = .lat → typeOk t.typ t.width = true ∧ t.ppn * 65536 < 2 ^ 40) ∧
    (t.cls ≠ .lat → t.typ = 0 ∧ t.width = 0 ∧ t.cork = false) ∧ (t.cls ≠ .own → ownw = 0) ∧
    (t.mask ≠ 0 → t.owner ≠ t.second ∧ t.lg = false) ∧ (t.lg = true → t.vpn % 512 = 0 ∧ t.ppn % 512 = 0) ∧
    s.populated (t.ppn * 65536) (t.span * 65536) = true) ∧
  (∀ (c : Cluster) (t : Tlb),
    let l := (c.install t).l2
    t ∈ l ∧ (∀ u ∈ l, u ≠ t → u ∈ c.l2 ∧ u.meets t = false) ∧
    (((c.l2.filter fun u => decide (u.l2set = t.l2set)).length < 8 → ∀ u ∈ c.l2, u.meets t = false → u ∈ l))) ∧
  (∀ (s : State) (page n : Nat),
    let u := s.everyTlb fun l => l.filter fun t => !t.within page n
    (∀ c ∈ u.cores, ∀ t ∈ c.2.tlb, t.within page n = false) ∧ (∀ c ∈ u.clusters, ∀ t ∈ c.2.l2, t.within page n = false) ∧
    (∀ m ∈ u.mcs, ∀ t ∈ m.2.tlb, t.within page n = false)) ∧
  (∀ (t : Tlb) (page n : Nat), t.within page n = true ↔ ∃ p, page ≤ p ∧ p < page + n ∧ t.vpn ≤ p ∧ p < t.vpn + t.span) ∧
  (∀ (t : Tlb) (team : BitVec 16) (a : Word),
    (t.answer team a = 0 ↔ t.lg = false ∧ t.mask.getLsbD (a.toNat / 4096 % 16) = false ∧ team ≠ t.owner ∧
      (t.mask = 0 ∨ team = t.second)) ∧
    (t.answer team a = 0 ∨ t.answer team a = 2) ∧
    ∀ u, t.resolve team a = some u →
      u.ownerAt a = team ∧ (∀ b : Word, b.toNat / 4096 % 16 ≠ a.toNat / 4096 % 16 → u.ownerAt b = t.ownerAt b) ∧
      { u with second := t.second, mask := t.mask } = t) ∧
  (∀ (s : State) (cl : Nat) (i : Fin 8) (t : Tlb),
    let k := (s.cluster cl).slots[i]
    let a : Word := BitVec.ofNat 64 (k.vpn * 65536 + k.sub.toNat * 4096)
    s.entryFor k.vpn = some t → k.st ≠ 0 → k.kind = 1 →
      (t.resolve k.team a = none → s.resolveSlot cl i = s.answerSlot cl i 2) ∧
      ∀ t', t.resolve k.team a = some t' →
        let u := (s.flushSubs k.vpn (BitVec.ofNat 16 (2 ^ k.sub.toNat))).sendPages k.vpn 1
        let v := u.everyTlb fun l => l.filter fun e => !e.within k.vpn 1
        (u.pagesBusy k.vpn 1 = true → s.resolveSlot cl i = u) ∧
        (u.pagesBusy k.vpn 1 = false →
          s.resolveSlot cl i = (v.setCluster cl ((v.cluster cl).install t')).answerSlot cl i 0))

/-! ## The package and the fabric (R505 to R554) -/

/-- R524: a unit whose corrected errors of the epoch exceed ETHR, or with an error in its own logic, is marked and logged, RREQ is set,
and a unit event is posted; a marked compute core without a team, or a marked memory core that is FREE, is disabled, with its event;
any other unit is left as it is; the counts restart every 2^40 ns. R521: once a millisecond THROT becomes 0 below 95 °C, rises by one
below 105 °C, and is 3 from there on, and a rise posts a power event below 115 °C; at 115 °C a thermal trip sets TTRIP. R1, R509,
R511, R524: a reset puts every context at its reset state, keeps memory, RREQ and the disable log, and disables what the log names,
with an event for what was in service; power-off loses the memory, clears RREQ and keeps the log; stages 2 to 7 follow one another, each
only after the one before it: self-test disables what fails and asks for replacement, training writes T1SIZE and T2LEN or leaves
BOOT at 15, line state is zeroed (stage 4), and once the host is ready the pieces of the image come from host memory (stage 6) and the
service cores start at the entry (stage 7); a stage that fails, but for the wait of stage 5, leaves BOOT at 15. Which errors,
temperatures and failing units occur, and which pieces the image has, is the event's, not the machine's (logs 28 to 30, 84). -/
def Obligations.UnitsAndBoot : Prop :=
  (∀ (s : State) (unit : Nat) (logic : Bool), s.canPost = true →
    let event (code : Nat) : List Word := [5, BitVec.ofNat 64 (code * 2 ^ 62 + unit), BitVec.ofNat 64 (mgetD s.pkg.corrected unit 0)]
    let marked (s : State) : State := { s with
      pkg := { s.pkg with rreq := true, log := s.pkg.log ++ [unit] }, reports := s.reports ++ [event 0] }
    (isUnit unit = true ↔ unit < 960 ∨ (2048 ≤ unit ∧ unit < 2432)) ∧
    (isUnit unit = true → unit ∉ s.pkg.log → s.unitOff unit = false →
      (logic = true ∨ s.pkg.ethr.toNat < mgetD s.pkg.corrected unit 0 →
        exec (.unitMark unit logic) s = .next (if isCompute unit = true then
            (marked s).modCore unit fun c => { c with marked := true }
          else if isMemCore unit = true then (marked s).setMc unit { s.mc unit with marked := true } else marked s)) ∧
      (logic = false → mgetD s.pkg.corrected unit 0 ≤ s.pkg.ethr.toNat → exec (.unitMark unit logic) s = .next s)) ∧
    (isUnit unit = false ∨ unit ∈ s.pkg.log ∨ s.unitOff unit = true → exec (.unitMark unit logic) s = .next s) ∧
    (s.unitOff unit = false →
      (isCompute unit = true →
        ((s.core unit).marked = true → (s.core unit).team = none →
          exec (.unitDisable unit) s = .next (({ s with reports := s.reports ++ [event 1] } : State).modCore unit
            fun c => { c with disabled := true })) ∧
        ((s.core unit).marked = false ∨ (s.core unit).team ≠ none → exec (.unitDisable unit) s = .next s)) ∧
      (isCompute unit = false → isMemCore unit = true →
        ((s.mc unit).marked = true → (s.mc unit).st = .free →
          exec (.unitDisable unit) s = .next (({ s with reports := s.reports ++ [event 1] } : State).setMc unit
            { s.mc unit with disabled := true })) ∧
        ((s.mc unit).marked = false ∨ (s.mc unit).st ≠ .free → exec (.unitDisable unit) s = .next s))) ∧
    (isCompute unit = false ∧ isMemCore unit = false ∨ s.unitOff unit = true → exec (.unitDisable unit) s = .next s)) ∧
  (∀ s : State,
    (s.pkg.epochs < s.time / 2 ^ 40 → exec .errorEpochEnd s =
      .next { s with pkg := { s.pkg with epochs := s.time / 2 ^ 40, corrected := [] } }) ∧
    (s.time / 2 ^ 40 ≤ s.pkg.epochs → exec .errorEpochEnd s = .next s) ∧
    (∀ (temps : Vector (BitVec 16) 4) (power : BitVec 16) (h : Nat), s.canPost = true → hottest temps = h →
      let k : BitVec 2 := if h < 760 then 0 else if 840 ≤ h ∨ s.pkg.throt = 3 then 3 else s.pkg.throt + 1
      let t : State := { s with pkg := { s.pkg with temps := temps, pavg := power, throt := k, ms := s.time / 1000000 } }
      (s.pkg.ms < s.time / 1000000 →
        (k ≤ s.pkg.throt ∨ 920 ≤ h → exec (.thermalStep temps power) s = .next t) ∧
        (s.pkg.throt < k → h < 920 → exec (.thermalStep temps power) s = .next { t with
          reports := s.reports ++ [[6, BitVec.ofNat 64 (k.toNat + if 840 ≤ h then 256 else 0)]] })) ∧
      (s.time / 1000000 ≤ s.pkg.ms → exec (.thermalStep temps power) s = .next s)) ∧
    (∀ temps : Vector (BitVec 16) 4, (∀ i : Fin 4, temps[i].toNat ≤ hottest temps) ∧ ∃ i : Fin 4, temps[i].toNat = hottest temps) ∧
    (920 ≤ hottest s.pkg.temps → exec .thermalTrip s = .next { s with pkg := { s.pkg with ttrip := true } }) ∧
    (hottest s.pkg.temps < 920 → exec .thermalTrip s = .next s)) ∧
  (∀ s : State,
    (∃ t, exec .deviceReset s = .next t ∧ t.pkg.boot = 1 ∧ t.pkg.off = false ∧ t.pkg.log = s.pkg.log ∧ t.pkg.rreq = s.pkg.rreq ∧
      t.mem = s.mem ∧ t.net = [] ∧ (∀ ep n, t.ctxAt ep n = State.reset.ctxAt ep n) ∧
      (∀ u ∈ s.pkg.log, t.unitOff u = true) ∧
      t.reports = (s.pkg.log.filter fun u => !s.unitOff u).map fun u => s.unitEvent u 1) ∧
    (∃ t, exec .powerOff s = .next t ∧ t.pkg.off = true ∧ t.pkg.log = s.pkg.log ∧ t.pkg.rreq = false ∧ t.mem = [] ∧ t.reports = [] ∧
      t.pkg.boot = 0) ∧
    (∀ (cores mcs pch : List Nat),
      (s.pkg.boot ≠ 1 ∨ s.pkg.off = true → exec (.selfTest cores mcs pch) s = .next s) ∧
      (s.pkg.boot = 1 → s.pkg.off = false → ∃ t, exec (.selfTest cores mcs pch) s = .next t ∧ t.pkg.boot = 2 ∧
        (∀ e ∈ cores, isCompute e = true → t.coreOn e = false) ∧ (∀ n ∈ mcs, n < 384 → t.mcOn (576 + n) = false) ∧
        (∀ n ∈ pch, n < 384 → n ∈ t.pkg.badPch) ∧
        (t.pkg.rreq = true ↔ s.pkg.rreq = true ∨ (∃ e ∈ cores, isCompute e = true) ∨ ∃ n ∈ mcs ++ pch, n < 384))) ∧
    (∀ t2len : Vector (BitVec 41) 12,
      (s.pkg.boot ≠ 2 → ∀ ok, exec (.memoryTraining t2len ok) s = .next s) ∧
      (s.pkg.boot = 2 → exec (.memoryTraining t2len false) s = .next { s with pkg := { s.pkg with boot := 15 } } ∧
        ∃ t, exec (.memoryTraining t2len true) s = .next t ∧ t.pkg.boot = 3 ∧
          t.pkg.t1size = BitVec.ofNat 64 (s.slices.length * 1216 * 2 ^ 20) ∧
          ∀ i : Fin 12, t.pkg.t2len[i].toNat = t2len[i].toNat / 65536 * 65536)) ∧
    (s.pkg.boot = 3 → exec .lineStateZero s =
      .next { s with lines := [], rings := [], regs := [], lees := [], pkg := { s.pkg with boot := 4 } }) ∧
    (s.pkg.boot = 4 → exec .lineStateZero s = .next { s with pkg := { s.pkg with boot := 5 } }) ∧
    (s.pkg.boot ≠ 3 → s.pkg.boot ≠ 4 → exec .lineStateZero s = .next s) ∧
    (s.bootFail = if s.pkg.boot ∈ [1, 2, 3, 4, 6] then { s with pkg := { s.pkg with boot := 15 } } else s) ∧
    (∀ (entry : BitVec 64) (image : List (Nat × Nat × Nat)),
      (s.pkg.boot = 5 → s.pkg.hostReady = true → exec (.choingLoad entry image) s = .next { s with pkg := { s.pkg with boot := 6 } }) ∧
      (s.pkg.boot = 6 → ∃ t, exec (.choingLoad entry image) s = .next t ∧ t.pkg = { s.pkg with boot := 7 } ∧
        t.mem = image.foldl (fun (m : List Host.Cell) p =>
          writeRange m p.1 p.2.2 (readRange s.hostMem (s.pkg.bootImg.toNat + p.2.1) p.2.2)) s.mem ∧
        ∀ c < 72, t.ctxAt (960 + c) 0 = { life := .live, pc := BitVec.ofNat 64 (entry.toNat / 4 * 4), csr := { prv := true } }) ∧
      (s.pkg.boot ≠ 6 → s.pkg.boot ≠ 5 ∨ s.pkg.hostReady = false → exec (.choingLoad entry image) s = .next s)))

/-- R510, R518, R519: the host's writes of the control block: the ring and pool registers only before stage 6, a ring's size resets
its sequence registers, a doorbell or consumer value outside the ring is ignored, and the power cap keeps to its range; the host's
read of the block gives the doubleword at its offset. R24, R409,
R423, R426, R447, R487, R517 to R519, R525: while intake runs, the entry with the next sequence number is acted on by its kind and
counts as accepted; a task entry waits while its queue is full; an entry of another kind, or with another sequence number, posts a
sequence event; the oldest report is written whole into the device ring, while the host has room there. Logs 69 (a pre-emption without
image slots), 85 (a wrong SEQ is the row of the malformed entry), 86 (low bits of the base registers) and 109 (an entry acts in the
step that accepts it) name what the model chose. -/
def Obligations.HostRings : Prop :=
  ((∀ (s : State) (off : BitVec 64) (v : Word) (deq : Bool) (w : BitVec 32),
    s.hostControlRead off.toNat =
      { s with hostAns := s.hostAns ++ [⟨off.toNat, false, 8, ((s.pkgDw (off.toNat / 8 * 8)).getD 0).toNat, true⟩] } ∧
    exec (.hostControlWrite off v) s = .next { s with pkg := s.pkg.hostPut off.toNat v } ∧
    exec (.ringLogWrite deq v) s = .next { s with pkg := s.pkg.setLog deq v } ∧
    exec (.htailWrite w) s = .next { s with pkg := s.pkg.setTail w } ∧
    exec (.dconsWrite w) s = .next { s with pkg := s.pkg.setCons w }) ∧
  (∀ (p : Pkg) (v : Word) (w : BitVec 32) (off : Nat),
    let k := (v.extractLsb' 0 5 : BitVec 5).toNat
    p.hostPut 0x018 v = { p with ethr := v.extractLsb' 0 16 } ∧
    p.hostPut 0x080 v = (if 1200 ≤ (v.extractLsb' 16 12).toNat ∧ (v.extractLsb' 16 12).toNat ≤ 2800 then
      { p with pcap := v.extractLsb' 16 12 } else p) ∧
    (off ∈ [0x200, 0x208, 0x220, 0x228, 0x240, 0x248, 0x250, 0x258] → 6 ≤ p.boot → p.hostPut off v = p) ∧
    (p.boot < 6 →
      p.hostPut 0x200 v = { p with hsqBase := v &&& ~~~0xFF } ∧ p.hostPut 0x220 v = { p with deqBase := v &&& ~~~0xFF } ∧
      p.hostPut 0x240 v = { p with imgBase := v &&& ~~~0xFFFF } ∧ p.hostPut 0x248 v = { p with imgN := (v.extractLsb' 0 16 : BitVec 16).toNat } ∧
      p.hostPut 0x250 v = { p with hvBase := v } ∧ p.hostPut 0x258 v = { p with bootImg := v } ∧
      (4 ≤ k ∧ k ≤ 16 → p.hostPut 0x208 v = { p with hsqLog := k, htail := 0, hseq := 0 } ∧
        p.hostPut 0x228 v = { p with deqLog := k, dcons := 0, dseq := 0 }) ∧
      (k = 0 → p.hostPut 0x208 v = { p with hsqLog := 0 } ∧ p.hostPut 0x228 v = { p with deqLog := 0 }) ∧
      (1 ≤ k ∧ k ≤ 3 ∨ 17 ≤ k → p.hostPut 0x208 v = p ∧ p.hostPut 0x228 v = p)) ∧
    p.hostPut 0x210 v = p.setTail (v.extractLsb' 0 32) ∧ p.hostPut 0x230 v = p.setCons (v.extractLsb' 0 32) ∧
    (off ∉ [0x018, 0x080, 0x200, 0x208, 0x210, 0x220, 0x228, 0x230, 0x240, 0x248, 0x250, 0x258] → p.hostPut off v = p) ∧
    (2 ^ p.hsqLog < (w - p.hseq).toNat → p.setTail w = p) ∧
    ((w - p.hseq).toNat ≤ 2 ^ p.hsqLog → (p.setTail w).htail = w ∧ (p.setTail w).stopped = false ∧
      (p.setTail w).hostReady = (p.hostReady || (p.boot == 5 && w == 0))) ∧
    ((w - p.dcons).toNat ≤ (p.dseq - p.dcons).toNat → p.setCons w = { p with dcons := w }) ∧
    ((p.dseq - p.dcons).toNat < (w - p.dcons).toNat → p.setCons w = p))) ∧
  ((∀ (s : State) (ws : List Word), s.pkg.boot = 7 → s.pkg.stopped = false → s.pkg.hsqLog ≠ 0 →
    1 ≤ (s.pkg.htail - s.pkg.hseq).toNat → (s.pkg.htail - s.pkg.hseq).toNat ≤ 2 ^ s.pkg.hsqLog →
    ws = entryWords s.hostMem (s.pkg.hsqBase.toNat + 256 * ((s.pkg.hseq + 1).toNat % 2 ^ s.pkg.hsqLog)) →
    let h : Word := ws.headD 0
    let kind : BitVec 8 := h.extractLsb' 32 8
    let a : Word := ws.getD 1 0
    let seq : BitVec 32 := h.extractLsb' 0 32
    let accepted (s : State) : State := { s with pkg := { s.pkg with hseq := s.pkg.hseq + 1 } }
    (seq = s.pkg.hseq + 1 →
      (kind = 1 →
        (∀ t, s.acceptEntry (h.extractLsb' 40 2).toNat ⟨(h.extractLsb' 44 4).toFin, true, false, ws.drop 1, none⟩ = .ok t →
          exec .hsqTaskEntry s = .next (accepted t)) ∧
        (∀ t, s.acceptEntry (h.extractLsb' 40 2).toNat ⟨(h.extractLsb' 44 4).toFin, true, false, ws.drop 1, none⟩ = .error t →
          exec .hsqTaskEntry s = .next t)) ∧
      (kind = 2 →
        (s.teamLead (a.extractLsb' 0 16) = none → exec .hsqPreempt s = .next (accepted s)) ∧
        (∀ e, s.teamLead (a.extractLsb' 0 16) = some e → s.slotsNeeded e ≤ s.slotsFree →
          exec .hsqPreempt s = .next (accepted (s.stopTeam e))) ∧
        (∀ e, s.teamLead (a.extractLsb' 0 16) = some e → s.slotsFree < s.slotsNeeded e →
          exec .hsqPreempt s = .next (accepted s))) ∧
      (kind = 3 →
        let ep := (a.extractLsb' 0 11).toNat
        ((s.core ep).frozen = false ∨ (isCompute ep = false ∧ isService ep = false) → exec .hsqUnfreeze s = .next (accepted s)) ∧
        (isCompute ep = true ∨ isService ep = true → exec .hsqUnfreeze s = .next (accepted (s.unfreeze ep)))) ∧
      (kind = 4 →
        let u := s.modDomain (a.extractLsb' 16 3) (a.extractLsb' 0 16) fun d => { d with hwake := a.getLsbD 63 }
        exec .hsqWake s = .next (accepted { u with
          det := { u.det with idle := u.det.idle.filter fun i => i ≠ (a.extractLsb' 16 3, a.extractLsb' 0 16) } })) ∧
      (kind = 5 → exec .hsqReleaseHeld s = .next (accepted (s.releaseHeld (a.extractLsb' 0 11).toNat))) ∧
      (kind = 6 →
        let d := (h.extractLsb' 40 2).toNat
        exec .hsqQueueReset s = .next (accepted (s.setDist d
          { s.dist d with bases := (s.dist d).bases.set (h.extractLsb' 44 4).toFin (Vector.replicate 16 0) }))) ∧
      (kind = 0 ∨ 7 ≤ kind → s.canPost = true →
        exec .hsqMalformed s = .next (accepted { s with reports := s.reports ++ [[7, 2, seq.zeroExtend 64]] }))) ∧
    (seq ≠ s.pkg.hseq + 1 → s.canPost = true →
      exec .hsqMalformed s = .next { s with pkg := { s.pkg with stopped := true }, reports := s.reports ++ [[7, 1, seq.zeroExtend 64]] } ∧
      ∀ i ∈ ([.hsqTaskEntry, .hsqPreempt, .hsqUnfreeze, .hsqWake, .hsqReleaseHeld, .hsqQueueReset] : List Instr), exec i s = .next s)) ∧
  (∀ s : State, s.pkg.boot ≠ 7 ∨ s.pkg.stopped = true ∨ s.pkg.hsqLog = 0 ∨ s.pkg.htail = s.pkg.hseq →
    ∀ i ∈ ([.hsqTaskEntry, .hsqPreempt, .hsqUnfreeze, .hsqWake, .hsqReleaseHeld, .hsqQueueReset, .hsqMalformed] : List Instr),
      exec i s = .next s) ∧
  (∀ (s : State) (mc : Nat), (s.mc mc).st ≠ .held → s.releaseHeld mc = s) ∧
  (∀ (s : State) (r : List Word) (rest : List (List Word)), s.reports = r :: rest → s.pkg.deqLog ≠ 0 → s.pkg.boot ≠ 15 →
    let q := s.pkg.dseq + 1
    let slot := s.pkg.deqBase.toNat + 256 * (q.toNat % 2 ^ s.pkg.deqLog)
    ((q - s.pkg.dcons).toNat ≤ 2 ^ s.pkg.deqLog →
      ∃ t, exec .deqPost s = .next t ∧ t.pkg = { s.pkg with dseq := q } ∧ t.reports = rest ∧
        (Memory.wf s.hostMem = true → r ≠ [] → r.length ≤ 32 →
          entryWords t.hostMem slot = ((r.headD 0) <<< 32 ||| q.zeroExtend 64) :: r.drop 1 ++ List.replicate (32 - r.length) 0)) ∧
    (2 ^ s.pkg.deqLog < (q - s.pkg.dcons).toNat → exec .deqPost s = .next s)))

/-- R347, R513 to R515, R523, R559: a host access of a sector is translated as one from another device; by the class of its page a
read gives the bytes or poison, or becomes an exact read at the press, which answers with the bytes, or with poison and reason 2 where
one is not readable; a write is done, joined at the press, or dropped with its reason; a miss of a read or a write waits for its
replay; a poisoned line gives poison; at a window the host port reads the blocks that name it and writes the package's, under the
access table; the host's answer to a back-invalidation ends its holding of the sector. What another window gives is log 145, and the
reason of an access that fails after its miss is log 31. -/
def Obligations.HostAccesses : Prop :=
  (∀ (s : State) (w : BitVec 40) (len data be : Nat) (t : Tlb), s.canPost = true → len ≠ 0 →
    (s.pkg.hvBase.toNat + w.toNat) % 64 + len ≤ 64 → (s.hostAccs.filter fun a => !a.press).length < 64 →
    let va := s.hostAddr w.toNat
    let u : State := { s with next := s.next + 1 }
    let a (write : Bool) (data be : Nat) : HostAcc := ⟨s.next, w.toNat, write, len, data, be, false, none⟩
    (aWin va = false →
      (∀ k, s.lookupL2 none va = .miss k →
        (∃ t, exec (.hostRead w len) s = .next t ∧
          t.net = s.net ++ [.request (aVpn va % 72) (s.dev, 1036) (aVpn va) k 0xFFFF 0 0 s.next] ∧ a false 0 0 ∈ t.hostAccs) ∧
        ∃ t, exec (.hostWrite w len data be) s = .next t ∧
          t.net = s.net ++ [.request (aVpn va % 72) (s.dev, 1036) (aVpn va) k 0xFFFF 0 1 s.next] ∧ a true data be ∈ t.hostAccs) ∧
      (s.lookupL2 none va = .hit t →
        exec (.hostRead w len) s = .next (u.hostServe (a false 0 0) t va) ∧
        exec (.hostWrite w len data be) s = .next (u.hostServe (a true data be) t va))) ∧
    (aWin va = true →
      exec (.hostRead w len) s = .next (u.hostServeWin (a false 0 0) va) ∧
      exec (.hostWrite w len data be) s = .next (u.hostServeWin (a true data be) va))) ∧
  (∀ (s : State) (a : HostAcc) (va : Word),
    let off := aOff va
    let ok := s.admitted s.hostMaster (winKind (aEp va)) (aEp va) (if a.write = true then rWrite else rRead)
    (ok = false → s.hostServeWin a va = s.hostDone a none (some 4)) ∧
    (ok = true → a.len = 8 → off % 8 = 0 →
      (a.write = false → ∀ v, s.hostDw (aEp va) off = some v → s.hostServeWin a va = s.hostDone a (some v.toNat) none) ∧
      (a.write = false → s.hostDw (aEp va) off = none → s.hostServeWin a va = s.hostFail a) ∧
      (a.write = true → a.be = 255 → aEp va = 1036 → off < 0x1000 →
        s.hostServeWin a va = ({ s with pkg := s.pkg.hostPut off (BitVec.ofNat 64 a.data) } : State).hostDone a none none) ∧
      (a.write = true → aEp va ≠ 1036 → s.hostServeWin a va = s.hostFail a))) ∧
  (∀ (s : State) (a : HostAcc) (t : Tlb) (va : Word), t.pa va % 64 + a.len ≤ 64 →
    let pa := t.pa va
    let line := pa / 128
    let right := if t.cls = .lat ∧ a.write = true then rJoin else if a.write = true then rWrite else rRead
    (s.admitted s.hostMaster kHome (pa / 65536) right = false → s.hostServe a t va = s.hostDone a none (some 4)) ∧
    (s.admitted s.hostMaster kHome (pa / 65536) right = true →
      (t.cls = .own → s.hostServe a t va = s.hostDone a none (some 1)) ∧
      (t.cls = .host → a.write = false → line ∉ s.poisoned →
        s.hostServe a t va = s.hostDone a (some (readNat s.mem pa a.len)) none) ∧
      (t.cls = .host → a.write = false → line ∈ s.poisoned → s.hostServe a t va = s.hostDone a none none) ∧
      (t.cls = .lat → a.write = false → s.hostServe a t va =
        ({ s with hostAccs := (s.hostAccs.filter fun b => b.id ≠ a.id) ++ [{ a with press := true, code := none }] } : State).toPress
          ⟨line, lineVa va, t.typ, t.vint, ⟨s.dev, 1036, 0, 0⟩, 0, .read t.width a.id t.cork, 0⟩) ∧
      (t.cls = .lat → a.write = true → joinAccepts t.typ = true →
        wholeElems t.width (beMask (pa % 128) a.len a.be) = beMask (pa % 128) a.len a.be →
        s.hostServe a t va = (s.toPress ⟨line, lineVa va, t.typ, t.vint, ⟨s.dev, 1036, 0, 0⟩, 0,
          .join t.width (beMask (pa % 128) a.len a.be)
            (BitVec.ofNat 1024 (a.data % 2 ^ (8 * a.len) * 2 ^ (8 * (pa % 128)))) [] true, 0⟩).hostDone a none none) ∧
      (t.cls = .host → a.write = true → Memory.wf s.mem = true →
        let u := s.hostServe a t va
        u.reports = s.reports ∧
        (∀ i < a.len, byteAt u.mem (pa + i) =
          if a.be.testBit i = true then BitVec.ofNat 8 (a.data / 256 ^ i) else byteAt s.mem (pa + i)) ∧
        ∀ b, ¬(pa ≤ b ∧ b < pa + a.len) → byteAt u.mem b = byteAt s.mem b) ∧
      (t.cls = .lat → a.write = true →
        joinAccepts t.typ = false ∨ wholeElems t.width (beMask (pa % 128) a.len a.be) ≠ beMask (pa % 128) a.len a.be →
        s.hostServe a t va = s.hostDone a none (some 3)))) ∧
  (∀ (s : State) (a : HostAcc) (data : Option Nat) (reason : Option Word),
    let t := s.hostDone a data reason
    t.reports = s.reports ++ (match reason with | some r => [[4, r, BitVec.ofNat 64 a.w]] | none => []) ∧
    (∀ b, b ∈ t.hostAccs ↔ b ∈ s.hostAccs ∧ b.id ≠ a.id) ∧
    t.hostAns = (if a.write = true then s.hostAns else s.hostAns ++ [⟨a.w, data.isNone, a.len, data.getD 0, false⟩]) ∧ t.mem = s.mem) ∧
  (∀ (s : State) (op : PressOp) (w : BitVec 2) (all : Bool) (a : HostAcc), s.hostAccs.find? (fun b => b.id = a.id) = some a →
    let d := lineOf s.mem op.line
    let mask : BitVec 128 := if all = true then BitVec.allOnes 128 else readMask (s.line op.line) op.typ w d
    let off := (s.pkg.hvBase.toNat + a.w) % 128
    let missing := maskRun 128 off a.len &&& ~~~mask
    (op.line ∈ s.poisoned → s.hostBack op a.id w all = s.hostDone a none none) ∧
    (op.line ∉ s.poisoned → missing ≠ 0 → s.hostBack op a.id w all = s.hostDone a none (some 2)) ∧
    (op.line ∉ s.poisoned → missing = 0 →
      s.hostBack op a.id w all = s.hostDone a (some (lineVal ((s.line op.line).shown op.typ w d) off a.len)) none)) ∧
  (∀ (s : State) (k : Nat) (p : Snoop), s.snoops[k]? = some p → exec (.backInvalidateResponse k) s =
    .next { s with snoops := dropAt s.snoops k, snoop := s.snoop.filter fun h => h.1 ≠ p.sector })

/-- R530 to R533, R536, R548: a packet for another device, or from this one, is dropped and counted; one that is not the next of its
stream changes nothing; a packet that is sent takes the next number of its stream and is kept until it is acknowledged; a merged
join leaves its source gateway for the fabric, or its target gateway for its press, after 32 cycles; ports go up and down; DEV is written only while Aprum is disabled. -/
def Obligations.PacketDelivery : Prop :=
  (∀ (s : State) (p : Packet),
    ∀ i ∈ ([(.pktRd p, 0x01), (.pktJn p, 0x02), (.pktFd p, 0x03), (.pktWt p, 0x04), (.pktRl p, 0x05), (.pktCk p, 0x06), (.pktFl p, 0x07),
        (.pktWd p, 0x08), (.pktRdr p, 0x11), (.pktAns p, 0x12), (.pktTkt p, 0x13), (.pktNtc p, 0x14), (.pktRej p, 0x15),
        (.pktNack p, 0x16), (.pktRpt p, 0x17), (.pktAck p, 0x18), (.pktArv p, 0x21), (.pktRls p, 0x22), (.pktRck p, 0x23),
        (.pktPrb p, 0x24), (.pktIdl p, 0x25), (.pktDcl p, 0x26)] : List (Instr × Nat)),
      (p.what = i.2 → p.src = s.dev ∨ p.dst ≠ s.dev →
        exec i.1 s = .next { s with fab := { s.fab with drops := inc32 s.fab.drops } }) ∧
      (p.what = i.2 → p.src ≠ s.dev → p.dst = s.dev → p.seq ≠ mgetD s.fab.rx (p.src.toNat * 4 + (classOf i.2).num) 0 →
        exec i.1 s = .next s)) ∧
  (∀ (s : State) (p : Packet),
    let t := s.send p
    let key := p.dst.toNat * 4 + (classOf p.what).num
    t.fab.out = s.fab.out ++ [{ p with src := s.dev, seq := mgetD s.fab.tx key 0 }] ∧
    mgetD t.fab.tx key 0 = mgetD s.fab.tx key 0 + 1 ∧
    (keysRise s.fab.tx = true → ∀ k, k ≠ key → mgetD t.fab.tx k 0 = mgetD s.fab.tx k 0)) ∧
  (∀ (s : State) (k : Nat) (port : Fin 36) (v : Word),
    exec (.gatewayAcknowledgement k) s = .next { s with fab := { s.fab with out := dropAt s.fab.out k } } ∧
    (∀ at_ q, s.fab.merge[k]? = some (at_, q) →
      (at_ + 32 ≤ s.cycle → exec (.gatewayMergeSend k) s =
        .next (({ s with fab := { s.fab with merge := dropAt s.fab.merge k } } : State).send q)) ∧
      (s.cycle < at_ + 32 → exec (.gatewayMergeSend k) s = .next s)) ∧
    (∀ e, s.fab.merge[k]? = none → s.fab.gate[k - s.fab.merge.length]? = some e →
      (e.1 + 32 ≤ s.cycle → exec (.gatewayMergeSend k) s = .next (s.gateFlush e.2.2.line)) ∧
      (s.cycle < e.1 + 32 → exec (.gatewayMergeSend k) s = .next s)) ∧
    (∃ t, exec (.portTrained port) s = .next t ∧ ∀ q, q ∈ t.fab.up ↔ q ∈ s.fab.up ∨ q = port) ∧
    (∃ t, exec (.portDown port) s = .next t ∧ t.fab.out = s.fab.out ∧ ∀ q, q ∈ t.fab.up ↔ q ∈ s.fab.up ∧ q ≠ port) ∧
    exec (.devWrite v) s = .next { s with fab := { s.fab with
      dev := if s.fab.aen = true then s.fab.dev else v.extractLsb' 0 10, aen := v.getLsbD 63 } } ∧
    exec (.regionTableWrite true v) s = .next { s with fab := { s.fab with rtn := min (v.extractLsb' 0 17).toNat 65536 } } ∧
    exec (.regionTableWrite false v) s = .next { s with fab := { s.fab with rtbase := v.extractLsb' 6 42 } })

/-- R537, R538, R540, R541, R543: the target's checks of a request, in their order: the MAC, the expiry, the right for the packet,
and the region, which must hold every byte of the access; the first failure is a violation of its reason, counted and answered with
a NACK, and nothing is performed; a request that the access table denies is one of reason 6. The element width in the region check is
log 76, the reading of the region table at each check log 89, and AES-128-CMAC log 108. -/
def Obligations.GatewayChecks : Prop :=
  (∀ (s : State) (p : Packet) (r : Nat),
    ∀ i ∈ ([(.pktRd p, 0x01), (.pktJn p, 0x02), (.pktFd p, 0x03), (.pktWt p, 0x04), (.pktRl p, 0x05), (.pktCk p, 0x06), (.pktFl p, 0x07),
        (.pktWd p, 0x08)] : List (Instr × Nat)),
      NextPacket s p i.2 → s.tokenReason p = some r →
      exec i.1 s = .next ((received s p i.2).nack p r)) ∧
  (∀ (s : State) (p : Packet) (r : Nat),
    let t := s.nack p r
    t.fab.viol = inc32 s.fab.viol ∧ t.mem = s.mem ∧ t.cores = s.cores ∧ t.pressQ = s.pressQ ∧
    (p.what ≠ 2 → ∃ q, t.fab.out = s.fab.out ++ [q] ∧ q.what = 0x16 ∧ q.dst = p.src ∧ q.ep = p.ep ∧ q.ctx = p.ctx ∧ q.tag = p.tag ∧
      q.addr = p.addr ∧ q.code = r)) ∧
  (∀ (s : State) (p : Packet),
    let mac := p.token.extractLsb' 40 24 = tokenMac s.fab.fkey p.token p.src s.dev
    let e := BitVec.ofNat 20 s.epoch
    let live := ((p.token.extractLsb' 0 20 : BitVec 20) - e).toNat < 2 ^ 19
    let right := p.token.getLsbD (match p.what with | 0x01 => 38 | 0x04 => 37 | 0x08 => 37 | 0x06 => 36 | _ => 39) = true
    let i := (p.token.extractLsb' 20 16 : BitVec 16).toNat
    let at_ := s.fab.rtbase.toNat * 64 + 16 * i
    let w0 := readNat s.mem at_ 8
    let w1 := readNat s.mem (at_ + 8) 8
    let start := w0 % 2 ^ 53
    let region := i < s.fab.rtn ∧ w1.testBit 63 = true ∧ (w0.testBit 53 = p.addr.getLsbD 53) ∧
      ∀ r ∈ s.extent p, start ≤ r.1 ∧ r.1 + r.2 ≤ start + w1 % 2 ^ 48
    (¬mac → s.tokenReason p = some 2) ∧ (mac → ¬live → s.tokenReason p = some 3) ∧
    (mac → live → ¬right → s.tokenReason p = some 4) ∧ (mac → live → right → ¬region → s.tokenReason p = some 5) ∧
    (mac → live → right → region → s.tokenReason p = none)) ∧
  (∀ (s : State) (p : Packet) (t : Tlb),
    ∀ i ∈ ([(.pktRd p, 0x01, rRead), (.pktJn p, 0x02, rJoin), (.pktFd p, 0x03, rJoin), (.pktWt p, 0x04, rWait), (.pktRl p, 0x05, rJoin),
        (.pktCk p, 0x06, rCork), (.pktWd p, 0x08, rWait)] : List (Instr × Nat × Nat)),
      NextPacket s p i.2.1 → (received s p i.2.1).tokenReason p = none → aWin p.addr = false → s.lookupL2 none p.addr = .hit t →
      t.cls = .lat → s.admitted ⟨p.src, p.ep, false⟩ kHome (t.pa p.addr / 65536) i.2.2 = false →
      exec i.1 s = .next ((received s p i.2.1).nack p 6)) ∧
  (∀ (dev : BitVec 10) (e : Word × Word) (m : Master) (kind target right : Nat), kind < 6 → right < 6 →
    (admits dev e m kind target right = true ↔
      e.1.getLsbD 63 = true ∧ e.1.getLsbD (32 + kind) = true ∧ e.1.getLsbD (16 + right) = true ∧
      (kind = kHost ∨ ((e.2.extractLsb' 0 32).toNat ≤ target ∧ target < (e.2.extractLsb' 32 32).toNat)) ∧
      e.1.getLsbD 60 = m.host ∧
      (m.host = true ∨
        (match (e.1.extractLsb' 61 2 : BitVec 2).toNat with
         | 0 => m.dev = e.1.extractLsb' 50 10 ∧ m.ep = (e.1.extractLsb' 39 11).toNat
         | 1 => m.dev = e.1.extractLsb' 50 10
         | 2 => m.dev = dev
         | _ => True))))

/-- R102, R528, R546 to R551: a request that passes the checks and whose page is translated reaches the press of its line: a read,
each join that a packet carries (those that may be merged through the target gateway), a fold, a wait, a REL with its signature, a cork or rack of every line; of a large page the range is
to cover all of it; a withdrawal removes what it names; a page that misses gives a ticket; a page that does not accept the request,
or a misaligned one, gives a rejection; synchronised words of a window are read where they are full, or filled and acknowledged. How a packet says that its range covers a
large page is log 75, and that a packet which has to wait stays the next of its stream log 79. -/
def Obligations.RemoteRequests : Prop :=
  (∀ (s : State) (p : Packet) (t : Tlb), aWin p.addr = false →
    let line := t.pa p.addr / 128
    let w := wBytes t.width
    let aligned := p.addr.toNat % w = 0
    let fold := t.typ = 12 ∨ t.typ = 13
    let u (code : Nat) : State := received s p code
    let op (va : Word) (k : PressKind) : PressOp := ⟨line, lineVa va, t.typ, t.vint, ⟨p.src, p.ep, p.ctx, 0⟩, p.fdom, k, p.tag⟩
    let ok (code right : Nat) : Prop := NextPacket s p code ∧ s.tokenReason p = none ∧ s.lookupL2 none p.addr = .hit t ∧
      s.admitted ⟨p.src, p.ep, false⟩ kHome (t.pa p.addr / 65536) right = true ∧ t.cls = .lat
    (ok 0x01 rRead →
      (p.kind = 1 → ¬aligned → exec (.pktRd p) s = .next ((u 1).reject p 4 p.addr)) ∧
      (p.kind = 5 → exec (.pktRd p) s = .next ((u 1).reject p 17 p.addr)) ∧
      (p.kind ∈ [0, 1, 2, 3] → (p.kind = 1 → aligned) →
        exec (.pktRd p) s = .next ((u 1).toPress (op p.addr (.read t.width p.tag t.cork))))) ∧
    (ok 0x02 rJoin →
      (∀ js, joinBytes p t = .ok js →
        let live := js.filter fun j => j.1 ≠ 0
        let join (j : BitVec 128 × BitVec 1024) : PressOp := op p.addr (.join t.width j.1 j.2 p.parties false)
        (∀ j, live = [j] → exec (.pktJn p) s =
          .next (if p.kind < 7 ∨ p.kind = 9 then (u 2).toGate (join j) else (u 2).toPress (join j))) ∧
        (1 < live.length → exec (.pktJn p) s = .next (live.foldl (fun (s : State) j => s.toPress (join j)) (u 2))) ∧
        (live = [] → exec (.pktJn p) s = .next ((u 2).ackAll (join (0, 0)) p.parties))) ∧
      (∀ cause, joinBytes p t = .error cause → exec (.pktJn p) s = .next ((u 2).reject p cause p.addr)) ∧
      (p.kind = 1 → joinAccepts t.typ = true → aligned →
        joinBytes p t = .ok [lineForm [(p.addr, 0, w)] (maskRun 512 0 w) (p.value.zeroExtend 4096)]) ∧
      (p.kind = 4 → joinAccepts t.typ = true → t.width = 2 → ∃ js, joinBytes p t = .ok js ∧ js.length = (wordChunks p.words).length) ∧
      (p.kind = 1 → joinAccepts t.typ = true → ¬aligned → joinBytes p t = .error 6) ∧
      (p.kind ≤ 5 → joinAccepts t.typ = false → joinBytes p t = .error 17)) ∧
    (ok 0x03 rJoin →
      (t.typ = 12 → p.kind = 0 → p.addr.toNat % 4 = 0 → ∀ r, p.recs = [r] →
        exec (.pktFd p) s = .next ((u 3).toPress (op r.addr (.fold (r.addr.toNat % 128) r)))) ∧
      (fold → p.kind < 2 → p.addr.toNat % 4 ≠ 0 → (t.typ = 12 ↔ p.kind = 0) → exec (.pktFd p) s = .next ((u 3).reject p 6 p.addr)) ∧
      (¬fold → exec (.pktFd p) s = .next ((u 3).reject p 17 p.addr))) ∧
    (ok 0x04 rWait →
      let form := waitForm p.kind
      (waitAccepts form t.typ t.width = false → exec (.pktWt p) s = .next ((u 4).reject p 17 p.addr)) ∧
      (waitAccepts form t.typ t.width = true → ¬aligned → exec (.pktWt p) s = .next ((u 4).reject p 4 p.addr)) ∧
      (waitAccepts form t.typ t.width = true → aligned → (form = .any → compatPair t.typ t.width p.words = none) →
        exec (.pktWt p) s = .next ((u 4).toPress (op p.addr
          (.wait (p.addr.toNat % 128) t.width form p.words p.value p.tag))))) ∧
    (ok 0x05 rJoin →
      (t.typ = 1 → t.width = 2 ∨ t.width = 3 → aligned →
        exec (.pktRl p) s = .next ((u 5).toPress (op p.addr (.rel (p.addr.toNat % 128) t.width p.value p.sig)))) ∧
      (t.typ ≠ 1 → exec (.pktRl p) s = .next ((u 5).reject p 17 p.addr))) ∧
    (ok 0x06 rCork →
      (p.kind < 2 → ¬fold → t.lg = false ∨ (coversLarge p).1 = true → exec (.pktCk p) s =
        .next (eachLine (fun (s : State) l va => s.toPress { op va .cork with line := l }) (u 6) line p.addr (p.len / 128))) ∧
      (p.kind = 2 → fold → t.lg = false ∨ (coversLarge p).1 = true → exec (.pktCk p) s =
        .next (eachLine (fun (s : State) l va => s.toPress { op va .rack with line := l }) (u 6) line p.addr (p.len / 128))) ∧
      (p.kind = 2 → ¬fold → exec (.pktCk p) s = .next ((u 6).reject p 17 p.addr)) ∧
      (p.kind < 2 → fold → exec (.pktCk p) s = .next ((u 6).reject p 17 p.addr)) ∧
      ((p.kind < 2 ∧ ¬fold) ∨ (p.kind = 2 ∧ fold) ∨ p.kind = 4 → t.lg = true → (coversLarge p).1 = false →
        exec (.pktCk p) s = .next ((u 6).reject p 6 (BitVec.ofNat 64 (p.addr.toNat / 33554432 * 33554432)))) ∧
      (p.kind = 4 → t.lg = false → (u 6).convert (aVpn p.addr % 72) (p.src, p.ep) (aVpn p.addr) 512 (p.aux.extractLsb' 0 16)
        (recycleWords t (t.pa p.addr / 128 * 128) p.value).1 (recycleWords t (t.pa p.addr / 128 * 128) p.value).2
        (⟨p.src, p.ep, p.ctx, 0⟩, p.tag, p.value) = none → exec (.pktCk p) s = .next s)) ∧
    (NextPacket s p 0x08 → s.tokenReason p = none → s.lookupL2 none p.addr = .hit t →
      s.admitted ⟨p.src, p.ep, false⟩ kHome (t.pa p.addr / 65536) rWait = true →
      ∃ v, exec (.pktWd p) s = .next v ∧ v.mem = s.mem ∧
        (∀ r, r ∈ v.regs ↔ r ∈ s.regs ∧ ¬(r.who = ⟨p.src, p.ep, p.ctx, 0⟩ ∧ r.id = p.tag)) ∧
        (∀ o, o ∈ v.pressQ ↔ o ∈ s.pressQ ∧
          ¬(o.who = ⟨p.src, p.ep, p.ctx, 0⟩ ∧ ∃ off width form trig prior, o.kind = .wait off width form trig prior p.tag)))) ∧
  (∀ (s : State) (p : Packet) (k : BitVec 2), s.tokenReason p = none → aWin p.addr = false → s.lookupL2 none p.addr = .miss k →
    ∀ i ∈ ([(.pktRd p, 0x01, 0), (.pktFd p, 0x03, 1), (.pktWt p, 0x04, 0), (.pktRl p, 0x05, 1), (.pktCk p, 0x06, 3), (.pktFl p, 0x07, 1)] :
        List (Instr × Nat × BitVec 2)),
      NextPacket s p i.2.1 →
        let cl := aVpn p.addr % 72
        let u := received s p i.2.1
        let r := (u.cluster cl).request cl u.dev (p.src, p.ep) (aVpn p.addr) k (p.aux.extractLsb' 0 16) 0 i.2.2
        exec i.1 s = .next ((u.setCluster cl r.1).reply p 0x13 fun q => { q with code := r.2.toNat })) ∧
  (∀ (s : State) (p : Packet), NextPacket s p 0x01 → p.kind ∉ [1, 3, 6, 7] → s.tokenReason p = none → aWin p.addr = true →
    isCompute (aEp p.addr) = true → s.coreOn (aEp p.addr) = true →
    s.admitted ⟨p.src, p.ep, false⟩ kCore (aEp p.addr) rRead = true →
    let u := received s p 0x01
    let tgt := aEp p.addr
    let c := s.core tgt
    let cs := wordChunks p.words
    let empty := cs.findSome? fun k => c.emptyWord (aOff k.1) k.2.2 (chunkMask p.mask k)
    (∀ w, u.plainWord tgt cs p.mask = some w → exec (.pktRd p) s = .next (u.reject p 24 (winAddr s.dev tgt w))) ∧
    (u.plainWord tgt cs p.mask = none →
      (∀ w, empty = some w → exec (.pktRd p) s = .next (u.reject p 16 (winAddr s.dev tgt w))) ∧
      (empty = none → c.padErr = [] → ∃ v, exec (.pktRd p) s = .next v ∧ v.cores = s.cores ∧
        ∃ q, v.fab.out = s.fab.out ++ [q] ∧ q.what = 0x11 ∧ q.dst = p.src ∧ q.ep = p.ep ∧ q.tag = p.tag ∧
          q.data = BitVec.ofNat 4096 (cs.foldl (fun (v : Nat) k => v ||| readNat c.pad (aOff k.1) k.2.2 * 2 ^ (8 * k.2.1)) 0)))) ∧
  (∀ (s : State) (p : Packet), NextPacket s p 0x07 → s.tokenReason p = none → aWin p.addr = true → isCompute (aEp p.addr) = true →
    s.coreOn (aEp p.addr) = true → s.admitted ⟨p.src, p.ep, false⟩ kCore (aEp p.addr) rWrite = true →
    let u := received s p 0x07
    let tgt := aEp p.addr
    (∀ w, u.plainWord tgt (wordChunks p.words) p.mask = some w →
      exec (.pktFl p) s = .next (u.reject p 24 (winAddr s.dev tgt w))) ∧
    (p.kind ≠ 6 → u.plainWord tgt (wordChunks p.words) p.mask = none →
      let ws := (wordChunks p.words).map fun k =>
        (aOff k.1, k.2.2, p.data.toNat / 2 ^ (8 * k.2.1) % 2 ^ (8 * k.2.2), chunkMask p.mask k)
      (∀ v, u.winPuts tgt false false ws = .ok v → exec (.pktFl p) s = .next (v.reply p 0x18 id)) ∧
      (∀ w, u.winPuts tgt false false ws = .full w → exec (.pktFl p) s = .next (u.reject p 25 (winAddr s.dev tgt w)))))

/-- R532, R543, R545 to R547, R549 to R551: a reply reaches the access that it names, and is dropped and counted where none is
outstanding: read data are kept for the instruction's end where every byte is readable, and a trap of cause 16 where one is not; an
answer goes to its context, a ticket is recorded in the entry, a rejection is a deferred trap, a NACK of an access or of a withdrawal
freezes the endpoint; the entry of a pre-empted team is that of its image (R553); an ACK
ends the portion, signs the written line of a FILL or FILLT page (R13; log 114), and completes a RECYCLE; a notice goes to each unit
that it names, and a report to its context. -/
def Obligations.RemoteReplies : Prop :=
  (∀ (s : State) (p : Packet),
    let dropped (s : State) : State := { s with fab := { s.fab with drops := inc32 s.fab.drops } }
    let at_ (code : Nat) : Packet := (received s p code).imageOf p
    (∀ i ∈ ([(.pktTkt p, 0x13), (.pktRej p, 0x15), (.pktAck p, 0x18), (.pktRdr p, 0x11), (.pktAns p, 0x12)] : List (Instr × Nat)),
      NextPacket s p i.2 → (received s p i.2).named (at_ i.2) = none → exec i.1 s = .next (dropped (received s p i.2))) ∧
    (NextPacket s p 0x16 → (received s p 0x16).named (at_ 0x16) = none →
      let u := received s p 0x16
      let wd := (p.ep, p.ctx, p.tag)
      (wd ∉ s.fab.wds → exec (.pktNack p) s = .next (dropped u)) ∧
      (wd ∈ s.fab.wds → exec (.pktNack p) s =
        .next (({ u with fab := { u.fab with wds := u.fab.wds.filter fun w => w ≠ wd } } : State).freeze p.ep p.ctx p.addr p.code []))) ∧
    (∀ (a : Acc) (code : Nat), a.stage = .remote → NextPacket s p code → (received s p code).named (at_ code) = some a →
      let r := received s p code
      let q := at_ code
      (code = 0x11 → exec (.pktRdr p) s = .next (r.readBack q.ep a { q with kind := 1 } (aWin p.addr))) ∧
      (code = 0x12 →
        (∀ trig prior, a.op = .wait .acq trig prior → exec (.pktAns p) s = .next ((r.dropAcc q.ep a.age).post
          (.acqAns q.ep a.ctx a.wid p.value (if p.sat = true then BitVec.allOnes 1024 else p.sig)))) ∧
        (∀ form trig prior, a.op = .wait form trig prior → form ≠ .acq → exec (.pktAns p) s =
          .next ((r.dropAcc q.ep a.age).post (.waitAns q.ep a.ctx a.wid p.value p.fdom)))) ∧
      (code = 0x13 → p.sat = false → exec (.pktTkt p) s = .next (r.modCore q.ep fun c => { c with accs := c.accs.map fun x =>
        if x.age = a.age then { x with stage := .ticket p.src (BitVec.ofNat 16 p.code) } else x })) ∧
      (code = 0x15 → exec (.pktRej p) s =
        .next (r.failLate q.ep a (BitVec.ofNat 6 p.code) (if p.kind = 0 then a.va else p.value))) ∧
      (code = 0x16 →
        let va := if p.kind = 0 then a.va else p.addr
        (q.ep = p.ep → exec (.pktNack p) s = .next (r.denyAcc p.ep a va p.code)) ∧
        (q.ep ≠ p.ep → exec (.pktNack p) s =
          .next ((r.setStage q.ep a.age a.frozenStage).freeze p.ep a.ctx va p.code []))) ∧
      (code = 0x18 →
        let u := r.signRemote q.ep a p.typ
        (∀ d, a.op = .copy d → exec (.pktAck p) s = .next (u.setStage q.ep a.age (.back 0))) ∧
        (∀ what target base total, a.op = .range what target base total → exec (.pktAck p) s =
          .next ((((if what = 4 then u.endConvert q.ep a 4 else u).dropAcc q.ep a.age).endReplay q.ep a.ctx a.age).settle q.ep a.grp)) ∧
        ((∀ d, a.op ≠ .copy d) → (∀ what target base total, a.op ≠ .range what target base total) →
          exec (.pktAck p) s = .next ((u.dropAcc q.ep a.age).settle q.ep a.grp)))) ∧
    (NextPacket s p 0x17 → exec (.pktRpt p) s = .next ((received s p 0x17).post (.report p.ep p.ctx p.words))) ∧
    (NextPacket s p 0x14 → ∃ t, exec (.pktNtc p) s = .next t ∧
      t.net = s.net ++ (if p.ep = 2047 then s.holders else [p.ep]).map fun e =>
        .notice e p.src p.sat (BitVec.ofNat 16 p.code) (p.value.extractLsb' 0 2) p.kind)) ∧
  (∀ (s : State) (ep : Nat) (a : Acc) (p : Packet), (∀ d, a.op ≠ .copy d) → a.op ≠ .inner → a.op ≠ .xld →
    let b : Acc := { a with mask := effMask (wBytes p.width) a.chunks a.mask }
    let missing := (lineForm a.chunks b.mask 0).1 &&& ~~~(p.mask.extractLsb' 0 128)
    (missing ≠ 0 → s.readBack ep a p false = s.failLate ep b 16 a.va) ∧
    (missing = 0 → s.readBack ep a p false = (s.modCore ep fun c => { c with accs := c.accs.map fun x =>
      if x.age = a.age then { b with stage := .back (fromLine a.chunks (p.data.extractLsb' 0 1024)) } else x }).settle ep a.grp)) ∧
  (∀ (s : State) (ep : Nat) (a : Acc) (typ : BitVec 4),
    ((typ = 9 ∨ typ = 10) → a.op = .store ∨ a.op = .join → s.signRemote ep a typ = s.signLine ep a.ctx a.va) ∧
    (typ ≠ 9 → typ ≠ 10 → s.signRemote ep a typ = s)) ∧
  (∀ (s : State) (p : Packet) (a : Acc), s.named p = some a →
    a ∈ (s.core p.ep).accs ∧ a.ctx.val = p.ctx ∧ (a.stage = .remote ∨ a.stage = .orphan) ∧ a.age = p.tag)

/-- R24, R543, R545: a freeze posts its record to the host and stops the endpoint, whose later accesses the host's unfreeze replays;
a frozen core issues nothing. R390, R392, R408, R409, R413, R473, R552: the control packets of a level-4 barrier and of a quiescence
wave act on the domain they name, and on nothing where this device has none of it: an arrival counts in its own phase and may be taken
back until the release (log 68), a device whose member has withdrawn answers no request and holds a release back, an answer counts
under the number of its request, and a declaration is void where the host's wake is awaited. The fields that R552 does not name are
logs 68, 105 and 129. -/
def Obligations.FreezesAndFabricControl : Prop :=
  (∀ (s : State) (ep ctx reason : Nat) (addr : Word) (denied : List Word), isCompute ep = true →
    let t := s.freeze ep ctx addr reason denied
    t.reports = s.reports ++ [[3, BitVec.ofNat 64 (s.dev.toNat * 2 ^ 54 + ep * 2 ^ 42 + ctx), addr, BitVec.ofNat 64 reason,
      BitVec.ofNat 64 denied.length] ++ denied] ∧
    (t.core ep).frozen = true ∧ (∀ n, t.ctxAt ep n = s.ctxAt ep n) ∧ t.mem = s.mem) ∧
  (∀ (s : State) (ep : Nat) (n : Fin 11), (s.core ep).frozen = true → (s.core ep).gang.g = false → s.issue ep n = .next s) ∧
  (∀ (s : State) (p : Packet) (d : Domain),
    (∀ i ∈ ([(.pktArv p, 0x21), (.pktRls p, 0x22), (.pktRck p, 0x23), (.pktPrb p, 0x24), (.pktIdl p, 0x25), (.pktDcl p, 0x26)] :
        List (Instr × Nat)), NextPacket s p i.2 → s.domain 4 p.fdom = none → exec i.1 s = .next (received s p i.2)) ∧
    (s.domain 4 p.fdom = some d →
      (NextPacket s p 0x21 →
        let u := received s p 0x21
        let mine := d.coord = s.dev ∧ (p.kind = 1 ↔ d.phase = true)
        (mine → p.value ≠ 0 → (∀ a ∈ d.arrived, a.1 ≠ p.src) →
          exec (.pktArv p) s = .next (u.setDomain { d with
            arrived := d.arrived ++ [(p.src, p.value.toNat)], overs := if p.aux = 0 then d.overs else d.overs ++ [p.src] })) ∧
        (mine → p.value = 0 → exec (.pktArv p) s = .next (u.unarrive d p.src)) ∧
        (¬mine ∨ (p.value ≠ 0 ∧ ∃ a ∈ d.arrived, a.1 = p.src) → exec (.pktArv p) s = .next u)) ∧
      (NextPacket s p 0x22 →
        let u := received s p 0x22
        (p.kind ≠ 1 → u.arrived4 d = true → exec (.pktRls p) s = .next (u.release1 d)) ∧
        (p.kind ≠ 1 → u.arrived4 d = false → exec (.pktRls p) s = .next (u.setDomain { d with held4 := true })) ∧
        (p.kind = 1 → exec (.pktRls p) s = .next (u.endDomain4 d))) ∧
      (NextPacket s p 0x23 →
        let u := received s p 0x23
        let asked := p.aux = BitVec.ofNat 64 d.tries
        (p.kind = 0 → u.arrived4 d = true → exec (.pktRck p) s =
          .next (u.control p.src 0x23 1 d (BitVec.ofNat 64 d.count) p.aux)) ∧
        (p.kind = 0 → u.arrived4 d = false → exec (.pktRck p) s = .next u) ∧
        (p.kind = 1 → asked → d.step = 1 → (∀ c ∈ d.counts, c.1 ≠ p.src) →
          exec (.pktRck p) s = .next (u.setDomain { d with counts := d.counts ++ [(p.src, p.value.toNat)] })) ∧
        (p.kind = 2 → exec (.pktRck p) s = .next ((u.endPhase d true p.value.toNat).control p.src 0x23 4 d 0 p.aux)) ∧
        (p.kind = 3 → exec (.pktRck p) s = .next ((u.endPhase d false p.value.toNat).control p.src 0x23 4 d 0 p.aux)) ∧
        (p.kind = 4 → asked → d.step = 2 → p.src ∉ d.finished →
          exec (.pktRck p) s = .next (u.setDomain { d with finished := d.finished ++ [p.src] })) ∧
        (p.kind = 1 ∨ p.kind = 4 → ¬asked → exec (.pktRck p) s = .next u)) ∧
      (NextPacket s p 0x24 → ∃ t q, exec (.pktPrb p) s = .next t ∧ t.fab.out = s.fab.out ++ [q] ∧ q.what = 0x25 ∧ q.dst = p.src ∧
        q.fdom = d.dom ∧ q.kind = p.kind ∧ q.value = BitVec.ofNat 64 d.sent ∧ q.aux = BitVec.ofNat 64 d.recvd ∧
        q.sat = ((received s p 0x24).probeAnswer d).2.1 ∧ q.code = ((received s p 0x24).probeAnswer d).2.2.2.2) ∧
      (NextPacket s p 0x25 →
        let u := received s p 0x25
        (d.coord = s.dev → d.wave = p.kind → (∀ a ∈ d.answers, a.1 ≠ p.src) →
          exec (.pktIdl p) s = .next (u.setDomain { d with
            answers := d.answers ++ [(p.src, p.sat, p.value.toNat, p.aux.toNat, p.code)] })) ∧
        (d.coord ≠ s.dev ∨ d.wave ≠ p.kind → exec (.pktIdl p) s = .next u)) ∧
      (NextPacket s p 0x26 →
        (d.hwake = false → exec (.pktDcl p) s = .next ((received s p 0x26).declare d p.value.toNat (p.aux ≠ 0))) ∧
        (d.hwake = true → exec (.pktDcl p) s = .next (received s p 0x26)))))

/-! ## Reset, and what every step keeps -/

/-- R20, R31, R156, R157, R198, R262, R399, R410, R436, R487, R510, R541: the machine after reset: every context of every core is
retired with its registers zero and its CSRs at their reset values, every memory core is free, nothing is queued or on its way,
access-table entry 0 admits this device's endpoints and entry 1 its host, the clocks read zero, and memory is in its canonical form. That
a memory core's instruction memory holds nothing is the model's (log 5).
-/
def Obligations.ResetState : Prop :=
  let s := State.reset
  (∀ (ep : Nat) (n : Fin 11) (r : Reg) (m : BitVec 3),
    let x := s.ctxAt ep n
    x.life = .retired ∧ x.pc = 0 ∧ x.rx r = 0 ∧ x.rf r = 0 ∧ x.rv r = 0 ∧ x.rm m = 0 ∧ x.sig = 0 ∧ x.alive = false ∧
      x.streams = [] ∧ x.handles = [] ∧ x.leases = [] ∧ x.deferred = []) ∧
  (∀ (ep : Nat) (n : Fin 11), ep < 576 →
    let u : State := { s with cur := (ep, n) }
    (∀ p ∈ ([(0x001, 0), (0x002, 0), (0x003, 0), (0x7C0, BitVec.ofNat 64 (n.val * 65536)), (0x7C1, 0), (0x7C2, 0), (0x7C3, 0), (0x7C4, 0), (0x7C5, 0), (0x7C6, 0),
        (0x7C7, 0), (0x7D0, 0x01270050), (0x7D2, 0), (0x7E0, 0), (0x7E1, 0), (0x7E2, 0), (0x7E3, 0),
        (0xC00, 0), (0xC01, 0)] : List (Nat × Word)), u.csrValue p.1 = p.2) ∧
    u.csrValue 0x7D1 = winAddr 0 ep 0) ∧
  (∀ mc : Nat, (s.mc mc).st = .free ∧ (s.mc mc).call = none ∧ (s.mc mc).imem = []) ∧
  (∀ (d : Nat) (q : Fin 16), (s.dist d).queues[q] = [] ∧ (s.dist d).bases[q] = Vector.replicate 16 0) ∧
  (∀ (ep target kind right : Nat), kind < 6 → right < 6 → target < 2 ^ 32 - 1 →
    s.admitted (s.master ep) kind target right = true ∧ s.admitted s.hostMaster kind target right = true ∧
    ∀ dev : BitVec 10, dev ≠ s.dev → s.admitted ⟨dev, ep, false⟩ kind target right = false) ∧
  s.dev = 0 ∧ s.fab.aen = false ∧ s.fab.viol = 0 ∧ s.fab.drops = 0 ∧ s.fab.ports = [] ∧ s.fab.tokens = [] ∧
  s.pkg.pcap = 2800 ∧ s.pkg.ethr = 256 ∧ s.pkg.throt = 0 ∧ s.pkg.hsqLog = 0 ∧ s.pkg.deqLog = 0 ∧ s.pkg.htail = 0 ∧ s.pkg.dseq = 0 ∧
  s.net = [] ∧ s.pressQ = [] ∧ s.routers = [] ∧ s.reports = [] ∧ s.domains = [] ∧ s.launches = [] ∧ s.cycle = 0 ∧ s.time = 0 ∧
  Memory.wf s.mem = true ∧ Memory.wf s.hostMem = true

/-- R302, R461, R507, R512: every step keeps the canonical form of device memory and of host memory, so that equal contents are
equal states: whatever instruction or event is performed, addresses rise strictly and no listed byte is zero. -/
def Obligations.StepKeepsMemory : Prop :=
  ∀ s t : State, Memory.wf s.mem = true ∧ Memory.wf s.hostMem = true → Sys2Proof.Machine.step s = .next t →
    Memory.wf t.mem = true ∧ Memory.wf t.hostMem = true
end

