-- ==== Sys2Proof/Laws/Memory.lean ====
section
/-! SUPPORT.
Laws of the sparse tables and of byte memories: reading after writing, and that every operation keeps the canonical form. -/

namespace Sys2Proof.Machine

open Sys2Proof

/-! ## Tables -/

theorem keysRise_cons {α : Type} (k : Nat) (v : α) (m : SMap α) :
    keysRise ((k, v) :: m) = true ↔ (∀ e ∈ m, k < e.1) ∧ keysRise m = true := by
  induction m generalizing k v with
  | nil => simp [keysRise]
  | cons e rest ih =>
    obtain ⟨k', v'⟩ := e
    have h := ih k' v'
    simp only [keysRise, Bool.and_eq_true, decide_eq_true_eq, List.mem_cons, forall_eq_or_imp]
    constructor
    · rintro ⟨hk, hr⟩
      exact ⟨⟨hk, fun e he => Nat.lt_trans hk ((h.mp hr).1 e he)⟩, hr⟩
    · rintro ⟨⟨hk, -⟩, hr⟩
      exact ⟨hk, hr⟩

theorem mget_mput {α : Type} (m : SMap α) (k j : Nat) (v : α) :
    mget (mput m k v) j = if j = k then some v else mget m j := by
  induction m with
  | nil => simp only [mput, mget]; split <;> simp
  | cons e rest ih =>
    obtain ⟨k', w⟩ := e
    simp only [mput]
    split
    · subst_vars; simp only [mget]; split <;> simp_all
    · split
      · simp only [mget]; repeat' split
        all_goals first | rfl | omega
      · simp only [mget, ih]; repeat' split
        all_goals first | rfl | omega

@[simp] theorem mget_mput_self {α : Type} (m : SMap α) (k : Nat) (v : α) : mget (mput m k v) k = some v := by
  simp [mget_mput]

theorem mget_none_of_lt {α : Type} (m : SMap α) (k : Nat) (h : ∀ e ∈ m, k < e.1) : mget m k = none := by
  cases m with
  | nil => rfl
  | cons e rest =>
    obtain ⟨k', w⟩ := e
    have : k < k' := h (k', w) (by simp)
    simp only [mget]
    rw [if_neg (by omega), if_pos this]

theorem mget_mdel {α : Type} (m : SMap α) (k j : Nat) (hm : keysRise m = true) :
    mget (mdel m k) j = if j = k then none else mget m j := by
  induction m with
  | nil => simp [mdel, mget]
  | cons e rest ih =>
    obtain ⟨k', w⟩ := e
    have hr := (keysRise_cons k' w rest).mp hm
    simp only [mdel]
    split
    · rename_i hk
      subst hk
      by_cases hj : j = k
      · subst hj; simp [mget_none_of_lt rest j hr.1]
      · simp only [mget, hj, if_false]
        split
        · exact mget_none_of_lt rest j fun e he => Nat.lt_trans ‹_› (hr.1 e he)
        · rfl
    · simp only [mget, ih hr.2]
      repeat' split
      all_goals first | rfl | omega

theorem mem_mput {α : Type} {m : SMap α} {k : Nat} {v : α} {e : Nat × α} (h : e ∈ mput m k v) : e = (k, v) ∨ e ∈ m := by
  induction m with
  | nil => simpa [mput] using h
  | cons d rest ih =>
    obtain ⟨k', w⟩ := d
    simp only [mput] at h
    split at h
    · simp only [List.mem_cons] at h ⊢; grind
    · split at h
      · simpa only [List.mem_cons] using h
      · simp only [List.mem_cons] at h ⊢
        rcases h with h | h
        · grind
        · have := ih h; grind

theorem mem_mdel {α : Type} {m : SMap α} {k : Nat} {e : Nat × α} (h : e ∈ mdel m k) : e ∈ m := by
  induction m with
  | nil => simp [mdel] at h
  | cons d rest ih =>
    obtain ⟨k', w⟩ := d
    simp only [mdel] at h
    split at h
    · exact List.mem_cons_of_mem _ h
    · simp only [List.mem_cons] at h ⊢
      exact h.imp id ih

theorem keysRise_mput {α : Type} (m : SMap α) (k : Nat) (v : α) (hm : keysRise m = true) : keysRise (mput m k v) = true := by
  induction m with
  | nil => rfl
  | cons d rest ih =>
    obtain ⟨k', w⟩ := d
    have hr := (keysRise_cons k' w rest).mp hm
    simp only [mput]
    split
    · subst_vars; exact (keysRise_cons _ _ _).mpr hr
    · split
      · refine (keysRise_cons _ _ _).mpr ⟨?_, hm⟩
        intro e he
        rcases List.mem_cons.mp he with rfl | he
        · assumption
        · exact Nat.lt_trans ‹_› (hr.1 e he)
      · refine (keysRise_cons _ _ _).mpr ⟨?_, ih hr.2⟩
        intro e he
        rcases mem_mput he with rfl | he
        · simp only; omega
        · exact hr.1 e he

theorem keysRise_mdel {α : Type} (m : SMap α) (k : Nat) (hm : keysRise m = true) : keysRise (mdel m k) = true := by
  induction m with
  | nil => rfl
  | cons d rest ih =>
    obtain ⟨k', w⟩ := d
    have hr := (keysRise_cons k' w rest).mp hm
    simp only [mdel]
    split
    · exact hr.2
    · exact (keysRise_cons _ _ _).mpr ⟨fun e he => hr.1 e (mem_mdel he), ih hr.2⟩

theorem keysRise_filter {α : Type} (m : SMap α) (p : Nat × α → Bool) (hm : keysRise m = true) :
    keysRise (m.filter p) = true := by
  induction m with
  | nil => rfl
  | cons d rest ih =>
    obtain ⟨k', w⟩ := d
    have hr := (keysRise_cons k' w rest).mp hm
    simp only [List.filter_cons]
    split
    · exact (keysRise_cons _ _ _).mpr ⟨fun e he => hr.1 e ((List.mem_filter.mp he).1), ih hr.2⟩
    · exact ih hr.2

theorem mem_mmerge {α : Type} {n : Nat} {a b : SMap α} {e : Nat × α} (h : e ∈ mmerge n a b) : e ∈ a ∨ e ∈ b := by
  induction n generalizing a b with
  | zero => simp [mmerge] at h
  | succ n ih =>
    match a, b with
    | [], b => exact .inr (by simpa [mmerge] using h)
    | d :: a, [] => exact .inl (by simpa [mmerge] using h)
    | (k, v) :: a, (j, w) :: b =>
      simp only [mmerge] at h
      split at h
      · rcases List.mem_cons.mp h with h | h
        · simp [h]
        · rcases ih h with h | h <;> simp_all
      · split at h
        · rcases List.mem_cons.mp h with h | h
          · simp [h]
          · rcases ih h with h | h <;> simp_all
        · rcases List.mem_cons.mp h with h | h
          · simp [h]
          · rcases ih h with h | h <;> simp_all

theorem keysRise_mmerge {α : Type} (n : Nat) (a b : SMap α) (ha : keysRise a = true) (hb : keysRise b = true) :
    keysRise (mmerge n a b) = true := by
  induction n generalizing a b with
  | zero => simp [mmerge, keysRise]
  | succ n ih =>
    match a, b with
    | [], b => simpa [mmerge] using hb
    | d :: a, [] => simpa [mmerge] using ha
    | (k, v) :: a, (j, w) :: b =>
      have hra := (keysRise_cons k v a).mp ha
      have hrb := (keysRise_cons j w b).mp hb
      simp only [mmerge]
      split
      · refine (keysRise_cons _ _ _).mpr ⟨?_, ih _ _ hra.2 hb⟩
        intro e he
        rcases mem_mmerge he with he | he
        · exact hra.1 e he
        · rcases List.mem_cons.mp he with rfl | he
          · assumption
          · exact Nat.lt_trans ‹_› (hrb.1 e he)
      · split
        · refine (keysRise_cons _ _ _).mpr ⟨?_, ih _ _ ha hrb.2⟩
          intro e he
          rcases mem_mmerge he with he | he
          · rcases List.mem_cons.mp he with rfl | he
            · assumption
            · exact Nat.lt_trans ‹_› (hra.1 e he)
          · exact hrb.1 e he
        · refine (keysRise_cons _ _ _).mpr ⟨?_, ih _ _ hra.2 hrb.2⟩
          intro e he
          rcases mem_mmerge he with he | he
          · exact hra.1 e he
          · have := hrb.1 e he; omega

/-! ## Byte memories keep their canonical form -/

theorem Memory.wf_iff (m : List Host.Cell) : Memory.wf m = true ↔ keysRise m = true ∧ ∀ c ∈ m, c.2 ≠ 0 := by
  simp [Memory.wf, List.all_eq_true]

theorem wf_putByte (m : List Host.Cell) (a : Nat) (b : BitVec 8) (h : Memory.wf m = true) : Memory.wf (putByte m a b) = true := by
  rw [Memory.wf_iff] at h ⊢
  unfold putByte
  split
  · exact ⟨keysRise_mdel m a h.1, fun c hc => h.2 c (mem_mdel hc)⟩
  · refine ⟨keysRise_mput m a b h.1, fun c hc => ?_⟩
    rcases mem_mput hc with rfl | hc
    · assumption
    · exact h.2 c hc

theorem wf_writeNat (m : List Host.Cell) (a n v : Nat) (h : Memory.wf m = true) : Memory.wf (writeNat m a n v) = true := by
  induction n generalizing m a v with
  | zero => exact h
  | succ n ih => exact ih _ _ _ (wf_putByte m a _ h)

theorem wf_writeMasked (m : List Host.Cell) (a n v k : Nat) (h : Memory.wf m = true) :
    Memory.wf (writeMasked m a n v k) = true := by
  induction n generalizing m a v k with
  | zero => exact h
  | succ n ih =>
    simp only [writeMasked]
    apply ih
    split
    · exact wf_putByte m a _ h
    · exact h

theorem wf_putLine (m : List Host.Cell) (line : Nat) (data : BitVec 1024) (mask : BitVec 128) (h : Memory.wf m = true) :
    Memory.wf (putLine m line data mask) = true := wf_writeMasked _ _ _ _ _ h

theorem wf_filter (m : List Host.Cell) (p : Host.Cell → Bool) (h : Memory.wf m = true) : Memory.wf (m.filter p) = true := by
  rw [Memory.wf_iff] at h ⊢
  exact ⟨keysRise_filter m p h.1, fun c hc => h.2 c ((List.mem_filter.mp hc).1)⟩

theorem wf_zeroBytes (m : List Host.Cell) (a n : Nat) (h : Memory.wf m = true) : Memory.wf (zeroBytes m a n) = true :=
  wf_filter _ _ h

theorem wf_keepBytes (m : List Host.Cell) (n : Nat) (h : Memory.wf m = true) : Memory.wf (keepBytes m n) = true :=
  wf_filter _ _ h

theorem wf_writeRange (m : List Host.Cell) (a n v : Nat) (h : Memory.wf m = true) : Memory.wf (writeRange m a n v) = true := by
  have h1 := (Memory.wf_iff _).mp (wf_writeNat [] a n v rfl)
  have h2 := (Memory.wf_iff _).mp (wf_zeroBytes m a n h)
  rw [Memory.wf_iff]
  refine ⟨keysRise_mmerge _ _ _ h1.1 h2.1, fun c hc => ?_⟩
  rcases mem_mmerge hc with hc | hc
  · exact h1.2 c hc
  · exact h2.2 c hc

theorem wf_reset_mem : Memory.wf State.reset.mem = true := rfl

theorem wf_reset_hostMem : Memory.wf State.reset.hostMem = true := rfl

/-! ## Reading a byte after a write -/

theorem byteAt_putByte (m : List Host.Cell) (a j : Nat) (b : BitVec 8) (h : keysRise m = true) :
    byteAt (putByte m a b) j = if j = a then b else byteAt m j := by
  unfold byteAt mgetD putByte
  split
  · rw [mget_mdel m a j h]
    split <;> simp_all
  · rw [mget_mput]
    split <;> simp

end Sys2Proof.Machine
end

