-- ==== Sys2Proof/Laws/State.lean ====
section
/-! SUPPORT.
One lemma per field and update of State: what an update changes, and what it leaves. -/

namespace Sys2Proof.Machine

open Sys2Proof

/-! ### setCore -/

@[simp] theorem State.setCore_mcs (s : State) (ep : Nat) (c : Core) : (s.setCore ep c).mcs = s.mcs := rfl
@[simp] theorem State.setCore_clusters (s : State) (ep : Nat) (c : Core) : (s.setCore ep c).clusters = s.clusters := rfl
@[simp] theorem State.setCore_dists (s : State) (ep : Nat) (c : Core) : (s.setCore ep c).dists = s.dists := rfl
@[simp] theorem State.setCore_mem (s : State) (ep : Nat) (c : Core) : (s.setCore ep c).mem = s.mem := rfl
@[simp] theorem State.setCore_hostMem (s : State) (ep : Nat) (c : Core) : (s.setCore ep c).hostMem = s.hostMem := rfl
@[simp] theorem State.setCore_lines (s : State) (ep : Nat) (c : Core) : (s.setCore ep c).lines = s.lines := rfl
@[simp] theorem State.setCore_poisoned (s : State) (ep : Nat) (c : Core) : (s.setCore ep c).poisoned = s.poisoned := rfl
@[simp] theorem State.setCore_rings (s : State) (ep : Nat) (c : Core) : (s.setCore ep c).rings = s.rings := rfl
@[simp] theorem State.setCore_regs (s : State) (ep : Nat) (c : Core) : (s.setCore ep c).regs = s.regs := rfl
@[simp] theorem State.setCore_lees (s : State) (ep : Nat) (c : Core) : (s.setCore ep c).lees = s.lees := rfl
@[simp] theorem State.setCore_pressQ (s : State) (ep : Nat) (c : Core) : (s.setCore ep c).pressQ = s.pressQ := rfl
@[simp] theorem State.setCore_stats (s : State) (ep : Nat) (c : Core) : (s.setCore ep c).stats = s.stats := rfl
@[simp] theorem State.setCore_routers (s : State) (ep : Nat) (c : Core) : (s.setCore ep c).routers = s.routers := rfl
@[simp] theorem State.setCore_net (s : State) (ep : Nat) (c : Core) : (s.setCore ep c).net = s.net := rfl
@[simp] theorem State.setCore_domains (s : State) (ep : Nat) (c : Core) : (s.setCore ep c).domains = s.domains := rfl
@[simp] theorem State.setCore_sc (s : State) (ep : Nat) (c : Core) : (s.setCore ep c).sc = s.sc := rfl
@[simp] theorem State.setCore_windows (s : State) (ep : Nat) (c : Core) : (s.setCore ep c).windows = s.windows := rfl
@[simp] theorem State.setCore_det (s : State) (ep : Nat) (c : Core) : (s.setCore ep c).det = s.det := rfl
@[simp] theorem State.setCore_launches (s : State) (ep : Nat) (c : Core) : (s.setCore ep c).launches = s.launches := rfl
@[simp] theorem State.setCore_images (s : State) (ep : Nat) (c : Core) : (s.setCore ep c).images = s.images := rfl
@[simp] theorem State.setCore_pkg (s : State) (ep : Nat) (c : Core) : (s.setCore ep c).pkg = s.pkg := rfl
@[simp] theorem State.setCore_fab (s : State) (ep : Nat) (c : Core) : (s.setCore ep c).fab = s.fab := rfl
@[simp] theorem State.setCore_hostAccs (s : State) (ep : Nat) (c : Core) : (s.setCore ep c).hostAccs = s.hostAccs := rfl
@[simp] theorem State.setCore_hostAns (s : State) (ep : Nat) (c : Core) : (s.setCore ep c).hostAns = s.hostAns := rfl
@[simp] theorem State.setCore_snoop (s : State) (ep : Nat) (c : Core) : (s.setCore ep c).snoop = s.snoop := rfl
@[simp] theorem State.setCore_snoops (s : State) (ep : Nat) (c : Core) : (s.setCore ep c).snoops = s.snoops := rfl
@[simp] theorem State.setCore_reports (s : State) (ep : Nat) (c : Core) : (s.setCore ep c).reports = s.reports := rfl
@[simp] theorem State.setCore_markers (s : State) (ep : Nat) (c : Core) : (s.setCore ep c).markers = s.markers := rfl
@[simp] theorem State.setCore_next (s : State) (ep : Nat) (c : Core) : (s.setCore ep c).next = s.next := rfl
@[simp] theorem State.setCore_cycle (s : State) (ep : Nat) (c : Core) : (s.setCore ep c).cycle = s.cycle := rfl
@[simp] theorem State.setCore_agenda (s : State) (ep : Nat) (c : Core) : (s.setCore ep c).agenda = s.agenda := rfl
@[simp] theorem State.setCore_cur (s : State) (ep : Nat) (c : Core) : (s.setCore ep c).cur = s.cur := rfl
@[simp] theorem State.setCore_out (s : State) (ep : Nat) (c : Core) : (s.setCore ep c).out = s.out := rfl
@[simp] theorem State.setCore_free (s : State) (ep : Nat) (c : Core) : (s.setCore ep c).free = s.free := rfl

/-! ### setMc -/

@[simp] theorem State.setMc_cores (s : State) (e : Nat) (m : MemCore) : (s.setMc e m).cores = s.cores := rfl
@[simp] theorem State.setMc_clusters (s : State) (e : Nat) (m : MemCore) : (s.setMc e m).clusters = s.clusters := rfl
@[simp] theorem State.setMc_dists (s : State) (e : Nat) (m : MemCore) : (s.setMc e m).dists = s.dists := rfl
@[simp] theorem State.setMc_mem (s : State) (e : Nat) (m : MemCore) : (s.setMc e m).mem = s.mem := rfl
@[simp] theorem State.setMc_hostMem (s : State) (e : Nat) (m : MemCore) : (s.setMc e m).hostMem = s.hostMem := rfl
@[simp] theorem State.setMc_lines (s : State) (e : Nat) (m : MemCore) : (s.setMc e m).lines = s.lines := rfl
@[simp] theorem State.setMc_poisoned (s : State) (e : Nat) (m : MemCore) : (s.setMc e m).poisoned = s.poisoned := rfl
@[simp] theorem State.setMc_rings (s : State) (e : Nat) (m : MemCore) : (s.setMc e m).rings = s.rings := rfl
@[simp] theorem State.setMc_regs (s : State) (e : Nat) (m : MemCore) : (s.setMc e m).regs = s.regs := rfl
@[simp] theorem State.setMc_lees (s : State) (e : Nat) (m : MemCore) : (s.setMc e m).lees = s.lees := rfl
@[simp] theorem State.setMc_pressQ (s : State) (e : Nat) (m : MemCore) : (s.setMc e m).pressQ = s.pressQ := rfl
@[simp] theorem State.setMc_stats (s : State) (e : Nat) (m : MemCore) : (s.setMc e m).stats = s.stats := rfl
@[simp] theorem State.setMc_routers (s : State) (e : Nat) (m : MemCore) : (s.setMc e m).routers = s.routers := rfl
@[simp] theorem State.setMc_net (s : State) (e : Nat) (m : MemCore) : (s.setMc e m).net = s.net := rfl
@[simp] theorem State.setMc_domains (s : State) (e : Nat) (m : MemCore) : (s.setMc e m).domains = s.domains := rfl
@[simp] theorem State.setMc_sc (s : State) (e : Nat) (m : MemCore) : (s.setMc e m).sc = s.sc := rfl
@[simp] theorem State.setMc_windows (s : State) (e : Nat) (m : MemCore) : (s.setMc e m).windows = s.windows := rfl
@[simp] theorem State.setMc_det (s : State) (e : Nat) (m : MemCore) : (s.setMc e m).det = s.det := rfl
@[simp] theorem State.setMc_launches (s : State) (e : Nat) (m : MemCore) : (s.setMc e m).launches = s.launches := rfl
@[simp] theorem State.setMc_images (s : State) (e : Nat) (m : MemCore) : (s.setMc e m).images = s.images := rfl
@[simp] theorem State.setMc_pkg (s : State) (e : Nat) (m : MemCore) : (s.setMc e m).pkg = s.pkg := rfl
@[simp] theorem State.setMc_fab (s : State) (e : Nat) (m : MemCore) : (s.setMc e m).fab = s.fab := rfl
@[simp] theorem State.setMc_hostAccs (s : State) (e : Nat) (m : MemCore) : (s.setMc e m).hostAccs = s.hostAccs := rfl
@[simp] theorem State.setMc_hostAns (s : State) (e : Nat) (m : MemCore) : (s.setMc e m).hostAns = s.hostAns := rfl
@[simp] theorem State.setMc_snoop (s : State) (e : Nat) (m : MemCore) : (s.setMc e m).snoop = s.snoop := rfl
@[simp] theorem State.setMc_snoops (s : State) (e : Nat) (m : MemCore) : (s.setMc e m).snoops = s.snoops := rfl
@[simp] theorem State.setMc_reports (s : State) (e : Nat) (m : MemCore) : (s.setMc e m).reports = s.reports := rfl
@[simp] theorem State.setMc_markers (s : State) (e : Nat) (m : MemCore) : (s.setMc e m).markers = s.markers := rfl
@[simp] theorem State.setMc_next (s : State) (e : Nat) (m : MemCore) : (s.setMc e m).next = s.next := rfl
@[simp] theorem State.setMc_cycle (s : State) (e : Nat) (m : MemCore) : (s.setMc e m).cycle = s.cycle := rfl
@[simp] theorem State.setMc_agenda (s : State) (e : Nat) (m : MemCore) : (s.setMc e m).agenda = s.agenda := rfl
@[simp] theorem State.setMc_cur (s : State) (e : Nat) (m : MemCore) : (s.setMc e m).cur = s.cur := rfl
@[simp] theorem State.setMc_out (s : State) (e : Nat) (m : MemCore) : (s.setMc e m).out = s.out := rfl
@[simp] theorem State.setMc_free (s : State) (e : Nat) (m : MemCore) : (s.setMc e m).free = s.free := rfl

/-! ### setCluster -/

@[simp] theorem State.setCluster_cores (s : State) (c : Nat) (x : Cluster) : (s.setCluster c x).cores = s.cores := rfl
@[simp] theorem State.setCluster_mcs (s : State) (c : Nat) (x : Cluster) : (s.setCluster c x).mcs = s.mcs := rfl
@[simp] theorem State.setCluster_dists (s : State) (c : Nat) (x : Cluster) : (s.setCluster c x).dists = s.dists := rfl
@[simp] theorem State.setCluster_mem (s : State) (c : Nat) (x : Cluster) : (s.setCluster c x).mem = s.mem := rfl
@[simp] theorem State.setCluster_hostMem (s : State) (c : Nat) (x : Cluster) : (s.setCluster c x).hostMem = s.hostMem := rfl
@[simp] theorem State.setCluster_lines (s : State) (c : Nat) (x : Cluster) : (s.setCluster c x).lines = s.lines := rfl
@[simp] theorem State.setCluster_poisoned (s : State) (c : Nat) (x : Cluster) : (s.setCluster c x).poisoned = s.poisoned := rfl
@[simp] theorem State.setCluster_rings (s : State) (c : Nat) (x : Cluster) : (s.setCluster c x).rings = s.rings := rfl
@[simp] theorem State.setCluster_regs (s : State) (c : Nat) (x : Cluster) : (s.setCluster c x).regs = s.regs := rfl
@[simp] theorem State.setCluster_lees (s : State) (c : Nat) (x : Cluster) : (s.setCluster c x).lees = s.lees := rfl
@[simp] theorem State.setCluster_pressQ (s : State) (c : Nat) (x : Cluster) : (s.setCluster c x).pressQ = s.pressQ := rfl
@[simp] theorem State.setCluster_stats (s : State) (c : Nat) (x : Cluster) : (s.setCluster c x).stats = s.stats := rfl
@[simp] theorem State.setCluster_routers (s : State) (c : Nat) (x : Cluster) : (s.setCluster c x).routers = s.routers := rfl
@[simp] theorem State.setCluster_net (s : State) (c : Nat) (x : Cluster) : (s.setCluster c x).net = s.net := rfl
@[simp] theorem State.setCluster_domains (s : State) (c : Nat) (x : Cluster) : (s.setCluster c x).domains = s.domains := rfl
@[simp] theorem State.setCluster_sc (s : State) (c : Nat) (x : Cluster) : (s.setCluster c x).sc = s.sc := rfl
@[simp] theorem State.setCluster_windows (s : State) (c : Nat) (x : Cluster) : (s.setCluster c x).windows = s.windows := rfl
@[simp] theorem State.setCluster_det (s : State) (c : Nat) (x : Cluster) : (s.setCluster c x).det = s.det := rfl
@[simp] theorem State.setCluster_launches (s : State) (c : Nat) (x : Cluster) : (s.setCluster c x).launches = s.launches := rfl
@[simp] theorem State.setCluster_images (s : State) (c : Nat) (x : Cluster) : (s.setCluster c x).images = s.images := rfl
@[simp] theorem State.setCluster_pkg (s : State) (c : Nat) (x : Cluster) : (s.setCluster c x).pkg = s.pkg := rfl
@[simp] theorem State.setCluster_fab (s : State) (c : Nat) (x : Cluster) : (s.setCluster c x).fab = s.fab := rfl
@[simp] theorem State.setCluster_hostAccs (s : State) (c : Nat) (x : Cluster) : (s.setCluster c x).hostAccs = s.hostAccs := rfl
@[simp] theorem State.setCluster_hostAns (s : State) (c : Nat) (x : Cluster) : (s.setCluster c x).hostAns = s.hostAns := rfl
@[simp] theorem State.setCluster_snoop (s : State) (c : Nat) (x : Cluster) : (s.setCluster c x).snoop = s.snoop := rfl
@[simp] theorem State.setCluster_snoops (s : State) (c : Nat) (x : Cluster) : (s.setCluster c x).snoops = s.snoops := rfl
@[simp] theorem State.setCluster_reports (s : State) (c : Nat) (x : Cluster) : (s.setCluster c x).reports = s.reports := rfl
@[simp] theorem State.setCluster_markers (s : State) (c : Nat) (x : Cluster) : (s.setCluster c x).markers = s.markers := rfl
@[simp] theorem State.setCluster_next (s : State) (c : Nat) (x : Cluster) : (s.setCluster c x).next = s.next := rfl
@[simp] theorem State.setCluster_cycle (s : State) (c : Nat) (x : Cluster) : (s.setCluster c x).cycle = s.cycle := rfl
@[simp] theorem State.setCluster_agenda (s : State) (c : Nat) (x : Cluster) : (s.setCluster c x).agenda = s.agenda := rfl
@[simp] theorem State.setCluster_cur (s : State) (c : Nat) (x : Cluster) : (s.setCluster c x).cur = s.cur := rfl
@[simp] theorem State.setCluster_out (s : State) (c : Nat) (x : Cluster) : (s.setCluster c x).out = s.out := rfl
@[simp] theorem State.setCluster_free (s : State) (c : Nat) (x : Cluster) : (s.setCluster c x).free = s.free := rfl

/-! ### setDist -/

@[simp] theorem State.setDist_cores (s : State) (d : Nat) (x : Dist) : (s.setDist d x).cores = s.cores := rfl
@[simp] theorem State.setDist_mcs (s : State) (d : Nat) (x : Dist) : (s.setDist d x).mcs = s.mcs := rfl
@[simp] theorem State.setDist_clusters (s : State) (d : Nat) (x : Dist) : (s.setDist d x).clusters = s.clusters := rfl
@[simp] theorem State.setDist_mem (s : State) (d : Nat) (x : Dist) : (s.setDist d x).mem = s.mem := rfl
@[simp] theorem State.setDist_hostMem (s : State) (d : Nat) (x : Dist) : (s.setDist d x).hostMem = s.hostMem := rfl
@[simp] theorem State.setDist_lines (s : State) (d : Nat) (x : Dist) : (s.setDist d x).lines = s.lines := rfl
@[simp] theorem State.setDist_poisoned (s : State) (d : Nat) (x : Dist) : (s.setDist d x).poisoned = s.poisoned := rfl
@[simp] theorem State.setDist_rings (s : State) (d : Nat) (x : Dist) : (s.setDist d x).rings = s.rings := rfl
@[simp] theorem State.setDist_regs (s : State) (d : Nat) (x : Dist) : (s.setDist d x).regs = s.regs := rfl
@[simp] theorem State.setDist_lees (s : State) (d : Nat) (x : Dist) : (s.setDist d x).lees = s.lees := rfl
@[simp] theorem State.setDist_pressQ (s : State) (d : Nat) (x : Dist) : (s.setDist d x).pressQ = s.pressQ := rfl
@[simp] theorem State.setDist_stats (s : State) (d : Nat) (x : Dist) : (s.setDist d x).stats = s.stats := rfl
@[simp] theorem State.setDist_routers (s : State) (d : Nat) (x : Dist) : (s.setDist d x).routers = s.routers := rfl
@[simp] theorem State.setDist_net (s : State) (d : Nat) (x : Dist) : (s.setDist d x).net = s.net := rfl
@[simp] theorem State.setDist_domains (s : State) (d : Nat) (x : Dist) : (s.setDist d x).domains = s.domains := rfl
@[simp] theorem State.setDist_sc (s : State) (d : Nat) (x : Dist) : (s.setDist d x).sc = s.sc := rfl
@[simp] theorem State.setDist_windows (s : State) (d : Nat) (x : Dist) : (s.setDist d x).windows = s.windows := rfl
@[simp] theorem State.setDist_det (s : State) (d : Nat) (x : Dist) : (s.setDist d x).det = s.det := rfl
@[simp] theorem State.setDist_launches (s : State) (d : Nat) (x : Dist) : (s.setDist d x).launches = s.launches := rfl
@[simp] theorem State.setDist_images (s : State) (d : Nat) (x : Dist) : (s.setDist d x).images = s.images := rfl
@[simp] theorem State.setDist_pkg (s : State) (d : Nat) (x : Dist) : (s.setDist d x).pkg = s.pkg := rfl
@[simp] theorem State.setDist_fab (s : State) (d : Nat) (x : Dist) : (s.setDist d x).fab = s.fab := rfl
@[simp] theorem State.setDist_hostAccs (s : State) (d : Nat) (x : Dist) : (s.setDist d x).hostAccs = s.hostAccs := rfl
@[simp] theorem State.setDist_hostAns (s : State) (d : Nat) (x : Dist) : (s.setDist d x).hostAns = s.hostAns := rfl
@[simp] theorem State.setDist_snoop (s : State) (d : Nat) (x : Dist) : (s.setDist d x).snoop = s.snoop := rfl
@[simp] theorem State.setDist_snoops (s : State) (d : Nat) (x : Dist) : (s.setDist d x).snoops = s.snoops := rfl
@[simp] theorem State.setDist_reports (s : State) (d : Nat) (x : Dist) : (s.setDist d x).reports = s.reports := rfl
@[simp] theorem State.setDist_markers (s : State) (d : Nat) (x : Dist) : (s.setDist d x).markers = s.markers := rfl
@[simp] theorem State.setDist_next (s : State) (d : Nat) (x : Dist) : (s.setDist d x).next = s.next := rfl
@[simp] theorem State.setDist_cycle (s : State) (d : Nat) (x : Dist) : (s.setDist d x).cycle = s.cycle := rfl
@[simp] theorem State.setDist_agenda (s : State) (d : Nat) (x : Dist) : (s.setDist d x).agenda = s.agenda := rfl
@[simp] theorem State.setDist_cur (s : State) (d : Nat) (x : Dist) : (s.setDist d x).cur = s.cur := rfl
@[simp] theorem State.setDist_out (s : State) (d : Nat) (x : Dist) : (s.setDist d x).out = s.out := rfl
@[simp] theorem State.setDist_free (s : State) (d : Nat) (x : Dist) : (s.setDist d x).free = s.free := rfl

/-! ### setLine -/

@[simp] theorem State.setLine_cores (s : State) (l : Nat) (x : LineState) : (s.setLine l x).cores = s.cores := rfl
@[simp] theorem State.setLine_mcs (s : State) (l : Nat) (x : LineState) : (s.setLine l x).mcs = s.mcs := rfl
@[simp] theorem State.setLine_clusters (s : State) (l : Nat) (x : LineState) : (s.setLine l x).clusters = s.clusters := rfl
@[simp] theorem State.setLine_dists (s : State) (l : Nat) (x : LineState) : (s.setLine l x).dists = s.dists := rfl
@[simp] theorem State.setLine_mem (s : State) (l : Nat) (x : LineState) : (s.setLine l x).mem = s.mem := rfl
@[simp] theorem State.setLine_hostMem (s : State) (l : Nat) (x : LineState) : (s.setLine l x).hostMem = s.hostMem := rfl
@[simp] theorem State.setLine_poisoned (s : State) (l : Nat) (x : LineState) : (s.setLine l x).poisoned = s.poisoned := rfl
@[simp] theorem State.setLine_rings (s : State) (l : Nat) (x : LineState) : (s.setLine l x).rings = s.rings := rfl
@[simp] theorem State.setLine_regs (s : State) (l : Nat) (x : LineState) : (s.setLine l x).regs = s.regs := rfl
@[simp] theorem State.setLine_lees (s : State) (l : Nat) (x : LineState) : (s.setLine l x).lees = s.lees := rfl
@[simp] theorem State.setLine_pressQ (s : State) (l : Nat) (x : LineState) : (s.setLine l x).pressQ = s.pressQ := rfl
@[simp] theorem State.setLine_stats (s : State) (l : Nat) (x : LineState) : (s.setLine l x).stats = s.stats := rfl
@[simp] theorem State.setLine_routers (s : State) (l : Nat) (x : LineState) : (s.setLine l x).routers = s.routers := rfl
@[simp] theorem State.setLine_net (s : State) (l : Nat) (x : LineState) : (s.setLine l x).net = s.net := rfl
@[simp] theorem State.setLine_domains (s : State) (l : Nat) (x : LineState) : (s.setLine l x).domains = s.domains := rfl
@[simp] theorem State.setLine_sc (s : State) (l : Nat) (x : LineState) : (s.setLine l x).sc = s.sc := rfl
@[simp] theorem State.setLine_windows (s : State) (l : Nat) (x : LineState) : (s.setLine l x).windows = s.windows := rfl
@[simp] theorem State.setLine_det (s : State) (l : Nat) (x : LineState) : (s.setLine l x).det = s.det := rfl
@[simp] theorem State.setLine_launches (s : State) (l : Nat) (x : LineState) : (s.setLine l x).launches = s.launches := rfl
@[simp] theorem State.setLine_images (s : State) (l : Nat) (x : LineState) : (s.setLine l x).images = s.images := rfl
@[simp] theorem State.setLine_pkg (s : State) (l : Nat) (x : LineState) : (s.setLine l x).pkg = s.pkg := rfl
@[simp] theorem State.setLine_fab (s : State) (l : Nat) (x : LineState) : (s.setLine l x).fab = s.fab := rfl
@[simp] theorem State.setLine_hostAccs (s : State) (l : Nat) (x : LineState) : (s.setLine l x).hostAccs = s.hostAccs := rfl
@[simp] theorem State.setLine_hostAns (s : State) (l : Nat) (x : LineState) : (s.setLine l x).hostAns = s.hostAns := rfl
@[simp] theorem State.setLine_snoop (s : State) (l : Nat) (x : LineState) : (s.setLine l x).snoop = s.snoop := rfl
@[simp] theorem State.setLine_snoops (s : State) (l : Nat) (x : LineState) : (s.setLine l x).snoops = s.snoops := rfl
@[simp] theorem State.setLine_reports (s : State) (l : Nat) (x : LineState) : (s.setLine l x).reports = s.reports := rfl
@[simp] theorem State.setLine_markers (s : State) (l : Nat) (x : LineState) : (s.setLine l x).markers = s.markers := rfl
@[simp] theorem State.setLine_next (s : State) (l : Nat) (x : LineState) : (s.setLine l x).next = s.next := rfl
@[simp] theorem State.setLine_cycle (s : State) (l : Nat) (x : LineState) : (s.setLine l x).cycle = s.cycle := rfl
@[simp] theorem State.setLine_agenda (s : State) (l : Nat) (x : LineState) : (s.setLine l x).agenda = s.agenda := rfl
@[simp] theorem State.setLine_cur (s : State) (l : Nat) (x : LineState) : (s.setLine l x).cur = s.cur := rfl
@[simp] theorem State.setLine_out (s : State) (l : Nat) (x : LineState) : (s.setLine l x).out = s.out := rfl
@[simp] theorem State.setLine_free (s : State) (l : Nat) (x : LineState) : (s.setLine l x).free = s.free := rfl

/-! ### setStat -/

@[simp] theorem State.setStat_cores (s : State) (n : Nat) (x : PressStat) : (s.setStat n x).cores = s.cores := rfl
@[simp] theorem State.setStat_mcs (s : State) (n : Nat) (x : PressStat) : (s.setStat n x).mcs = s.mcs := rfl
@[simp] theorem State.setStat_clusters (s : State) (n : Nat) (x : PressStat) : (s.setStat n x).clusters = s.clusters := rfl
@[simp] theorem State.setStat_dists (s : State) (n : Nat) (x : PressStat) : (s.setStat n x).dists = s.dists := rfl
@[simp] theorem State.setStat_mem (s : State) (n : Nat) (x : PressStat) : (s.setStat n x).mem = s.mem := rfl
@[simp] theorem State.setStat_hostMem (s : State) (n : Nat) (x : PressStat) : (s.setStat n x).hostMem = s.hostMem := rfl
@[simp] theorem State.setStat_lines (s : State) (n : Nat) (x : PressStat) : (s.setStat n x).lines = s.lines := rfl
@[simp] theorem State.setStat_poisoned (s : State) (n : Nat) (x : PressStat) : (s.setStat n x).poisoned = s.poisoned := rfl
@[simp] theorem State.setStat_rings (s : State) (n : Nat) (x : PressStat) : (s.setStat n x).rings = s.rings := rfl
@[simp] theorem State.setStat_regs (s : State) (n : Nat) (x : PressStat) : (s.setStat n x).regs = s.regs := rfl
@[simp] theorem State.setStat_lees (s : State) (n : Nat) (x : PressStat) : (s.setStat n x).lees = s.lees := rfl
@[simp] theorem State.setStat_pressQ (s : State) (n : Nat) (x : PressStat) : (s.setStat n x).pressQ = s.pressQ := rfl
@[simp] theorem State.setStat_routers (s : State) (n : Nat) (x : PressStat) : (s.setStat n x).routers = s.routers := rfl
@[simp] theorem State.setStat_net (s : State) (n : Nat) (x : PressStat) : (s.setStat n x).net = s.net := rfl
@[simp] theorem State.setStat_domains (s : State) (n : Nat) (x : PressStat) : (s.setStat n x).domains = s.domains := rfl
@[simp] theorem State.setStat_sc (s : State) (n : Nat) (x : PressStat) : (s.setStat n x).sc = s.sc := rfl
@[simp] theorem State.setStat_windows (s : State) (n : Nat) (x : PressStat) : (s.setStat n x).windows = s.windows := rfl
@[simp] theorem State.setStat_det (s : State) (n : Nat) (x : PressStat) : (s.setStat n x).det = s.det := rfl
@[simp] theorem State.setStat_launches (s : State) (n : Nat) (x : PressStat) : (s.setStat n x).launches = s.launches := rfl
@[simp] theorem State.setStat_images (s : State) (n : Nat) (x : PressStat) : (s.setStat n x).images = s.images := rfl
@[simp] theorem State.setStat_pkg (s : State) (n : Nat) (x : PressStat) : (s.setStat n x).pkg = s.pkg := rfl
@[simp] theorem State.setStat_fab (s : State) (n : Nat) (x : PressStat) : (s.setStat n x).fab = s.fab := rfl
@[simp] theorem State.setStat_hostAccs (s : State) (n : Nat) (x : PressStat) : (s.setStat n x).hostAccs = s.hostAccs := rfl
@[simp] theorem State.setStat_hostAns (s : State) (n : Nat) (x : PressStat) : (s.setStat n x).hostAns = s.hostAns := rfl
@[simp] theorem State.setStat_snoop (s : State) (n : Nat) (x : PressStat) : (s.setStat n x).snoop = s.snoop := rfl
@[simp] theorem State.setStat_snoops (s : State) (n : Nat) (x : PressStat) : (s.setStat n x).snoops = s.snoops := rfl
@[simp] theorem State.setStat_reports (s : State) (n : Nat) (x : PressStat) : (s.setStat n x).reports = s.reports := rfl
@[simp] theorem State.setStat_markers (s : State) (n : Nat) (x : PressStat) : (s.setStat n x).markers = s.markers := rfl
@[simp] theorem State.setStat_next (s : State) (n : Nat) (x : PressStat) : (s.setStat n x).next = s.next := rfl
@[simp] theorem State.setStat_cycle (s : State) (n : Nat) (x : PressStat) : (s.setStat n x).cycle = s.cycle := rfl
@[simp] theorem State.setStat_agenda (s : State) (n : Nat) (x : PressStat) : (s.setStat n x).agenda = s.agenda := rfl
@[simp] theorem State.setStat_cur (s : State) (n : Nat) (x : PressStat) : (s.setStat n x).cur = s.cur := rfl
@[simp] theorem State.setStat_out (s : State) (n : Nat) (x : PressStat) : (s.setStat n x).out = s.out := rfl
@[simp] theorem State.setStat_free (s : State) (n : Nat) (x : PressStat) : (s.setStat n x).free = s.free := rfl

/-! ### setCtxAt -/

@[simp] theorem State.setCtxAt_mcs (s : State) (ep : Nat) (n : Fin 11) (x : Ctx) : (s.setCtxAt ep n x).mcs = s.mcs := rfl
@[simp] theorem State.setCtxAt_clusters (s : State) (ep : Nat) (n : Fin 11) (x : Ctx) : (s.setCtxAt ep n x).clusters = s.clusters := rfl
@[simp] theorem State.setCtxAt_dists (s : State) (ep : Nat) (n : Fin 11) (x : Ctx) : (s.setCtxAt ep n x).dists = s.dists := rfl
@[simp] theorem State.setCtxAt_mem (s : State) (ep : Nat) (n : Fin 11) (x : Ctx) : (s.setCtxAt ep n x).mem = s.mem := rfl
@[simp] theorem State.setCtxAt_hostMem (s : State) (ep : Nat) (n : Fin 11) (x : Ctx) : (s.setCtxAt ep n x).hostMem = s.hostMem := rfl
@[simp] theorem State.setCtxAt_lines (s : State) (ep : Nat) (n : Fin 11) (x : Ctx) : (s.setCtxAt ep n x).lines = s.lines := rfl
@[simp] theorem State.setCtxAt_poisoned (s : State) (ep : Nat) (n : Fin 11) (x : Ctx) : (s.setCtxAt ep n x).poisoned = s.poisoned := rfl
@[simp] theorem State.setCtxAt_rings (s : State) (ep : Nat) (n : Fin 11) (x : Ctx) : (s.setCtxAt ep n x).rings = s.rings := rfl
@[simp] theorem State.setCtxAt_regs (s : State) (ep : Nat) (n : Fin 11) (x : Ctx) : (s.setCtxAt ep n x).regs = s.regs := rfl
@[simp] theorem State.setCtxAt_lees (s : State) (ep : Nat) (n : Fin 11) (x : Ctx) : (s.setCtxAt ep n x).lees = s.lees := rfl
@[simp] theorem State.setCtxAt_pressQ (s : State) (ep : Nat) (n : Fin 11) (x : Ctx) : (s.setCtxAt ep n x).pressQ = s.pressQ := rfl
@[simp] theorem State.setCtxAt_stats (s : State) (ep : Nat) (n : Fin 11) (x : Ctx) : (s.setCtxAt ep n x).stats = s.stats := rfl
@[simp] theorem State.setCtxAt_routers (s : State) (ep : Nat) (n : Fin 11) (x : Ctx) : (s.setCtxAt ep n x).routers = s.routers := rfl
@[simp] theorem State.setCtxAt_net (s : State) (ep : Nat) (n : Fin 11) (x : Ctx) : (s.setCtxAt ep n x).net = s.net := rfl
@[simp] theorem State.setCtxAt_domains (s : State) (ep : Nat) (n : Fin 11) (x : Ctx) : (s.setCtxAt ep n x).domains = s.domains := rfl
@[simp] theorem State.setCtxAt_sc (s : State) (ep : Nat) (n : Fin 11) (x : Ctx) : (s.setCtxAt ep n x).sc = s.sc := rfl
@[simp] theorem State.setCtxAt_windows (s : State) (ep : Nat) (n : Fin 11) (x : Ctx) : (s.setCtxAt ep n x).windows = s.windows := rfl
@[simp] theorem State.setCtxAt_det (s : State) (ep : Nat) (n : Fin 11) (x : Ctx) : (s.setCtxAt ep n x).det = s.det := rfl
@[simp] theorem State.setCtxAt_launches (s : State) (ep : Nat) (n : Fin 11) (x : Ctx) : (s.setCtxAt ep n x).launches = s.launches := rfl
@[simp] theorem State.setCtxAt_images (s : State) (ep : Nat) (n : Fin 11) (x : Ctx) : (s.setCtxAt ep n x).images = s.images := rfl
@[simp] theorem State.setCtxAt_pkg (s : State) (ep : Nat) (n : Fin 11) (x : Ctx) : (s.setCtxAt ep n x).pkg = s.pkg := rfl
@[simp] theorem State.setCtxAt_fab (s : State) (ep : Nat) (n : Fin 11) (x : Ctx) : (s.setCtxAt ep n x).fab = s.fab := rfl
@[simp] theorem State.setCtxAt_hostAccs (s : State) (ep : Nat) (n : Fin 11) (x : Ctx) : (s.setCtxAt ep n x).hostAccs = s.hostAccs := rfl
@[simp] theorem State.setCtxAt_hostAns (s : State) (ep : Nat) (n : Fin 11) (x : Ctx) : (s.setCtxAt ep n x).hostAns = s.hostAns := rfl
@[simp] theorem State.setCtxAt_snoop (s : State) (ep : Nat) (n : Fin 11) (x : Ctx) : (s.setCtxAt ep n x).snoop = s.snoop := rfl
@[simp] theorem State.setCtxAt_snoops (s : State) (ep : Nat) (n : Fin 11) (x : Ctx) : (s.setCtxAt ep n x).snoops = s.snoops := rfl
@[simp] theorem State.setCtxAt_reports (s : State) (ep : Nat) (n : Fin 11) (x : Ctx) : (s.setCtxAt ep n x).reports = s.reports := rfl
@[simp] theorem State.setCtxAt_markers (s : State) (ep : Nat) (n : Fin 11) (x : Ctx) : (s.setCtxAt ep n x).markers = s.markers := rfl
@[simp] theorem State.setCtxAt_next (s : State) (ep : Nat) (n : Fin 11) (x : Ctx) : (s.setCtxAt ep n x).next = s.next := rfl
@[simp] theorem State.setCtxAt_cycle (s : State) (ep : Nat) (n : Fin 11) (x : Ctx) : (s.setCtxAt ep n x).cycle = s.cycle := rfl
@[simp] theorem State.setCtxAt_agenda (s : State) (ep : Nat) (n : Fin 11) (x : Ctx) : (s.setCtxAt ep n x).agenda = s.agenda := rfl
@[simp] theorem State.setCtxAt_cur (s : State) (ep : Nat) (n : Fin 11) (x : Ctx) : (s.setCtxAt ep n x).cur = s.cur := rfl
@[simp] theorem State.setCtxAt_out (s : State) (ep : Nat) (n : Fin 11) (x : Ctx) : (s.setCtxAt ep n x).out = s.out := rfl
@[simp] theorem State.setCtxAt_free (s : State) (ep : Nat) (n : Fin 11) (x : Ctx) : (s.setCtxAt ep n x).free = s.free := rfl

/-! ### setCtx -/

@[simp] theorem State.setCtx_mcs (s : State) (x : Ctx) : (s.setCtx x).mcs = s.mcs := rfl
@[simp] theorem State.setCtx_clusters (s : State) (x : Ctx) : (s.setCtx x).clusters = s.clusters := rfl
@[simp] theorem State.setCtx_dists (s : State) (x : Ctx) : (s.setCtx x).dists = s.dists := rfl
@[simp] theorem State.setCtx_mem (s : State) (x : Ctx) : (s.setCtx x).mem = s.mem := rfl
@[simp] theorem State.setCtx_hostMem (s : State) (x : Ctx) : (s.setCtx x).hostMem = s.hostMem := rfl
@[simp] theorem State.setCtx_lines (s : State) (x : Ctx) : (s.setCtx x).lines = s.lines := rfl
@[simp] theorem State.setCtx_poisoned (s : State) (x : Ctx) : (s.setCtx x).poisoned = s.poisoned := rfl
@[simp] theorem State.setCtx_rings (s : State) (x : Ctx) : (s.setCtx x).rings = s.rings := rfl
@[simp] theorem State.setCtx_regs (s : State) (x : Ctx) : (s.setCtx x).regs = s.regs := rfl
@[simp] theorem State.setCtx_lees (s : State) (x : Ctx) : (s.setCtx x).lees = s.lees := rfl
@[simp] theorem State.setCtx_pressQ (s : State) (x : Ctx) : (s.setCtx x).pressQ = s.pressQ := rfl
@[simp] theorem State.setCtx_stats (s : State) (x : Ctx) : (s.setCtx x).stats = s.stats := rfl
@[simp] theorem State.setCtx_routers (s : State) (x : Ctx) : (s.setCtx x).routers = s.routers := rfl
@[simp] theorem State.setCtx_net (s : State) (x : Ctx) : (s.setCtx x).net = s.net := rfl
@[simp] theorem State.setCtx_domains (s : State) (x : Ctx) : (s.setCtx x).domains = s.domains := rfl
@[simp] theorem State.setCtx_sc (s : State) (x : Ctx) : (s.setCtx x).sc = s.sc := rfl
@[simp] theorem State.setCtx_windows (s : State) (x : Ctx) : (s.setCtx x).windows = s.windows := rfl
@[simp] theorem State.setCtx_det (s : State) (x : Ctx) : (s.setCtx x).det = s.det := rfl
@[simp] theorem State.setCtx_launches (s : State) (x : Ctx) : (s.setCtx x).launches = s.launches := rfl
@[simp] theorem State.setCtx_images (s : State) (x : Ctx) : (s.setCtx x).images = s.images := rfl
@[simp] theorem State.setCtx_pkg (s : State) (x : Ctx) : (s.setCtx x).pkg = s.pkg := rfl
@[simp] theorem State.setCtx_fab (s : State) (x : Ctx) : (s.setCtx x).fab = s.fab := rfl
@[simp] theorem State.setCtx_hostAccs (s : State) (x : Ctx) : (s.setCtx x).hostAccs = s.hostAccs := rfl
@[simp] theorem State.setCtx_hostAns (s : State) (x : Ctx) : (s.setCtx x).hostAns = s.hostAns := rfl
@[simp] theorem State.setCtx_snoop (s : State) (x : Ctx) : (s.setCtx x).snoop = s.snoop := rfl
@[simp] theorem State.setCtx_snoops (s : State) (x : Ctx) : (s.setCtx x).snoops = s.snoops := rfl
@[simp] theorem State.setCtx_reports (s : State) (x : Ctx) : (s.setCtx x).reports = s.reports := rfl
@[simp] theorem State.setCtx_markers (s : State) (x : Ctx) : (s.setCtx x).markers = s.markers := rfl
@[simp] theorem State.setCtx_next (s : State) (x : Ctx) : (s.setCtx x).next = s.next := rfl
@[simp] theorem State.setCtx_cycle (s : State) (x : Ctx) : (s.setCtx x).cycle = s.cycle := rfl
@[simp] theorem State.setCtx_agenda (s : State) (x : Ctx) : (s.setCtx x).agenda = s.agenda := rfl
@[simp] theorem State.setCtx_cur (s : State) (x : Ctx) : (s.setCtx x).cur = s.cur := rfl
@[simp] theorem State.setCtx_out (s : State) (x : Ctx) : (s.setCtx x).out = s.out := rfl
@[simp] theorem State.setCtx_free (s : State) (x : Ctx) : (s.setCtx x).free = s.free := rfl

/-! ### modCore -/

@[simp] theorem State.modCore_mcs (s : State) (ep : Nat) (g : Core → Core) : (s.modCore ep g).mcs = s.mcs := rfl
@[simp] theorem State.modCore_clusters (s : State) (ep : Nat) (g : Core → Core) : (s.modCore ep g).clusters = s.clusters := rfl
@[simp] theorem State.modCore_dists (s : State) (ep : Nat) (g : Core → Core) : (s.modCore ep g).dists = s.dists := rfl
@[simp] theorem State.modCore_mem (s : State) (ep : Nat) (g : Core → Core) : (s.modCore ep g).mem = s.mem := rfl
@[simp] theorem State.modCore_hostMem (s : State) (ep : Nat) (g : Core → Core) : (s.modCore ep g).hostMem = s.hostMem := rfl
@[simp] theorem State.modCore_lines (s : State) (ep : Nat) (g : Core → Core) : (s.modCore ep g).lines = s.lines := rfl
@[simp] theorem State.modCore_poisoned (s : State) (ep : Nat) (g : Core → Core) : (s.modCore ep g).poisoned = s.poisoned := rfl
@[simp] theorem State.modCore_rings (s : State) (ep : Nat) (g : Core → Core) : (s.modCore ep g).rings = s.rings := rfl
@[simp] theorem State.modCore_regs (s : State) (ep : Nat) (g : Core → Core) : (s.modCore ep g).regs = s.regs := rfl
@[simp] theorem State.modCore_lees (s : State) (ep : Nat) (g : Core → Core) : (s.modCore ep g).lees = s.lees := rfl
@[simp] theorem State.modCore_pressQ (s : State) (ep : Nat) (g : Core → Core) : (s.modCore ep g).pressQ = s.pressQ := rfl
@[simp] theorem State.modCore_stats (s : State) (ep : Nat) (g : Core → Core) : (s.modCore ep g).stats = s.stats := rfl
@[simp] theorem State.modCore_routers (s : State) (ep : Nat) (g : Core → Core) : (s.modCore ep g).routers = s.routers := rfl
@[simp] theorem State.modCore_net (s : State) (ep : Nat) (g : Core → Core) : (s.modCore ep g).net = s.net := rfl
@[simp] theorem State.modCore_domains (s : State) (ep : Nat) (g : Core → Core) : (s.modCore ep g).domains = s.domains := rfl
@[simp] theorem State.modCore_sc (s : State) (ep : Nat) (g : Core → Core) : (s.modCore ep g).sc = s.sc := rfl
@[simp] theorem State.modCore_windows (s : State) (ep : Nat) (g : Core → Core) : (s.modCore ep g).windows = s.windows := rfl
@[simp] theorem State.modCore_det (s : State) (ep : Nat) (g : Core → Core) : (s.modCore ep g).det = s.det := rfl
@[simp] theorem State.modCore_launches (s : State) (ep : Nat) (g : Core → Core) : (s.modCore ep g).launches = s.launches := rfl
@[simp] theorem State.modCore_images (s : State) (ep : Nat) (g : Core → Core) : (s.modCore ep g).images = s.images := rfl
@[simp] theorem State.modCore_pkg (s : State) (ep : Nat) (g : Core → Core) : (s.modCore ep g).pkg = s.pkg := rfl
@[simp] theorem State.modCore_fab (s : State) (ep : Nat) (g : Core → Core) : (s.modCore ep g).fab = s.fab := rfl
@[simp] theorem State.modCore_hostAccs (s : State) (ep : Nat) (g : Core → Core) : (s.modCore ep g).hostAccs = s.hostAccs := rfl
@[simp] theorem State.modCore_hostAns (s : State) (ep : Nat) (g : Core → Core) : (s.modCore ep g).hostAns = s.hostAns := rfl
@[simp] theorem State.modCore_snoop (s : State) (ep : Nat) (g : Core → Core) : (s.modCore ep g).snoop = s.snoop := rfl
@[simp] theorem State.modCore_snoops (s : State) (ep : Nat) (g : Core → Core) : (s.modCore ep g).snoops = s.snoops := rfl
@[simp] theorem State.modCore_reports (s : State) (ep : Nat) (g : Core → Core) : (s.modCore ep g).reports = s.reports := rfl
@[simp] theorem State.modCore_markers (s : State) (ep : Nat) (g : Core → Core) : (s.modCore ep g).markers = s.markers := rfl
@[simp] theorem State.modCore_next (s : State) (ep : Nat) (g : Core → Core) : (s.modCore ep g).next = s.next := rfl
@[simp] theorem State.modCore_cycle (s : State) (ep : Nat) (g : Core → Core) : (s.modCore ep g).cycle = s.cycle := rfl
@[simp] theorem State.modCore_agenda (s : State) (ep : Nat) (g : Core → Core) : (s.modCore ep g).agenda = s.agenda := rfl
@[simp] theorem State.modCore_cur (s : State) (ep : Nat) (g : Core → Core) : (s.modCore ep g).cur = s.cur := rfl
@[simp] theorem State.modCore_out (s : State) (ep : Nat) (g : Core → Core) : (s.modCore ep g).out = s.out := rfl
@[simp] theorem State.modCore_free (s : State) (ep : Nat) (g : Core → Core) : (s.modCore ep g).free = s.free := rfl

/-! ### modCtx -/

@[simp] theorem State.modCtx_mcs (s : State) (ep : Nat) (n : Fin 11) (g : Ctx → Ctx) : (s.modCtx ep n g).mcs = s.mcs := rfl
@[simp] theorem State.modCtx_clusters (s : State) (ep : Nat) (n : Fin 11) (g : Ctx → Ctx) : (s.modCtx ep n g).clusters = s.clusters := rfl
@[simp] theorem State.modCtx_dists (s : State) (ep : Nat) (n : Fin 11) (g : Ctx → Ctx) : (s.modCtx ep n g).dists = s.dists := rfl
@[simp] theorem State.modCtx_mem (s : State) (ep : Nat) (n : Fin 11) (g : Ctx → Ctx) : (s.modCtx ep n g).mem = s.mem := rfl
@[simp] theorem State.modCtx_hostMem (s : State) (ep : Nat) (n : Fin 11) (g : Ctx → Ctx) : (s.modCtx ep n g).hostMem = s.hostMem := rfl
@[simp] theorem State.modCtx_lines (s : State) (ep : Nat) (n : Fin 11) (g : Ctx → Ctx) : (s.modCtx ep n g).lines = s.lines := rfl
@[simp] theorem State.modCtx_poisoned (s : State) (ep : Nat) (n : Fin 11) (g : Ctx → Ctx) : (s.modCtx ep n g).poisoned = s.poisoned := rfl
@[simp] theorem State.modCtx_rings (s : State) (ep : Nat) (n : Fin 11) (g : Ctx → Ctx) : (s.modCtx ep n g).rings = s.rings := rfl
@[simp] theorem State.modCtx_regs (s : State) (ep : Nat) (n : Fin 11) (g : Ctx → Ctx) : (s.modCtx ep n g).regs = s.regs := rfl
@[simp] theorem State.modCtx_lees (s : State) (ep : Nat) (n : Fin 11) (g : Ctx → Ctx) : (s.modCtx ep n g).lees = s.lees := rfl
@[simp] theorem State.modCtx_pressQ (s : State) (ep : Nat) (n : Fin 11) (g : Ctx → Ctx) : (s.modCtx ep n g).pressQ = s.pressQ := rfl
@[simp] theorem State.modCtx_stats (s : State) (ep : Nat) (n : Fin 11) (g : Ctx → Ctx) : (s.modCtx ep n g).stats = s.stats := rfl
@[simp] theorem State.modCtx_routers (s : State) (ep : Nat) (n : Fin 11) (g : Ctx → Ctx) : (s.modCtx ep n g).routers = s.routers := rfl
@[simp] theorem State.modCtx_net (s : State) (ep : Nat) (n : Fin 11) (g : Ctx → Ctx) : (s.modCtx ep n g).net = s.net := rfl
@[simp] theorem State.modCtx_domains (s : State) (ep : Nat) (n : Fin 11) (g : Ctx → Ctx) : (s.modCtx ep n g).domains = s.domains := rfl
@[simp] theorem State.modCtx_sc (s : State) (ep : Nat) (n : Fin 11) (g : Ctx → Ctx) : (s.modCtx ep n g).sc = s.sc := rfl
@[simp] theorem State.modCtx_windows (s : State) (ep : Nat) (n : Fin 11) (g : Ctx → Ctx) : (s.modCtx ep n g).windows = s.windows := rfl
@[simp] theorem State.modCtx_det (s : State) (ep : Nat) (n : Fin 11) (g : Ctx → Ctx) : (s.modCtx ep n g).det = s.det := rfl
@[simp] theorem State.modCtx_launches (s : State) (ep : Nat) (n : Fin 11) (g : Ctx → Ctx) : (s.modCtx ep n g).launches = s.launches := rfl
@[simp] theorem State.modCtx_images (s : State) (ep : Nat) (n : Fin 11) (g : Ctx → Ctx) : (s.modCtx ep n g).images = s.images := rfl
@[simp] theorem State.modCtx_pkg (s : State) (ep : Nat) (n : Fin 11) (g : Ctx → Ctx) : (s.modCtx ep n g).pkg = s.pkg := rfl
@[simp] theorem State.modCtx_fab (s : State) (ep : Nat) (n : Fin 11) (g : Ctx → Ctx) : (s.modCtx ep n g).fab = s.fab := rfl
@[simp] theorem State.modCtx_hostAccs (s : State) (ep : Nat) (n : Fin 11) (g : Ctx → Ctx) : (s.modCtx ep n g).hostAccs = s.hostAccs := rfl
@[simp] theorem State.modCtx_hostAns (s : State) (ep : Nat) (n : Fin 11) (g : Ctx → Ctx) : (s.modCtx ep n g).hostAns = s.hostAns := rfl
@[simp] theorem State.modCtx_snoop (s : State) (ep : Nat) (n : Fin 11) (g : Ctx → Ctx) : (s.modCtx ep n g).snoop = s.snoop := rfl
@[simp] theorem State.modCtx_snoops (s : State) (ep : Nat) (n : Fin 11) (g : Ctx → Ctx) : (s.modCtx ep n g).snoops = s.snoops := rfl
@[simp] theorem State.modCtx_reports (s : State) (ep : Nat) (n : Fin 11) (g : Ctx → Ctx) : (s.modCtx ep n g).reports = s.reports := rfl
@[simp] theorem State.modCtx_markers (s : State) (ep : Nat) (n : Fin 11) (g : Ctx → Ctx) : (s.modCtx ep n g).markers = s.markers := rfl
@[simp] theorem State.modCtx_next (s : State) (ep : Nat) (n : Fin 11) (g : Ctx → Ctx) : (s.modCtx ep n g).next = s.next := rfl
@[simp] theorem State.modCtx_cycle (s : State) (ep : Nat) (n : Fin 11) (g : Ctx → Ctx) : (s.modCtx ep n g).cycle = s.cycle := rfl
@[simp] theorem State.modCtx_agenda (s : State) (ep : Nat) (n : Fin 11) (g : Ctx → Ctx) : (s.modCtx ep n g).agenda = s.agenda := rfl
@[simp] theorem State.modCtx_cur (s : State) (ep : Nat) (n : Fin 11) (g : Ctx → Ctx) : (s.modCtx ep n g).cur = s.cur := rfl
@[simp] theorem State.modCtx_out (s : State) (ep : Nat) (n : Fin 11) (g : Ctx → Ctx) : (s.modCtx ep n g).out = s.out := rfl
@[simp] theorem State.modCtx_free (s : State) (ep : Nat) (n : Fin 11) (g : Ctx → Ctx) : (s.modCtx ep n g).free = s.free := rfl

/-! ### setX -/

@[simp] theorem State.setX_mcs (s : State) (r : Reg) (v : Word) : (s.setX r v).mcs = s.mcs := rfl
@[simp] theorem State.setX_clusters (s : State) (r : Reg) (v : Word) : (s.setX r v).clusters = s.clusters := rfl
@[simp] theorem State.setX_dists (s : State) (r : Reg) (v : Word) : (s.setX r v).dists = s.dists := rfl
@[simp] theorem State.setX_mem (s : State) (r : Reg) (v : Word) : (s.setX r v).mem = s.mem := rfl
@[simp] theorem State.setX_hostMem (s : State) (r : Reg) (v : Word) : (s.setX r v).hostMem = s.hostMem := rfl
@[simp] theorem State.setX_lines (s : State) (r : Reg) (v : Word) : (s.setX r v).lines = s.lines := rfl
@[simp] theorem State.setX_poisoned (s : State) (r : Reg) (v : Word) : (s.setX r v).poisoned = s.poisoned := rfl
@[simp] theorem State.setX_rings (s : State) (r : Reg) (v : Word) : (s.setX r v).rings = s.rings := rfl
@[simp] theorem State.setX_regs (s : State) (r : Reg) (v : Word) : (s.setX r v).regs = s.regs := rfl
@[simp] theorem State.setX_lees (s : State) (r : Reg) (v : Word) : (s.setX r v).lees = s.lees := rfl
@[simp] theorem State.setX_pressQ (s : State) (r : Reg) (v : Word) : (s.setX r v).pressQ = s.pressQ := rfl
@[simp] theorem State.setX_stats (s : State) (r : Reg) (v : Word) : (s.setX r v).stats = s.stats := rfl
@[simp] theorem State.setX_routers (s : State) (r : Reg) (v : Word) : (s.setX r v).routers = s.routers := rfl
@[simp] theorem State.setX_net (s : State) (r : Reg) (v : Word) : (s.setX r v).net = s.net := rfl
@[simp] theorem State.setX_domains (s : State) (r : Reg) (v : Word) : (s.setX r v).domains = s.domains := rfl
@[simp] theorem State.setX_sc (s : State) (r : Reg) (v : Word) : (s.setX r v).sc = s.sc := rfl
@[simp] theorem State.setX_windows (s : State) (r : Reg) (v : Word) : (s.setX r v).windows = s.windows := rfl
@[simp] theorem State.setX_det (s : State) (r : Reg) (v : Word) : (s.setX r v).det = s.det := rfl
@[simp] theorem State.setX_launches (s : State) (r : Reg) (v : Word) : (s.setX r v).launches = s.launches := rfl
@[simp] theorem State.setX_images (s : State) (r : Reg) (v : Word) : (s.setX r v).images = s.images := rfl
@[simp] theorem State.setX_pkg (s : State) (r : Reg) (v : Word) : (s.setX r v).pkg = s.pkg := rfl
@[simp] theorem State.setX_fab (s : State) (r : Reg) (v : Word) : (s.setX r v).fab = s.fab := rfl
@[simp] theorem State.setX_hostAccs (s : State) (r : Reg) (v : Word) : (s.setX r v).hostAccs = s.hostAccs := rfl
@[simp] theorem State.setX_hostAns (s : State) (r : Reg) (v : Word) : (s.setX r v).hostAns = s.hostAns := rfl
@[simp] theorem State.setX_snoop (s : State) (r : Reg) (v : Word) : (s.setX r v).snoop = s.snoop := rfl
@[simp] theorem State.setX_snoops (s : State) (r : Reg) (v : Word) : (s.setX r v).snoops = s.snoops := rfl
@[simp] theorem State.setX_reports (s : State) (r : Reg) (v : Word) : (s.setX r v).reports = s.reports := rfl
@[simp] theorem State.setX_markers (s : State) (r : Reg) (v : Word) : (s.setX r v).markers = s.markers := rfl
@[simp] theorem State.setX_next (s : State) (r : Reg) (v : Word) : (s.setX r v).next = s.next := rfl
@[simp] theorem State.setX_cycle (s : State) (r : Reg) (v : Word) : (s.setX r v).cycle = s.cycle := rfl
@[simp] theorem State.setX_agenda (s : State) (r : Reg) (v : Word) : (s.setX r v).agenda = s.agenda := rfl
@[simp] theorem State.setX_cur (s : State) (r : Reg) (v : Word) : (s.setX r v).cur = s.cur := rfl
@[simp] theorem State.setX_out (s : State) (r : Reg) (v : Word) : (s.setX r v).out = s.out := rfl
@[simp] theorem State.setX_free (s : State) (r : Reg) (v : Word) : (s.setX r v).free = s.free := rfl

/-! ### setF -/

@[simp] theorem State.setF_mcs (s : State) (r : Reg) (v : BitVec 32) : (s.setF r v).mcs = s.mcs := rfl
@[simp] theorem State.setF_clusters (s : State) (r : Reg) (v : BitVec 32) : (s.setF r v).clusters = s.clusters := rfl
@[simp] theorem State.setF_dists (s : State) (r : Reg) (v : BitVec 32) : (s.setF r v).dists = s.dists := rfl
@[simp] theorem State.setF_mem (s : State) (r : Reg) (v : BitVec 32) : (s.setF r v).mem = s.mem := rfl
@[simp] theorem State.setF_hostMem (s : State) (r : Reg) (v : BitVec 32) : (s.setF r v).hostMem = s.hostMem := rfl
@[simp] theorem State.setF_lines (s : State) (r : Reg) (v : BitVec 32) : (s.setF r v).lines = s.lines := rfl
@[simp] theorem State.setF_poisoned (s : State) (r : Reg) (v : BitVec 32) : (s.setF r v).poisoned = s.poisoned := rfl
@[simp] theorem State.setF_rings (s : State) (r : Reg) (v : BitVec 32) : (s.setF r v).rings = s.rings := rfl
@[simp] theorem State.setF_regs (s : State) (r : Reg) (v : BitVec 32) : (s.setF r v).regs = s.regs := rfl
@[simp] theorem State.setF_lees (s : State) (r : Reg) (v : BitVec 32) : (s.setF r v).lees = s.lees := rfl
@[simp] theorem State.setF_pressQ (s : State) (r : Reg) (v : BitVec 32) : (s.setF r v).pressQ = s.pressQ := rfl
@[simp] theorem State.setF_stats (s : State) (r : Reg) (v : BitVec 32) : (s.setF r v).stats = s.stats := rfl
@[simp] theorem State.setF_routers (s : State) (r : Reg) (v : BitVec 32) : (s.setF r v).routers = s.routers := rfl
@[simp] theorem State.setF_net (s : State) (r : Reg) (v : BitVec 32) : (s.setF r v).net = s.net := rfl
@[simp] theorem State.setF_domains (s : State) (r : Reg) (v : BitVec 32) : (s.setF r v).domains = s.domains := rfl
@[simp] theorem State.setF_sc (s : State) (r : Reg) (v : BitVec 32) : (s.setF r v).sc = s.sc := rfl
@[simp] theorem State.setF_windows (s : State) (r : Reg) (v : BitVec 32) : (s.setF r v).windows = s.windows := rfl
@[simp] theorem State.setF_det (s : State) (r : Reg) (v : BitVec 32) : (s.setF r v).det = s.det := rfl
@[simp] theorem State.setF_launches (s : State) (r : Reg) (v : BitVec 32) : (s.setF r v).launches = s.launches := rfl
@[simp] theorem State.setF_images (s : State) (r : Reg) (v : BitVec 32) : (s.setF r v).images = s.images := rfl
@[simp] theorem State.setF_pkg (s : State) (r : Reg) (v : BitVec 32) : (s.setF r v).pkg = s.pkg := rfl
@[simp] theorem State.setF_fab (s : State) (r : Reg) (v : BitVec 32) : (s.setF r v).fab = s.fab := rfl
@[simp] theorem State.setF_hostAccs (s : State) (r : Reg) (v : BitVec 32) : (s.setF r v).hostAccs = s.hostAccs := rfl
@[simp] theorem State.setF_hostAns (s : State) (r : Reg) (v : BitVec 32) : (s.setF r v).hostAns = s.hostAns := rfl
@[simp] theorem State.setF_snoop (s : State) (r : Reg) (v : BitVec 32) : (s.setF r v).snoop = s.snoop := rfl
@[simp] theorem State.setF_snoops (s : State) (r : Reg) (v : BitVec 32) : (s.setF r v).snoops = s.snoops := rfl
@[simp] theorem State.setF_reports (s : State) (r : Reg) (v : BitVec 32) : (s.setF r v).reports = s.reports := rfl
@[simp] theorem State.setF_markers (s : State) (r : Reg) (v : BitVec 32) : (s.setF r v).markers = s.markers := rfl
@[simp] theorem State.setF_next (s : State) (r : Reg) (v : BitVec 32) : (s.setF r v).next = s.next := rfl
@[simp] theorem State.setF_cycle (s : State) (r : Reg) (v : BitVec 32) : (s.setF r v).cycle = s.cycle := rfl
@[simp] theorem State.setF_agenda (s : State) (r : Reg) (v : BitVec 32) : (s.setF r v).agenda = s.agenda := rfl
@[simp] theorem State.setF_cur (s : State) (r : Reg) (v : BitVec 32) : (s.setF r v).cur = s.cur := rfl
@[simp] theorem State.setF_out (s : State) (r : Reg) (v : BitVec 32) : (s.setF r v).out = s.out := rfl
@[simp] theorem State.setF_free (s : State) (r : Reg) (v : BitVec 32) : (s.setF r v).free = s.free := rfl

/-! ### setV -/

@[simp] theorem State.setV_mcs (s : State) (r : Reg) (v : BitVec 4096) : (s.setV r v).mcs = s.mcs := rfl
@[simp] theorem State.setV_clusters (s : State) (r : Reg) (v : BitVec 4096) : (s.setV r v).clusters = s.clusters := rfl
@[simp] theorem State.setV_dists (s : State) (r : Reg) (v : BitVec 4096) : (s.setV r v).dists = s.dists := rfl
@[simp] theorem State.setV_mem (s : State) (r : Reg) (v : BitVec 4096) : (s.setV r v).mem = s.mem := rfl
@[simp] theorem State.setV_hostMem (s : State) (r : Reg) (v : BitVec 4096) : (s.setV r v).hostMem = s.hostMem := rfl
@[simp] theorem State.setV_lines (s : State) (r : Reg) (v : BitVec 4096) : (s.setV r v).lines = s.lines := rfl
@[simp] theorem State.setV_poisoned (s : State) (r : Reg) (v : BitVec 4096) : (s.setV r v).poisoned = s.poisoned := rfl
@[simp] theorem State.setV_rings (s : State) (r : Reg) (v : BitVec 4096) : (s.setV r v).rings = s.rings := rfl
@[simp] theorem State.setV_regs (s : State) (r : Reg) (v : BitVec 4096) : (s.setV r v).regs = s.regs := rfl
@[simp] theorem State.setV_lees (s : State) (r : Reg) (v : BitVec 4096) : (s.setV r v).lees = s.lees := rfl
@[simp] theorem State.setV_pressQ (s : State) (r : Reg) (v : BitVec 4096) : (s.setV r v).pressQ = s.pressQ := rfl
@[simp] theorem State.setV_stats (s : State) (r : Reg) (v : BitVec 4096) : (s.setV r v).stats = s.stats := rfl
@[simp] theorem State.setV_routers (s : State) (r : Reg) (v : BitVec 4096) : (s.setV r v).routers = s.routers := rfl
@[simp] theorem State.setV_net (s : State) (r : Reg) (v : BitVec 4096) : (s.setV r v).net = s.net := rfl
@[simp] theorem State.setV_domains (s : State) (r : Reg) (v : BitVec 4096) : (s.setV r v).domains = s.domains := rfl
@[simp] theorem State.setV_sc (s : State) (r : Reg) (v : BitVec 4096) : (s.setV r v).sc = s.sc := rfl
@[simp] theorem State.setV_windows (s : State) (r : Reg) (v : BitVec 4096) : (s.setV r v).windows = s.windows := rfl
@[simp] theorem State.setV_det (s : State) (r : Reg) (v : BitVec 4096) : (s.setV r v).det = s.det := rfl
@[simp] theorem State.setV_launches (s : State) (r : Reg) (v : BitVec 4096) : (s.setV r v).launches = s.launches := rfl
@[simp] theorem State.setV_images (s : State) (r : Reg) (v : BitVec 4096) : (s.setV r v).images = s.images := rfl
@[simp] theorem State.setV_pkg (s : State) (r : Reg) (v : BitVec 4096) : (s.setV r v).pkg = s.pkg := rfl
@[simp] theorem State.setV_fab (s : State) (r : Reg) (v : BitVec 4096) : (s.setV r v).fab = s.fab := rfl
@[simp] theorem State.setV_hostAccs (s : State) (r : Reg) (v : BitVec 4096) : (s.setV r v).hostAccs = s.hostAccs := rfl
@[simp] theorem State.setV_hostAns (s : State) (r : Reg) (v : BitVec 4096) : (s.setV r v).hostAns = s.hostAns := rfl
@[simp] theorem State.setV_snoop (s : State) (r : Reg) (v : BitVec 4096) : (s.setV r v).snoop = s.snoop := rfl
@[simp] theorem State.setV_snoops (s : State) (r : Reg) (v : BitVec 4096) : (s.setV r v).snoops = s.snoops := rfl
@[simp] theorem State.setV_reports (s : State) (r : Reg) (v : BitVec 4096) : (s.setV r v).reports = s.reports := rfl
@[simp] theorem State.setV_markers (s : State) (r : Reg) (v : BitVec 4096) : (s.setV r v).markers = s.markers := rfl
@[simp] theorem State.setV_next (s : State) (r : Reg) (v : BitVec 4096) : (s.setV r v).next = s.next := rfl
@[simp] theorem State.setV_cycle (s : State) (r : Reg) (v : BitVec 4096) : (s.setV r v).cycle = s.cycle := rfl
@[simp] theorem State.setV_agenda (s : State) (r : Reg) (v : BitVec 4096) : (s.setV r v).agenda = s.agenda := rfl
@[simp] theorem State.setV_cur (s : State) (r : Reg) (v : BitVec 4096) : (s.setV r v).cur = s.cur := rfl
@[simp] theorem State.setV_out (s : State) (r : Reg) (v : BitVec 4096) : (s.setV r v).out = s.out := rfl
@[simp] theorem State.setV_free (s : State) (r : Reg) (v : BitVec 4096) : (s.setV r v).free = s.free := rfl

/-! ### setM -/

@[simp] theorem State.setM_mcs (s : State) (k : BitVec 3) (v : BitVec 512) : (s.setM k v).mcs = s.mcs := rfl
@[simp] theorem State.setM_clusters (s : State) (k : BitVec 3) (v : BitVec 512) : (s.setM k v).clusters = s.clusters := rfl
@[simp] theorem State.setM_dists (s : State) (k : BitVec 3) (v : BitVec 512) : (s.setM k v).dists = s.dists := rfl
@[simp] theorem State.setM_mem (s : State) (k : BitVec 3) (v : BitVec 512) : (s.setM k v).mem = s.mem := rfl
@[simp] theorem State.setM_hostMem (s : State) (k : BitVec 3) (v : BitVec 512) : (s.setM k v).hostMem = s.hostMem := rfl
@[simp] theorem State.setM_lines (s : State) (k : BitVec 3) (v : BitVec 512) : (s.setM k v).lines = s.lines := rfl
@[simp] theorem State.setM_poisoned (s : State) (k : BitVec 3) (v : BitVec 512) : (s.setM k v).poisoned = s.poisoned := rfl
@[simp] theorem State.setM_rings (s : State) (k : BitVec 3) (v : BitVec 512) : (s.setM k v).rings = s.rings := rfl
@[simp] theorem State.setM_regs (s : State) (k : BitVec 3) (v : BitVec 512) : (s.setM k v).regs = s.regs := rfl
@[simp] theorem State.setM_lees (s : State) (k : BitVec 3) (v : BitVec 512) : (s.setM k v).lees = s.lees := rfl
@[simp] theorem State.setM_pressQ (s : State) (k : BitVec 3) (v : BitVec 512) : (s.setM k v).pressQ = s.pressQ := rfl
@[simp] theorem State.setM_stats (s : State) (k : BitVec 3) (v : BitVec 512) : (s.setM k v).stats = s.stats := rfl
@[simp] theorem State.setM_routers (s : State) (k : BitVec 3) (v : BitVec 512) : (s.setM k v).routers = s.routers := rfl
@[simp] theorem State.setM_net (s : State) (k : BitVec 3) (v : BitVec 512) : (s.setM k v).net = s.net := rfl
@[simp] theorem State.setM_domains (s : State) (k : BitVec 3) (v : BitVec 512) : (s.setM k v).domains = s.domains := rfl
@[simp] theorem State.setM_sc (s : State) (k : BitVec 3) (v : BitVec 512) : (s.setM k v).sc = s.sc := rfl
@[simp] theorem State.setM_windows (s : State) (k : BitVec 3) (v : BitVec 512) : (s.setM k v).windows = s.windows := rfl
@[simp] theorem State.setM_det (s : State) (k : BitVec 3) (v : BitVec 512) : (s.setM k v).det = s.det := rfl
@[simp] theorem State.setM_launches (s : State) (k : BitVec 3) (v : BitVec 512) : (s.setM k v).launches = s.launches := rfl
@[simp] theorem State.setM_images (s : State) (k : BitVec 3) (v : BitVec 512) : (s.setM k v).images = s.images := rfl
@[simp] theorem State.setM_pkg (s : State) (k : BitVec 3) (v : BitVec 512) : (s.setM k v).pkg = s.pkg := rfl
@[simp] theorem State.setM_fab (s : State) (k : BitVec 3) (v : BitVec 512) : (s.setM k v).fab = s.fab := rfl
@[simp] theorem State.setM_hostAccs (s : State) (k : BitVec 3) (v : BitVec 512) : (s.setM k v).hostAccs = s.hostAccs := rfl
@[simp] theorem State.setM_hostAns (s : State) (k : BitVec 3) (v : BitVec 512) : (s.setM k v).hostAns = s.hostAns := rfl
@[simp] theorem State.setM_snoop (s : State) (k : BitVec 3) (v : BitVec 512) : (s.setM k v).snoop = s.snoop := rfl
@[simp] theorem State.setM_snoops (s : State) (k : BitVec 3) (v : BitVec 512) : (s.setM k v).snoops = s.snoops := rfl
@[simp] theorem State.setM_reports (s : State) (k : BitVec 3) (v : BitVec 512) : (s.setM k v).reports = s.reports := rfl
@[simp] theorem State.setM_markers (s : State) (k : BitVec 3) (v : BitVec 512) : (s.setM k v).markers = s.markers := rfl
@[simp] theorem State.setM_next (s : State) (k : BitVec 3) (v : BitVec 512) : (s.setM k v).next = s.next := rfl
@[simp] theorem State.setM_cycle (s : State) (k : BitVec 3) (v : BitVec 512) : (s.setM k v).cycle = s.cycle := rfl
@[simp] theorem State.setM_agenda (s : State) (k : BitVec 3) (v : BitVec 512) : (s.setM k v).agenda = s.agenda := rfl
@[simp] theorem State.setM_cur (s : State) (k : BitVec 3) (v : BitVec 512) : (s.setM k v).cur = s.cur := rfl
@[simp] theorem State.setM_out (s : State) (k : BitVec 3) (v : BitVec 512) : (s.setM k v).out = s.out := rfl
@[simp] theorem State.setM_free (s : State) (k : BitVec 3) (v : BitVec 512) : (s.setM k v).free = s.free := rfl

/-! ### post -/

@[simp] theorem State.post_cores (s : State) (m : Msg) : (s.post m).cores = s.cores := rfl
@[simp] theorem State.post_mcs (s : State) (m : Msg) : (s.post m).mcs = s.mcs := rfl
@[simp] theorem State.post_clusters (s : State) (m : Msg) : (s.post m).clusters = s.clusters := rfl
@[simp] theorem State.post_dists (s : State) (m : Msg) : (s.post m).dists = s.dists := rfl
@[simp] theorem State.post_mem (s : State) (m : Msg) : (s.post m).mem = s.mem := rfl
@[simp] theorem State.post_hostMem (s : State) (m : Msg) : (s.post m).hostMem = s.hostMem := rfl
@[simp] theorem State.post_lines (s : State) (m : Msg) : (s.post m).lines = s.lines := rfl
@[simp] theorem State.post_poisoned (s : State) (m : Msg) : (s.post m).poisoned = s.poisoned := rfl
@[simp] theorem State.post_rings (s : State) (m : Msg) : (s.post m).rings = s.rings := rfl
@[simp] theorem State.post_regs (s : State) (m : Msg) : (s.post m).regs = s.regs := rfl
@[simp] theorem State.post_lees (s : State) (m : Msg) : (s.post m).lees = s.lees := rfl
@[simp] theorem State.post_pressQ (s : State) (m : Msg) : (s.post m).pressQ = s.pressQ := rfl
@[simp] theorem State.post_stats (s : State) (m : Msg) : (s.post m).stats = s.stats := rfl
@[simp] theorem State.post_routers (s : State) (m : Msg) : (s.post m).routers = s.routers := rfl
@[simp] theorem State.post_domains (s : State) (m : Msg) : (s.post m).domains = s.domains := rfl
@[simp] theorem State.post_sc (s : State) (m : Msg) : (s.post m).sc = s.sc := rfl
@[simp] theorem State.post_windows (s : State) (m : Msg) : (s.post m).windows = s.windows := rfl
@[simp] theorem State.post_det (s : State) (m : Msg) : (s.post m).det = s.det := rfl
@[simp] theorem State.post_launches (s : State) (m : Msg) : (s.post m).launches = s.launches := rfl
@[simp] theorem State.post_images (s : State) (m : Msg) : (s.post m).images = s.images := rfl
@[simp] theorem State.post_pkg (s : State) (m : Msg) : (s.post m).pkg = s.pkg := rfl
@[simp] theorem State.post_fab (s : State) (m : Msg) : (s.post m).fab = s.fab := rfl
@[simp] theorem State.post_hostAccs (s : State) (m : Msg) : (s.post m).hostAccs = s.hostAccs := rfl
@[simp] theorem State.post_hostAns (s : State) (m : Msg) : (s.post m).hostAns = s.hostAns := rfl
@[simp] theorem State.post_snoop (s : State) (m : Msg) : (s.post m).snoop = s.snoop := rfl
@[simp] theorem State.post_snoops (s : State) (m : Msg) : (s.post m).snoops = s.snoops := rfl
@[simp] theorem State.post_reports (s : State) (m : Msg) : (s.post m).reports = s.reports := rfl
@[simp] theorem State.post_markers (s : State) (m : Msg) : (s.post m).markers = s.markers := rfl
@[simp] theorem State.post_next (s : State) (m : Msg) : (s.post m).next = s.next := rfl
@[simp] theorem State.post_cycle (s : State) (m : Msg) : (s.post m).cycle = s.cycle := rfl
@[simp] theorem State.post_agenda (s : State) (m : Msg) : (s.post m).agenda = s.agenda := rfl
@[simp] theorem State.post_cur (s : State) (m : Msg) : (s.post m).cur = s.cur := rfl
@[simp] theorem State.post_out (s : State) (m : Msg) : (s.post m).out = s.out := rfl
@[simp] theorem State.post_free (s : State) (m : Msg) : (s.post m).free = s.free := rfl

/-! ### take -/

@[simp] theorem State.take_cores (s : State) (k : Nat) : (s.take k).cores = s.cores := rfl
@[simp] theorem State.take_mcs (s : State) (k : Nat) : (s.take k).mcs = s.mcs := rfl
@[simp] theorem State.take_clusters (s : State) (k : Nat) : (s.take k).clusters = s.clusters := rfl
@[simp] theorem State.take_dists (s : State) (k : Nat) : (s.take k).dists = s.dists := rfl
@[simp] theorem State.take_mem (s : State) (k : Nat) : (s.take k).mem = s.mem := rfl
@[simp] theorem State.take_hostMem (s : State) (k : Nat) : (s.take k).hostMem = s.hostMem := rfl
@[simp] theorem State.take_lines (s : State) (k : Nat) : (s.take k).lines = s.lines := rfl
@[simp] theorem State.take_poisoned (s : State) (k : Nat) : (s.take k).poisoned = s.poisoned := rfl
@[simp] theorem State.take_rings (s : State) (k : Nat) : (s.take k).rings = s.rings := rfl
@[simp] theorem State.take_regs (s : State) (k : Nat) : (s.take k).regs = s.regs := rfl
@[simp] theorem State.take_lees (s : State) (k : Nat) : (s.take k).lees = s.lees := rfl
@[simp] theorem State.take_pressQ (s : State) (k : Nat) : (s.take k).pressQ = s.pressQ := rfl
@[simp] theorem State.take_stats (s : State) (k : Nat) : (s.take k).stats = s.stats := rfl
@[simp] theorem State.take_routers (s : State) (k : Nat) : (s.take k).routers = s.routers := rfl
@[simp] theorem State.take_domains (s : State) (k : Nat) : (s.take k).domains = s.domains := rfl
@[simp] theorem State.take_sc (s : State) (k : Nat) : (s.take k).sc = s.sc := rfl
@[simp] theorem State.take_windows (s : State) (k : Nat) : (s.take k).windows = s.windows := rfl
@[simp] theorem State.take_det (s : State) (k : Nat) : (s.take k).det = s.det := rfl
@[simp] theorem State.take_launches (s : State) (k : Nat) : (s.take k).launches = s.launches := rfl
@[simp] theorem State.take_images (s : State) (k : Nat) : (s.take k).images = s.images := rfl
@[simp] theorem State.take_pkg (s : State) (k : Nat) : (s.take k).pkg = s.pkg := rfl
@[simp] theorem State.take_fab (s : State) (k : Nat) : (s.take k).fab = s.fab := rfl
@[simp] theorem State.take_hostAccs (s : State) (k : Nat) : (s.take k).hostAccs = s.hostAccs := rfl
@[simp] theorem State.take_hostAns (s : State) (k : Nat) : (s.take k).hostAns = s.hostAns := rfl
@[simp] theorem State.take_snoop (s : State) (k : Nat) : (s.take k).snoop = s.snoop := rfl
@[simp] theorem State.take_snoops (s : State) (k : Nat) : (s.take k).snoops = s.snoops := rfl
@[simp] theorem State.take_reports (s : State) (k : Nat) : (s.take k).reports = s.reports := rfl
@[simp] theorem State.take_markers (s : State) (k : Nat) : (s.take k).markers = s.markers := rfl
@[simp] theorem State.take_next (s : State) (k : Nat) : (s.take k).next = s.next := rfl
@[simp] theorem State.take_cycle (s : State) (k : Nat) : (s.take k).cycle = s.cycle := rfl
@[simp] theorem State.take_agenda (s : State) (k : Nat) : (s.take k).agenda = s.agenda := rfl
@[simp] theorem State.take_cur (s : State) (k : Nat) : (s.take k).cur = s.cur := rfl
@[simp] theorem State.take_out (s : State) (k : Nat) : (s.take k).out = s.out := rfl
@[simp] theorem State.take_free (s : State) (k : Nat) : (s.take k).free = s.free := rfl

/-! ### tell -/

@[simp] theorem State.tell_cores (s : State) (k : Nat) (ws : List Word) : (s.tell k ws).cores = s.cores := rfl
@[simp] theorem State.tell_mcs (s : State) (k : Nat) (ws : List Word) : (s.tell k ws).mcs = s.mcs := rfl
@[simp] theorem State.tell_clusters (s : State) (k : Nat) (ws : List Word) : (s.tell k ws).clusters = s.clusters := rfl
@[simp] theorem State.tell_dists (s : State) (k : Nat) (ws : List Word) : (s.tell k ws).dists = s.dists := rfl
@[simp] theorem State.tell_mem (s : State) (k : Nat) (ws : List Word) : (s.tell k ws).mem = s.mem := rfl
@[simp] theorem State.tell_hostMem (s : State) (k : Nat) (ws : List Word) : (s.tell k ws).hostMem = s.hostMem := rfl
@[simp] theorem State.tell_lines (s : State) (k : Nat) (ws : List Word) : (s.tell k ws).lines = s.lines := rfl
@[simp] theorem State.tell_poisoned (s : State) (k : Nat) (ws : List Word) : (s.tell k ws).poisoned = s.poisoned := rfl
@[simp] theorem State.tell_rings (s : State) (k : Nat) (ws : List Word) : (s.tell k ws).rings = s.rings := rfl
@[simp] theorem State.tell_regs (s : State) (k : Nat) (ws : List Word) : (s.tell k ws).regs = s.regs := rfl
@[simp] theorem State.tell_lees (s : State) (k : Nat) (ws : List Word) : (s.tell k ws).lees = s.lees := rfl
@[simp] theorem State.tell_pressQ (s : State) (k : Nat) (ws : List Word) : (s.tell k ws).pressQ = s.pressQ := rfl
@[simp] theorem State.tell_stats (s : State) (k : Nat) (ws : List Word) : (s.tell k ws).stats = s.stats := rfl
@[simp] theorem State.tell_routers (s : State) (k : Nat) (ws : List Word) : (s.tell k ws).routers = s.routers := rfl
@[simp] theorem State.tell_net (s : State) (k : Nat) (ws : List Word) : (s.tell k ws).net = s.net := rfl
@[simp] theorem State.tell_domains (s : State) (k : Nat) (ws : List Word) : (s.tell k ws).domains = s.domains := rfl
@[simp] theorem State.tell_sc (s : State) (k : Nat) (ws : List Word) : (s.tell k ws).sc = s.sc := rfl
@[simp] theorem State.tell_windows (s : State) (k : Nat) (ws : List Word) : (s.tell k ws).windows = s.windows := rfl
@[simp] theorem State.tell_det (s : State) (k : Nat) (ws : List Word) : (s.tell k ws).det = s.det := rfl
@[simp] theorem State.tell_launches (s : State) (k : Nat) (ws : List Word) : (s.tell k ws).launches = s.launches := rfl
@[simp] theorem State.tell_images (s : State) (k : Nat) (ws : List Word) : (s.tell k ws).images = s.images := rfl
@[simp] theorem State.tell_pkg (s : State) (k : Nat) (ws : List Word) : (s.tell k ws).pkg = s.pkg := rfl
@[simp] theorem State.tell_fab (s : State) (k : Nat) (ws : List Word) : (s.tell k ws).fab = s.fab := rfl
@[simp] theorem State.tell_hostAccs (s : State) (k : Nat) (ws : List Word) : (s.tell k ws).hostAccs = s.hostAccs := rfl
@[simp] theorem State.tell_hostAns (s : State) (k : Nat) (ws : List Word) : (s.tell k ws).hostAns = s.hostAns := rfl
@[simp] theorem State.tell_snoop (s : State) (k : Nat) (ws : List Word) : (s.tell k ws).snoop = s.snoop := rfl
@[simp] theorem State.tell_snoops (s : State) (k : Nat) (ws : List Word) : (s.tell k ws).snoops = s.snoops := rfl
@[simp] theorem State.tell_markers (s : State) (k : Nat) (ws : List Word) : (s.tell k ws).markers = s.markers := rfl
@[simp] theorem State.tell_next (s : State) (k : Nat) (ws : List Word) : (s.tell k ws).next = s.next := rfl
@[simp] theorem State.tell_cycle (s : State) (k : Nat) (ws : List Word) : (s.tell k ws).cycle = s.cycle := rfl
@[simp] theorem State.tell_agenda (s : State) (k : Nat) (ws : List Word) : (s.tell k ws).agenda = s.agenda := rfl
@[simp] theorem State.tell_cur (s : State) (k : Nat) (ws : List Word) : (s.tell k ws).cur = s.cur := rfl
@[simp] theorem State.tell_out (s : State) (k : Nat) (ws : List Word) : (s.tell k ws).out = s.out := rfl
@[simp] theorem State.tell_free (s : State) (k : Nat) (ws : List Word) : (s.tell k ws).free = s.free := rfl

/-! ### fresh -/

@[simp] theorem State.fresh_cores (s : State) : (s.fresh).cores = s.cores := rfl
@[simp] theorem State.fresh_mcs (s : State) : (s.fresh).mcs = s.mcs := rfl
@[simp] theorem State.fresh_clusters (s : State) : (s.fresh).clusters = s.clusters := rfl
@[simp] theorem State.fresh_dists (s : State) : (s.fresh).dists = s.dists := rfl
@[simp] theorem State.fresh_mem (s : State) : (s.fresh).mem = s.mem := rfl
@[simp] theorem State.fresh_hostMem (s : State) : (s.fresh).hostMem = s.hostMem := rfl
@[simp] theorem State.fresh_lines (s : State) : (s.fresh).lines = s.lines := rfl
@[simp] theorem State.fresh_poisoned (s : State) : (s.fresh).poisoned = s.poisoned := rfl
@[simp] theorem State.fresh_rings (s : State) : (s.fresh).rings = s.rings := rfl
@[simp] theorem State.fresh_regs (s : State) : (s.fresh).regs = s.regs := rfl
@[simp] theorem State.fresh_lees (s : State) : (s.fresh).lees = s.lees := rfl
@[simp] theorem State.fresh_pressQ (s : State) : (s.fresh).pressQ = s.pressQ := rfl
@[simp] theorem State.fresh_stats (s : State) : (s.fresh).stats = s.stats := rfl
@[simp] theorem State.fresh_routers (s : State) : (s.fresh).routers = s.routers := rfl
@[simp] theorem State.fresh_net (s : State) : (s.fresh).net = s.net := rfl
@[simp] theorem State.fresh_domains (s : State) : (s.fresh).domains = s.domains := rfl
@[simp] theorem State.fresh_sc (s : State) : (s.fresh).sc = s.sc := rfl
@[simp] theorem State.fresh_windows (s : State) : (s.fresh).windows = s.windows := rfl
@[simp] theorem State.fresh_det (s : State) : (s.fresh).det = s.det := rfl
@[simp] theorem State.fresh_launches (s : State) : (s.fresh).launches = s.launches := rfl
@[simp] theorem State.fresh_images (s : State) : (s.fresh).images = s.images := rfl
@[simp] theorem State.fresh_pkg (s : State) : (s.fresh).pkg = s.pkg := rfl
@[simp] theorem State.fresh_fab (s : State) : (s.fresh).fab = s.fab := rfl
@[simp] theorem State.fresh_hostAccs (s : State) : (s.fresh).hostAccs = s.hostAccs := rfl
@[simp] theorem State.fresh_hostAns (s : State) : (s.fresh).hostAns = s.hostAns := rfl
@[simp] theorem State.fresh_snoop (s : State) : (s.fresh).snoop = s.snoop := rfl
@[simp] theorem State.fresh_snoops (s : State) : (s.fresh).snoops = s.snoops := rfl
@[simp] theorem State.fresh_reports (s : State) : (s.fresh).reports = s.reports := rfl
@[simp] theorem State.fresh_markers (s : State) : (s.fresh).markers = s.markers := rfl
@[simp] theorem State.fresh_next (s : State) : (s.fresh).next = s.next := rfl
@[simp] theorem State.fresh_cycle (s : State) : (s.fresh).cycle = s.cycle := rfl
@[simp] theorem State.fresh_agenda (s : State) : (s.fresh).agenda = s.agenda := rfl
@[simp] theorem State.fresh_cur (s : State) : (s.fresh).cur = s.cur := rfl
@[simp] theorem State.fresh_out (s : State) : (s.fresh).out = s.out := rfl

/-! ### advance and goto -/

@[simp] theorem State.goto_mcs (s : State) (t : Word) : (s.goto t).mcs = s.mcs := rfl
@[simp] theorem State.goto_clusters (s : State) (t : Word) : (s.goto t).clusters = s.clusters := rfl
@[simp] theorem State.goto_dists (s : State) (t : Word) : (s.goto t).dists = s.dists := rfl
@[simp] theorem State.goto_mem (s : State) (t : Word) : (s.goto t).mem = s.mem := rfl
@[simp] theorem State.goto_hostMem (s : State) (t : Word) : (s.goto t).hostMem = s.hostMem := rfl
@[simp] theorem State.goto_lines (s : State) (t : Word) : (s.goto t).lines = s.lines := rfl
@[simp] theorem State.goto_poisoned (s : State) (t : Word) : (s.goto t).poisoned = s.poisoned := rfl
@[simp] theorem State.goto_rings (s : State) (t : Word) : (s.goto t).rings = s.rings := rfl
@[simp] theorem State.goto_regs (s : State) (t : Word) : (s.goto t).regs = s.regs := rfl
@[simp] theorem State.goto_lees (s : State) (t : Word) : (s.goto t).lees = s.lees := rfl
@[simp] theorem State.goto_pressQ (s : State) (t : Word) : (s.goto t).pressQ = s.pressQ := rfl
@[simp] theorem State.goto_stats (s : State) (t : Word) : (s.goto t).stats = s.stats := rfl
@[simp] theorem State.goto_routers (s : State) (t : Word) : (s.goto t).routers = s.routers := rfl
@[simp] theorem State.goto_net (s : State) (t : Word) : (s.goto t).net = s.net := rfl
@[simp] theorem State.goto_domains (s : State) (t : Word) : (s.goto t).domains = s.domains := rfl
@[simp] theorem State.goto_sc (s : State) (t : Word) : (s.goto t).sc = s.sc := rfl
@[simp] theorem State.goto_windows (s : State) (t : Word) : (s.goto t).windows = s.windows := rfl
@[simp] theorem State.goto_det (s : State) (t : Word) : (s.goto t).det = s.det := rfl
@[simp] theorem State.goto_launches (s : State) (t : Word) : (s.goto t).launches = s.launches := rfl
@[simp] theorem State.goto_images (s : State) (t : Word) : (s.goto t).images = s.images := rfl
@[simp] theorem State.goto_pkg (s : State) (t : Word) : (s.goto t).pkg = s.pkg := rfl
@[simp] theorem State.goto_fab (s : State) (t : Word) : (s.goto t).fab = s.fab := rfl
@[simp] theorem State.goto_hostAccs (s : State) (t : Word) : (s.goto t).hostAccs = s.hostAccs := rfl
@[simp] theorem State.goto_hostAns (s : State) (t : Word) : (s.goto t).hostAns = s.hostAns := rfl
@[simp] theorem State.goto_snoop (s : State) (t : Word) : (s.goto t).snoop = s.snoop := rfl
@[simp] theorem State.goto_snoops (s : State) (t : Word) : (s.goto t).snoops = s.snoops := rfl
@[simp] theorem State.goto_reports (s : State) (t : Word) : (s.goto t).reports = s.reports := rfl
@[simp] theorem State.goto_markers (s : State) (t : Word) : (s.goto t).markers = s.markers := rfl
@[simp] theorem State.goto_next (s : State) (t : Word) : (s.goto t).next = s.next := rfl
@[simp] theorem State.goto_cycle (s : State) (t : Word) : (s.goto t).cycle = s.cycle := rfl
@[simp] theorem State.goto_agenda (s : State) (t : Word) : (s.goto t).agenda = s.agenda := rfl
@[simp] theorem State.goto_cur (s : State) (t : Word) : (s.goto t).cur = s.cur := rfl
@[simp] theorem State.goto_free (s : State) (t : Word) : (s.goto t).free = s.free := rfl
@[simp] theorem State.goto_out (s : State) (t : Word) : (s.goto t).out = .done := rfl
@[simp] theorem State.advance_mcs (s : State) : (s.advance).mcs = s.mcs := rfl
@[simp] theorem State.advance_clusters (s : State) : (s.advance).clusters = s.clusters := rfl
@[simp] theorem State.advance_dists (s : State) : (s.advance).dists = s.dists := rfl
@[simp] theorem State.advance_mem (s : State) : (s.advance).mem = s.mem := rfl
@[simp] theorem State.advance_hostMem (s : State) : (s.advance).hostMem = s.hostMem := rfl
@[simp] theorem State.advance_lines (s : State) : (s.advance).lines = s.lines := rfl
@[simp] theorem State.advance_poisoned (s : State) : (s.advance).poisoned = s.poisoned := rfl
@[simp] theorem State.advance_rings (s : State) : (s.advance).rings = s.rings := rfl
@[simp] theorem State.advance_regs (s : State) : (s.advance).regs = s.regs := rfl
@[simp] theorem State.advance_lees (s : State) : (s.advance).lees = s.lees := rfl
@[simp] theorem State.advance_pressQ (s : State) : (s.advance).pressQ = s.pressQ := rfl
@[simp] theorem State.advance_stats (s : State) : (s.advance).stats = s.stats := rfl
@[simp] theorem State.advance_routers (s : State) : (s.advance).routers = s.routers := rfl
@[simp] theorem State.advance_net (s : State) : (s.advance).net = s.net := rfl
@[simp] theorem State.advance_domains (s : State) : (s.advance).domains = s.domains := rfl
@[simp] theorem State.advance_sc (s : State) : (s.advance).sc = s.sc := rfl
@[simp] theorem State.advance_windows (s : State) : (s.advance).windows = s.windows := rfl
@[simp] theorem State.advance_det (s : State) : (s.advance).det = s.det := rfl
@[simp] theorem State.advance_launches (s : State) : (s.advance).launches = s.launches := rfl
@[simp] theorem State.advance_images (s : State) : (s.advance).images = s.images := rfl
@[simp] theorem State.advance_pkg (s : State) : (s.advance).pkg = s.pkg := rfl
@[simp] theorem State.advance_fab (s : State) : (s.advance).fab = s.fab := rfl
@[simp] theorem State.advance_hostAccs (s : State) : (s.advance).hostAccs = s.hostAccs := rfl
@[simp] theorem State.advance_hostAns (s : State) : (s.advance).hostAns = s.hostAns := rfl
@[simp] theorem State.advance_snoop (s : State) : (s.advance).snoop = s.snoop := rfl
@[simp] theorem State.advance_snoops (s : State) : (s.advance).snoops = s.snoops := rfl
@[simp] theorem State.advance_reports (s : State) : (s.advance).reports = s.reports := rfl
@[simp] theorem State.advance_markers (s : State) : (s.advance).markers = s.markers := rfl
@[simp] theorem State.advance_next (s : State) : (s.advance).next = s.next := rfl
@[simp] theorem State.advance_cycle (s : State) : (s.advance).cycle = s.cycle := rfl
@[simp] theorem State.advance_agenda (s : State) : (s.advance).agenda = s.agenda := rfl
@[simp] theorem State.advance_cur (s : State) : (s.advance).cur = s.cur := rfl
@[simp] theorem State.advance_free (s : State) : (s.advance).free = s.free := rfl
@[simp] theorem State.advance_out (s : State) : (s.advance).out = .done := rfl
@[simp] theorem State.park_mcs (s : State) (l : Life) : (s.park l).mcs = s.mcs := rfl
@[simp] theorem State.park_clusters (s : State) (l : Life) : (s.park l).clusters = s.clusters := rfl
@[simp] theorem State.park_dists (s : State) (l : Life) : (s.park l).dists = s.dists := rfl
@[simp] theorem State.park_mem (s : State) (l : Life) : (s.park l).mem = s.mem := rfl
@[simp] theorem State.park_hostMem (s : State) (l : Life) : (s.park l).hostMem = s.hostMem := rfl
@[simp] theorem State.park_lines (s : State) (l : Life) : (s.park l).lines = s.lines := rfl
@[simp] theorem State.park_poisoned (s : State) (l : Life) : (s.park l).poisoned = s.poisoned := rfl
@[simp] theorem State.park_rings (s : State) (l : Life) : (s.park l).rings = s.rings := rfl
@[simp] theorem State.park_regs (s : State) (l : Life) : (s.park l).regs = s.regs := rfl
@[simp] theorem State.park_lees (s : State) (l : Life) : (s.park l).lees = s.lees := rfl
@[simp] theorem State.park_pressQ (s : State) (l : Life) : (s.park l).pressQ = s.pressQ := rfl
@[simp] theorem State.park_stats (s : State) (l : Life) : (s.park l).stats = s.stats := rfl
@[simp] theorem State.park_routers (s : State) (l : Life) : (s.park l).routers = s.routers := rfl
@[simp] theorem State.park_net (s : State) (l : Life) : (s.park l).net = s.net := rfl
@[simp] theorem State.park_domains (s : State) (l : Life) : (s.park l).domains = s.domains := rfl
@[simp] theorem State.park_sc (s : State) (l : Life) : (s.park l).sc = s.sc := rfl
@[simp] theorem State.park_windows (s : State) (l : Life) : (s.park l).windows = s.windows := rfl
@[simp] theorem State.park_det (s : State) (l : Life) : (s.park l).det = s.det := rfl
@[simp] theorem State.park_launches (s : State) (l : Life) : (s.park l).launches = s.launches := rfl
@[simp] theorem State.park_images (s : State) (l : Life) : (s.park l).images = s.images := rfl
@[simp] theorem State.park_pkg (s : State) (l : Life) : (s.park l).pkg = s.pkg := rfl
@[simp] theorem State.park_fab (s : State) (l : Life) : (s.park l).fab = s.fab := rfl
@[simp] theorem State.park_hostAccs (s : State) (l : Life) : (s.park l).hostAccs = s.hostAccs := rfl
@[simp] theorem State.park_hostAns (s : State) (l : Life) : (s.park l).hostAns = s.hostAns := rfl
@[simp] theorem State.park_snoop (s : State) (l : Life) : (s.park l).snoop = s.snoop := rfl
@[simp] theorem State.park_snoops (s : State) (l : Life) : (s.park l).snoops = s.snoops := rfl
@[simp] theorem State.park_reports (s : State) (l : Life) : (s.park l).reports = s.reports := rfl
@[simp] theorem State.park_markers (s : State) (l : Life) : (s.park l).markers = s.markers := rfl
@[simp] theorem State.park_next (s : State) (l : Life) : (s.park l).next = s.next := rfl
@[simp] theorem State.park_cycle (s : State) (l : Life) : (s.park l).cycle = s.cycle := rfl
@[simp] theorem State.park_agenda (s : State) (l : Life) : (s.park l).agenda = s.agenda := rfl
@[simp] theorem State.park_cur (s : State) (l : Life) : (s.park l).cur = s.cur := rfl
@[simp] theorem State.park_free (s : State) (l : Life) : (s.park l).free = s.free := rfl
@[simp] theorem State.park_out (s : State) (l : Life) : (s.park l).out = .done := rfl
@[simp] theorem State.holdOn_mcs (s : State) (h : Hold) : (s.holdOn h).mcs = s.mcs := rfl
@[simp] theorem State.holdOn_clusters (s : State) (h : Hold) : (s.holdOn h).clusters = s.clusters := rfl
@[simp] theorem State.holdOn_dists (s : State) (h : Hold) : (s.holdOn h).dists = s.dists := rfl
@[simp] theorem State.holdOn_mem (s : State) (h : Hold) : (s.holdOn h).mem = s.mem := rfl
@[simp] theorem State.holdOn_hostMem (s : State) (h : Hold) : (s.holdOn h).hostMem = s.hostMem := rfl
@[simp] theorem State.holdOn_lines (s : State) (h : Hold) : (s.holdOn h).lines = s.lines := rfl
@[simp] theorem State.holdOn_poisoned (s : State) (h : Hold) : (s.holdOn h).poisoned = s.poisoned := rfl
@[simp] theorem State.holdOn_rings (s : State) (h : Hold) : (s.holdOn h).rings = s.rings := rfl
@[simp] theorem State.holdOn_regs (s : State) (h : Hold) : (s.holdOn h).regs = s.regs := rfl
@[simp] theorem State.holdOn_lees (s : State) (h : Hold) : (s.holdOn h).lees = s.lees := rfl
@[simp] theorem State.holdOn_pressQ (s : State) (h : Hold) : (s.holdOn h).pressQ = s.pressQ := rfl
@[simp] theorem State.holdOn_stats (s : State) (h : Hold) : (s.holdOn h).stats = s.stats := rfl
@[simp] theorem State.holdOn_routers (s : State) (h : Hold) : (s.holdOn h).routers = s.routers := rfl
@[simp] theorem State.holdOn_net (s : State) (h : Hold) : (s.holdOn h).net = s.net := rfl
@[simp] theorem State.holdOn_domains (s : State) (h : Hold) : (s.holdOn h).domains = s.domains := rfl
@[simp] theorem State.holdOn_sc (s : State) (h : Hold) : (s.holdOn h).sc = s.sc := rfl
@[simp] theorem State.holdOn_windows (s : State) (h : Hold) : (s.holdOn h).windows = s.windows := rfl
@[simp] theorem State.holdOn_det (s : State) (h : Hold) : (s.holdOn h).det = s.det := rfl
@[simp] theorem State.holdOn_launches (s : State) (h : Hold) : (s.holdOn h).launches = s.launches := rfl
@[simp] theorem State.holdOn_images (s : State) (h : Hold) : (s.holdOn h).images = s.images := rfl
@[simp] theorem State.holdOn_pkg (s : State) (h : Hold) : (s.holdOn h).pkg = s.pkg := rfl
@[simp] theorem State.holdOn_fab (s : State) (h : Hold) : (s.holdOn h).fab = s.fab := rfl
@[simp] theorem State.holdOn_hostAccs (s : State) (h : Hold) : (s.holdOn h).hostAccs = s.hostAccs := rfl
@[simp] theorem State.holdOn_hostAns (s : State) (h : Hold) : (s.holdOn h).hostAns = s.hostAns := rfl
@[simp] theorem State.holdOn_snoop (s : State) (h : Hold) : (s.holdOn h).snoop = s.snoop := rfl
@[simp] theorem State.holdOn_snoops (s : State) (h : Hold) : (s.holdOn h).snoops = s.snoops := rfl
@[simp] theorem State.holdOn_reports (s : State) (h : Hold) : (s.holdOn h).reports = s.reports := rfl
@[simp] theorem State.holdOn_markers (s : State) (h : Hold) : (s.holdOn h).markers = s.markers := rfl
@[simp] theorem State.holdOn_next (s : State) (h : Hold) : (s.holdOn h).next = s.next := rfl
@[simp] theorem State.holdOn_cycle (s : State) (h : Hold) : (s.holdOn h).cycle = s.cycle := rfl
@[simp] theorem State.holdOn_agenda (s : State) (h : Hold) : (s.holdOn h).agenda = s.agenda := rfl
@[simp] theorem State.holdOn_cur (s : State) (h : Hold) : (s.holdOn h).cur = s.cur := rfl
@[simp] theorem State.holdOn_free (s : State) (h : Hold) : (s.holdOn h).free = s.free := rfl
@[simp] theorem State.holdOn_out (s : State) (h : Hold) : (s.holdOn h).out = .done := rfl

/-! ### Core.setCtx -/

@[simp] theorem Core.setCtx_disabled (c : Core) (n : Fin 11) (x : Ctx) : (c.setCtx n x).disabled = c.disabled := rfl
@[simp] theorem Core.setCtx_marked (c : Core) (n : Fin 11) (x : Ctx) : (c.setCtx n x).marked = c.marked := rfl
@[simp] theorem Core.setCtx_frozen (c : Core) (n : Fin 11) (x : Ctx) : (c.setCtx n x).frozen = c.frozen := rfl
@[simp] theorem Core.setCtx_team (c : Core) (n : Fin 11) (x : Ctx) : (c.setCtx n x).team = c.team := rfl
@[simp] theorem Core.setCtx_gang (c : Core) (n : Fin 11) (x : Ctx) : (c.setCtx n x).gang = c.gang := rfl
@[simp] theorem Core.setCtx_ftrap (c : Core) (n : Fin 11) (x : Ctx) : (c.setCtx n x).ftrap = c.ftrap := rfl
@[simp] theorem Core.setCtx_aqb (c : Core) (n : Fin 11) (x : Ctx) : (c.setCtx n x).aqb = c.aqb := rfl
@[simp] theorem Core.setCtx_hmax (c : Core) (n : Fin 11) (x : Ctx) : (c.setCtx n x).hmax = c.hmax := rfl
@[simp] theorem Core.setCtx_mx (c : Core) (n : Fin 11) (x : Ctx) : (c.setCtx n x).mx = c.mx := rfl
@[simp] theorem Core.setCtx_l1b (c : Core) (n : Fin 11) (x : Ctx) : (c.setCtx n x).l1b = c.l1b := rfl
@[simp] theorem Core.setCtx_sync (c : Core) (n : Fin 11) (x : Ctx) : (c.setCtx n x).sync = c.sync := rfl
@[simp] theorem Core.setCtx_hnext (c : Core) (n : Fin 11) (x : Ctx) : (c.setCtx n x).hnext = c.hnext := rfl
@[simp] theorem Core.setCtx_pad (c : Core) (n : Fin 11) (x : Ctx) : (c.setCtx n x).pad = c.pad := rfl
@[simp] theorem Core.setCtx_full (c : Core) (n : Fin 11) (x : Ctx) : (c.setCtx n x).full = c.full := rfl
@[simp] theorem Core.setCtx_fills (c : Core) (n : Fin 11) (x : Ctx) : (c.setCtx n x).fills = c.fills := rfl
@[simp] theorem Core.setCtx_padErr (c : Core) (n : Fin 11) (x : Ctx) : (c.setCtx n x).padErr = c.padErr := rfl
@[simp] theorem Core.setCtx_canErr (c : Core) (n : Fin 11) (x : Ctx) : (c.setCtx n x).canErr = c.canErr := rfl
@[simp] theorem Core.setCtx_z (c : Core) (n : Fin 11) (x : Ctx) : (c.setCtx n x).z = c.z := rfl
@[simp] theorem Core.setCtx_canopy (c : Core) (n : Fin 11) (x : Ctx) : (c.setCtx n x).canopy = c.canopy := rfl
@[simp] theorem Core.setCtx_amax (c : Core) (n : Fin 11) (x : Ctx) : (c.setCtx n x).amax = c.amax := rfl
@[simp] theorem Core.setCtx_kmcap (c : Core) (n : Fin 11) (x : Ctx) : (c.setCtx n x).kmcap = c.kmcap := rfl
@[simp] theorem Core.setCtx_chans (c : Core) (n : Fin 11) (x : Ctx) : (c.setCtx n x).chans = c.chans := rfl
@[simp] theorem Core.setCtx_disc (c : Core) (n : Fin 11) (x : Ctx) : (c.setCtx n x).disc = c.disc := rfl
@[simp] theorem Core.setCtx_staged (c : Core) (n : Fin 11) (x : Ctx) : (c.setCtx n x).staged = c.staged := rfl
@[simp] theorem Core.setCtx_wantRoom (c : Core) (n : Fin 11) (x : Ctx) : (c.setCtx n x).wantRoom = c.wantRoom := rfl
@[simp] theorem Core.setCtx_timed (c : Core) (n : Fin 11) (x : Ctx) : (c.setCtx n x).timed = c.timed := rfl
@[simp] theorem Core.setCtx_timedHeld (c : Core) (n : Fin 11) (x : Ctx) : (c.setCtx n x).timedHeld = c.timedHeld := rfl
@[simp] theorem Core.setCtx_mq (c : Core) (n : Fin 11) (x : Ctx) : (c.setCtx n x).mq = c.mq := rfl
@[simp] theorem Core.setCtx_mrun (c : Core) (n : Fin 11) (x : Ctx) : (c.setCtx n x).mrun = c.mrun := rfl
@[simp] theorem Core.setCtx_cq (c : Core) (n : Fin 11) (x : Ctx) : (c.setCtx n x).cq = c.cq := rfl
@[simp] theorem Core.setCtx_casks (c : Core) (n : Fin 11) (x : Ctx) : (c.setCtx n x).casks = c.casks := rfl
@[simp] theorem Core.setCtx_held (c : Core) (n : Fin 11) (x : Ctx) : (c.setCtx n x).held = c.held := rfl
@[simp] theorem Core.setCtx_cb (c : Core) (n : Fin 11) (x : Ctx) : (c.setCtx n x).cb = c.cb := rfl
@[simp] theorem Core.setCtx_pred (c : Core) (n : Fin 11) (x : Ctx) : (c.setCtx n x).pred = c.pred := rfl
@[simp] theorem Core.setCtx_l1 (c : Core) (n : Fin 11) (x : Ctx) : (c.setCtx n x).l1 = c.l1 := rfl
@[simp] theorem Core.setCtx_tlb (c : Core) (n : Fin 11) (x : Ctx) : (c.setCtx n x).tlb = c.tlb := rfl
@[simp] theorem Core.setCtx_accs (c : Core) (n : Fin 11) (x : Ctx) : (c.setCtx n x).accs = c.accs := rfl
@[simp] theorem Core.setCtx_nextAge (c : Core) (n : Fin 11) (x : Ctx) : (c.setCtx n x).nextAge = c.nextAge := rfl
@[simp] theorem Core.setCtx_ran (c : Core) (n : Fin 11) (x : Ctx) : (c.setCtx n x).ran = c.ran := rfl

/-! ### Register writes of a context -/

@[simp] theorem Ctx.wf_life (c : Ctx) (r : Reg) (v : BitVec 32) : (c.wf r v).life = c.life := rfl
@[simp] theorem Ctx.wf_hold (c : Ctx) (r : Reg) (v : BitVec 32) : (c.wf r v).hold = c.hold := rfl
@[simp] theorem Ctx.wf_pc (c : Ctx) (r : Reg) (v : BitVec 32) : (c.wf r v).pc = c.pc := rfl
@[simp] theorem Ctx.wf_x (c : Ctx) (r : Reg) (v : BitVec 32) : (c.wf r v).x = c.x := rfl
@[simp] theorem Ctx.wf_v (c : Ctx) (r : Reg) (v : BitVec 32) : (c.wf r v).v = c.v := rfl
@[simp] theorem Ctx.wf_m (c : Ctx) (r : Reg) (v : BitVec 32) : (c.wf r v).m = c.m := rfl
@[simp] theorem Ctx.wf_sig (c : Ctx) (r : Reg) (v : BitVec 32) : (c.wf r v).sig = c.sig := rfl
@[simp] theorem Ctx.wf_csr (c : Ctx) (r : Reg) (v : BitVec 32) : (c.wf r v).csr = c.csr := rfl
@[simp] theorem Ctx.wf_pad (c : Ctx) (r : Reg) (v : BitVec 32) : (c.wf r v).pad = c.pad := rfl
@[simp] theorem Ctx.wf_streams (c : Ctx) (r : Reg) (v : BitVec 32) : (c.wf r v).streams = c.streams := rfl
@[simp] theorem Ctx.wf_took (c : Ctx) (r : Reg) (v : BitVec 32) : (c.wf r v).took = c.took := rfl
@[simp] theorem Ctx.wf_handles (c : Ctx) (r : Reg) (v : BitVec 32) : (c.wf r v).handles = c.handles := rfl
@[simp] theorem Ctx.wf_leases (c : Ctx) (r : Reg) (v : BitVec 32) : (c.wf r v).leases = c.leases := rfl
@[simp] theorem Ctx.wf_nPush (c : Ctx) (r : Reg) (v : BitVec 32) : (c.wf r v).nPush = c.nPush := rfl
@[simp] theorem Ctx.wf_nCopy (c : Ctx) (r : Reg) (v : BitVec 32) : (c.wf r v).nCopy = c.nCopy := rfl
@[simp] theorem Ctx.wf_nCall (c : Ctx) (r : Reg) (v : BitVec 32) : (c.wf r v).nCall = c.nCall := rfl
@[simp] theorem Ctx.wf_done (c : Ctx) (r : Reg) (v : BitVec 32) : (c.wf r v).done = c.done := rfl
@[simp] theorem Ctx.wf_pushed (c : Ctx) (r : Reg) (v : BitVec 32) : (c.wf r v).pushed = c.pushed := rfl
@[simp] theorem Ctx.wf_sentOut (c : Ctx) (r : Reg) (v : BitVec 32) : (c.wf r v).sentOut = c.sentOut := rfl
@[simp] theorem Ctx.wf_exitVal (c : Ctx) (r : Reg) (v : BitVec 32) : (c.wf r v).exitVal = c.exitVal := rfl
@[simp] theorem Ctx.wf_rep (c : Ctx) (r : Reg) (v : BitVec 32) : (c.wf r v).rep = c.rep := rfl
@[simp] theorem Ctx.wf_deferred (c : Ctx) (r : Reg) (v : BitVec 32) : (c.wf r v).deferred = c.deferred := rfl
@[simp] theorem Ctx.wf_toks (c : Ctx) (r : Reg) (v : BitVec 32) : (c.wf r v).toks = c.toks := rfl
@[simp] theorem Ctx.wf_tokens (c : Ctx) (r : Reg) (v : BitVec 32) : (c.wf r v).tokens = c.tokens := rfl
@[simp] theorem Ctx.wf_busyX (c : Ctx) (r : Reg) (v : BitVec 32) : (c.wf r v).busyX = c.busyX := rfl
@[simp] theorem Ctx.wf_taskqs (c : Ctx) (r : Reg) (v : BitVec 32) : (c.wf r v).taskqs = c.taskqs := rfl
@[simp] theorem Ctx.wf_cursor (c : Ctx) (r : Reg) (v : BitVec 32) : (c.wf r v).cursor = c.cursor := rfl
@[simp] theorem Ctx.wf_last (c : Ctx) (r : Reg) (v : BitVec 32) : (c.wf r v).last = c.last := rfl
@[simp] theorem Ctx.wf_granted (c : Ctx) (r : Reg) (v : BitVec 32) : (c.wf r v).granted = c.granted := rfl
@[simp] theorem Ctx.wv_life (c : Ctx) (r : Reg) (v : BitVec 4096) : (c.wv r v).life = c.life := rfl
@[simp] theorem Ctx.wv_hold (c : Ctx) (r : Reg) (v : BitVec 4096) : (c.wv r v).hold = c.hold := rfl
@[simp] theorem Ctx.wv_pc (c : Ctx) (r : Reg) (v : BitVec 4096) : (c.wv r v).pc = c.pc := rfl
@[simp] theorem Ctx.wv_x (c : Ctx) (r : Reg) (v : BitVec 4096) : (c.wv r v).x = c.x := rfl
@[simp] theorem Ctx.wv_f (c : Ctx) (r : Reg) (v : BitVec 4096) : (c.wv r v).f = c.f := rfl
@[simp] theorem Ctx.wv_m (c : Ctx) (r : Reg) (v : BitVec 4096) : (c.wv r v).m = c.m := rfl
@[simp] theorem Ctx.wv_sig (c : Ctx) (r : Reg) (v : BitVec 4096) : (c.wv r v).sig = c.sig := rfl
@[simp] theorem Ctx.wv_csr (c : Ctx) (r : Reg) (v : BitVec 4096) : (c.wv r v).csr = c.csr := rfl
@[simp] theorem Ctx.wv_pad (c : Ctx) (r : Reg) (v : BitVec 4096) : (c.wv r v).pad = c.pad := rfl
@[simp] theorem Ctx.wv_streams (c : Ctx) (r : Reg) (v : BitVec 4096) : (c.wv r v).streams = c.streams := rfl
@[simp] theorem Ctx.wv_took (c : Ctx) (r : Reg) (v : BitVec 4096) : (c.wv r v).took = c.took := rfl
@[simp] theorem Ctx.wv_handles (c : Ctx) (r : Reg) (v : BitVec 4096) : (c.wv r v).handles = c.handles := rfl
@[simp] theorem Ctx.wv_leases (c : Ctx) (r : Reg) (v : BitVec 4096) : (c.wv r v).leases = c.leases := rfl
@[simp] theorem Ctx.wv_nPush (c : Ctx) (r : Reg) (v : BitVec 4096) : (c.wv r v).nPush = c.nPush := rfl
@[simp] theorem Ctx.wv_nCopy (c : Ctx) (r : Reg) (v : BitVec 4096) : (c.wv r v).nCopy = c.nCopy := rfl
@[simp] theorem Ctx.wv_nCall (c : Ctx) (r : Reg) (v : BitVec 4096) : (c.wv r v).nCall = c.nCall := rfl
@[simp] theorem Ctx.wv_done (c : Ctx) (r : Reg) (v : BitVec 4096) : (c.wv r v).done = c.done := rfl
@[simp] theorem Ctx.wv_pushed (c : Ctx) (r : Reg) (v : BitVec 4096) : (c.wv r v).pushed = c.pushed := rfl
@[simp] theorem Ctx.wv_sentOut (c : Ctx) (r : Reg) (v : BitVec 4096) : (c.wv r v).sentOut = c.sentOut := rfl
@[simp] theorem Ctx.wv_exitVal (c : Ctx) (r : Reg) (v : BitVec 4096) : (c.wv r v).exitVal = c.exitVal := rfl
@[simp] theorem Ctx.wv_rep (c : Ctx) (r : Reg) (v : BitVec 4096) : (c.wv r v).rep = c.rep := rfl
@[simp] theorem Ctx.wv_deferred (c : Ctx) (r : Reg) (v : BitVec 4096) : (c.wv r v).deferred = c.deferred := rfl
@[simp] theorem Ctx.wv_toks (c : Ctx) (r : Reg) (v : BitVec 4096) : (c.wv r v).toks = c.toks := rfl
@[simp] theorem Ctx.wv_tokens (c : Ctx) (r : Reg) (v : BitVec 4096) : (c.wv r v).tokens = c.tokens := rfl
@[simp] theorem Ctx.wv_busyX (c : Ctx) (r : Reg) (v : BitVec 4096) : (c.wv r v).busyX = c.busyX := rfl
@[simp] theorem Ctx.wv_taskqs (c : Ctx) (r : Reg) (v : BitVec 4096) : (c.wv r v).taskqs = c.taskqs := rfl
@[simp] theorem Ctx.wv_cursor (c : Ctx) (r : Reg) (v : BitVec 4096) : (c.wv r v).cursor = c.cursor := rfl
@[simp] theorem Ctx.wv_last (c : Ctx) (r : Reg) (v : BitVec 4096) : (c.wv r v).last = c.last := rfl
@[simp] theorem Ctx.wv_granted (c : Ctx) (r : Reg) (v : BitVec 4096) : (c.wv r v).granted = c.granted := rfl
@[simp] theorem Ctx.wm_life (c : Ctx) (k : BitVec 3) (v : BitVec 512) : (c.wm k v).life = c.life := rfl
@[simp] theorem Ctx.wm_hold (c : Ctx) (k : BitVec 3) (v : BitVec 512) : (c.wm k v).hold = c.hold := rfl
@[simp] theorem Ctx.wm_pc (c : Ctx) (k : BitVec 3) (v : BitVec 512) : (c.wm k v).pc = c.pc := rfl
@[simp] theorem Ctx.wm_x (c : Ctx) (k : BitVec 3) (v : BitVec 512) : (c.wm k v).x = c.x := rfl
@[simp] theorem Ctx.wm_f (c : Ctx) (k : BitVec 3) (v : BitVec 512) : (c.wm k v).f = c.f := rfl
@[simp] theorem Ctx.wm_v (c : Ctx) (k : BitVec 3) (v : BitVec 512) : (c.wm k v).v = c.v := rfl
@[simp] theorem Ctx.wm_sig (c : Ctx) (k : BitVec 3) (v : BitVec 512) : (c.wm k v).sig = c.sig := rfl
@[simp] theorem Ctx.wm_csr (c : Ctx) (k : BitVec 3) (v : BitVec 512) : (c.wm k v).csr = c.csr := rfl
@[simp] theorem Ctx.wm_pad (c : Ctx) (k : BitVec 3) (v : BitVec 512) : (c.wm k v).pad = c.pad := rfl
@[simp] theorem Ctx.wm_streams (c : Ctx) (k : BitVec 3) (v : BitVec 512) : (c.wm k v).streams = c.streams := rfl
@[simp] theorem Ctx.wm_took (c : Ctx) (k : BitVec 3) (v : BitVec 512) : (c.wm k v).took = c.took := rfl
@[simp] theorem Ctx.wm_handles (c : Ctx) (k : BitVec 3) (v : BitVec 512) : (c.wm k v).handles = c.handles := rfl
@[simp] theorem Ctx.wm_leases (c : Ctx) (k : BitVec 3) (v : BitVec 512) : (c.wm k v).leases = c.leases := rfl
@[simp] theorem Ctx.wm_nPush (c : Ctx) (k : BitVec 3) (v : BitVec 512) : (c.wm k v).nPush = c.nPush := rfl
@[simp] theorem Ctx.wm_nCopy (c : Ctx) (k : BitVec 3) (v : BitVec 512) : (c.wm k v).nCopy = c.nCopy := rfl
@[simp] theorem Ctx.wm_nCall (c : Ctx) (k : BitVec 3) (v : BitVec 512) : (c.wm k v).nCall = c.nCall := rfl
@[simp] theorem Ctx.wm_done (c : Ctx) (k : BitVec 3) (v : BitVec 512) : (c.wm k v).done = c.done := rfl
@[simp] theorem Ctx.wm_pushed (c : Ctx) (k : BitVec 3) (v : BitVec 512) : (c.wm k v).pushed = c.pushed := rfl
@[simp] theorem Ctx.wm_sentOut (c : Ctx) (k : BitVec 3) (v : BitVec 512) : (c.wm k v).sentOut = c.sentOut := rfl
@[simp] theorem Ctx.wm_exitVal (c : Ctx) (k : BitVec 3) (v : BitVec 512) : (c.wm k v).exitVal = c.exitVal := rfl
@[simp] theorem Ctx.wm_rep (c : Ctx) (k : BitVec 3) (v : BitVec 512) : (c.wm k v).rep = c.rep := rfl
@[simp] theorem Ctx.wm_deferred (c : Ctx) (k : BitVec 3) (v : BitVec 512) : (c.wm k v).deferred = c.deferred := rfl
@[simp] theorem Ctx.wm_toks (c : Ctx) (k : BitVec 3) (v : BitVec 512) : (c.wm k v).toks = c.toks := rfl
@[simp] theorem Ctx.wm_tokens (c : Ctx) (k : BitVec 3) (v : BitVec 512) : (c.wm k v).tokens = c.tokens := rfl
@[simp] theorem Ctx.wm_busyX (c : Ctx) (k : BitVec 3) (v : BitVec 512) : (c.wm k v).busyX = c.busyX := rfl
@[simp] theorem Ctx.wm_taskqs (c : Ctx) (k : BitVec 3) (v : BitVec 512) : (c.wm k v).taskqs = c.taskqs := rfl
@[simp] theorem Ctx.wm_cursor (c : Ctx) (k : BitVec 3) (v : BitVec 512) : (c.wm k v).cursor = c.cursor := rfl
@[simp] theorem Ctx.wm_last (c : Ctx) (k : BitVec 3) (v : BitVec 512) : (c.wm k v).last = c.last := rfl
@[simp] theorem Ctx.wm_granted (c : Ctx) (k : BitVec 3) (v : BitVec 512) : (c.wm k v).granted = c.granted := rfl
@[simp] theorem Ctx.wx_life (c : Ctx) (r : Reg) (v : Word) : (c.wx r v).life = c.life := by
  unfold Ctx.wx; split <;> rfl
@[simp] theorem Ctx.wx_hold (c : Ctx) (r : Reg) (v : Word) : (c.wx r v).hold = c.hold := by
  unfold Ctx.wx; split <;> rfl
@[simp] theorem Ctx.wx_pc (c : Ctx) (r : Reg) (v : Word) : (c.wx r v).pc = c.pc := by
  unfold Ctx.wx; split <;> rfl
@[simp] theorem Ctx.wx_f (c : Ctx) (r : Reg) (v : Word) : (c.wx r v).f = c.f := by
  unfold Ctx.wx; split <;> rfl
@[simp] theorem Ctx.wx_v (c : Ctx) (r : Reg) (v : Word) : (c.wx r v).v = c.v := by
  unfold Ctx.wx; split <;> rfl
@[simp] theorem Ctx.wx_m (c : Ctx) (r : Reg) (v : Word) : (c.wx r v).m = c.m := by
  unfold Ctx.wx; split <;> rfl
@[simp] theorem Ctx.wx_sig (c : Ctx) (r : Reg) (v : Word) : (c.wx r v).sig = c.sig := by
  unfold Ctx.wx; split <;> rfl
@[simp] theorem Ctx.wx_csr (c : Ctx) (r : Reg) (v : Word) : (c.wx r v).csr = c.csr := by
  unfold Ctx.wx; split <;> rfl
@[simp] theorem Ctx.wx_pad (c : Ctx) (r : Reg) (v : Word) : (c.wx r v).pad = c.pad := by
  unfold Ctx.wx; split <;> rfl
@[simp] theorem Ctx.wx_streams (c : Ctx) (r : Reg) (v : Word) : (c.wx r v).streams = c.streams := by
  unfold Ctx.wx; split <;> rfl
@[simp] theorem Ctx.wx_took (c : Ctx) (r : Reg) (v : Word) : (c.wx r v).took = c.took := by
  unfold Ctx.wx; split <;> rfl
@[simp] theorem Ctx.wx_handles (c : Ctx) (r : Reg) (v : Word) : (c.wx r v).handles = c.handles := by
  unfold Ctx.wx; split <;> rfl
@[simp] theorem Ctx.wx_leases (c : Ctx) (r : Reg) (v : Word) : (c.wx r v).leases = c.leases := by
  unfold Ctx.wx; split <;> rfl
@[simp] theorem Ctx.wx_nPush (c : Ctx) (r : Reg) (v : Word) : (c.wx r v).nPush = c.nPush := by
  unfold Ctx.wx; split <;> rfl
@[simp] theorem Ctx.wx_nCopy (c : Ctx) (r : Reg) (v : Word) : (c.wx r v).nCopy = c.nCopy := by
  unfold Ctx.wx; split <;> rfl
@[simp] theorem Ctx.wx_nCall (c : Ctx) (r : Reg) (v : Word) : (c.wx r v).nCall = c.nCall := by
  unfold Ctx.wx; split <;> rfl
@[simp] theorem Ctx.wx_done (c : Ctx) (r : Reg) (v : Word) : (c.wx r v).done = c.done := by
  unfold Ctx.wx; split <;> rfl
@[simp] theorem Ctx.wx_pushed (c : Ctx) (r : Reg) (v : Word) : (c.wx r v).pushed = c.pushed := by
  unfold Ctx.wx; split <;> rfl
@[simp] theorem Ctx.wx_sentOut (c : Ctx) (r : Reg) (v : Word) : (c.wx r v).sentOut = c.sentOut := by
  unfold Ctx.wx; split <;> rfl
@[simp] theorem Ctx.wx_exitVal (c : Ctx) (r : Reg) (v : Word) : (c.wx r v).exitVal = c.exitVal := by
  unfold Ctx.wx; split <;> rfl
@[simp] theorem Ctx.wx_rep (c : Ctx) (r : Reg) (v : Word) : (c.wx r v).rep = c.rep := by
  unfold Ctx.wx; split <;> rfl
@[simp] theorem Ctx.wx_deferred (c : Ctx) (r : Reg) (v : Word) : (c.wx r v).deferred = c.deferred := by
  unfold Ctx.wx; split <;> rfl
@[simp] theorem Ctx.wx_toks (c : Ctx) (r : Reg) (v : Word) : (c.wx r v).toks = c.toks := by
  unfold Ctx.wx; split <;> rfl
/-- The register that is written holds no call token any more (R493). -/
@[simp] theorem Ctx.wx_tokens (c : Ctx) (r : Reg) (v : Word) : (c.wx r v).tokens = if r = 0 then c.tokens else mdel c.tokens r.toNat := by
  unfold Ctx.wx; split <;> rfl
@[simp] theorem Ctx.wx_granted (c : Ctx) (r : Reg) (v : Word) : (c.wx r v).granted = c.granted := by
  unfold Ctx.wx; split <;> rfl
@[simp] theorem Ctx.wx_busyX (c : Ctx) (r : Reg) (v : Word) : (c.wx r v).busyX = c.busyX := by
  unfold Ctx.wx; split <;> rfl
@[simp] theorem Ctx.wx_taskqs (c : Ctx) (r : Reg) (v : Word) : (c.wx r v).taskqs = c.taskqs := by
  unfold Ctx.wx; split <;> rfl
@[simp] theorem Ctx.wx_cursor (c : Ctx) (r : Reg) (v : Word) : (c.wx r v).cursor = c.cursor := by
  unfold Ctx.wx; split <;> rfl
@[simp] theorem Ctx.wx_last (c : Ctx) (r : Reg) (v : Word) : (c.wx r v).last = c.last := by
  unfold Ctx.wx; split <;> rfl

end Sys2Proof.Machine
end

