-- ==== Sys2Proof/Laws/Regs.lean ====
section
/-! SUPPORT.
Reading registers, contexts and cores after writing them, and what the shared ends of an instruction do. -/

namespace Sys2Proof.Machine

open Sys2Proof

/-! ## Registers -/

theorem Ctx.rx_zero (c : Ctx) : c.rx 0 = 0 := rfl

theorem Ctx.wx_zero (c : Ctx) (v : Word) : c.wx 0 v = c := rfl

theorem Ctx.rx_wx (c : Ctx) (r q : Reg) (v : Word) : (c.wx r v).rx q = if q = 0 then 0 else if q = r then v else c.rx q := by
  unfold Ctx.rx Ctx.wx
  by_cases hq : q = 0
  · simp [hq]
  · by_cases hr : r = 0
    · subst hr; simp only [if_true, if_neg hq]
    · simp only [hq, hr, if_false]
      by_cases h : q = r
      · subst h; simp
      · have : r.toNat ≠ q.toNat := fun e => h (BitVec.eq_of_toNat_eq e.symm)
        simp [h, this]

theorem Ctx.rf_wf (c : Ctx) (r q : Reg) (v : BitVec 32) : (c.wf r v).rf q = if q = r then v else c.rf q := by
  unfold Ctx.rf Ctx.wf
  by_cases h : q = r
  · subst h; simp
  · have : r.toNat ≠ q.toNat := fun e => h (BitVec.eq_of_toNat_eq e.symm)
    simp [h, this]

theorem Ctx.rv_wv (c : Ctx) (r q : Reg) (v : BitVec 4096) : (c.wv r v).rv q = if q = r then v else c.rv q := by
  unfold Ctx.rv Ctx.wv
  by_cases h : q = r
  · subst h; simp
  · have : r.toNat ≠ q.toNat := fun e => h (BitVec.eq_of_toNat_eq e.symm)
    simp [h, this]

theorem Ctx.rm_wm (c : Ctx) (r q : BitVec 3) (v : BitVec 512) : (c.wm r v).rm q = if q = r then v else c.rm q := by
  unfold Ctx.rm Ctx.wm
  by_cases h : q = r
  · subst h; simp
  · have : r.toNat ≠ q.toNat := fun e => h (BitVec.eq_of_toNat_eq e.symm)
    simp [h, this]

/-! ## Cores and contexts -/

@[simp] theorem Core.ctx_setCtx_self (c : Core) (n : Fin 11) (x : Ctx) : (c.setCtx n x).ctx n = x := by
  simp [Core.ctx, Core.setCtx]

theorem Core.ctx_setCtx (c : Core) (n m : Fin 11) (x : Ctx) : (c.setCtx n x).ctx m = if m = n then x else c.ctx m := by
  by_cases h : m = n
  · subst h; simp
  · have : n.val ≠ m.val := fun e => h (Fin.ext e.symm)
    simp [Core.ctx, Core.setCtx, h, this]

theorem State.core_setCore (s : State) (ep e : Nat) (c : Core) : (s.setCore ep c).core e = if e = ep then c else s.core e := by
  simp only [State.core, State.setCore, mgetD, mget_mput]
  split <;> simp

@[simp] theorem State.core_setCore_self (s : State) (ep : Nat) (c : Core) : (s.setCore ep c).core ep = c := by
  simp [State.core_setCore]

theorem State.ctxAt_setCtxAt (s : State) (ep e : Nat) (n m : Fin 11) (x : Ctx) :
    (s.setCtxAt ep n x).ctxAt e m = if e = ep ∧ m = n then x else s.ctxAt e m := by
  simp only [State.ctxAt, State.setCtxAt, State.core_setCore]
  by_cases he : e = ep
  · subst he; simp [Core.ctx_setCtx]
  · simp [he]

@[simp] theorem State.ctx_setCtx (s : State) (x : Ctx) : (s.setCtx x).ctx = x := by
  simp [State.ctx, State.me, State.setCtx, State.setCtxAt]

@[simp] theorem State.x_def (s : State) (r : Reg) : s.x r = s.ctx.rx r := rfl

theorem State.mc_setMc (s : State) (e f : Nat) (m : MemCore) : (s.setMc e m).mc f = if f = e then m else s.mc f := by
  simp only [State.mc, State.setMc, mgetD, mget_mput]
  split <;> simp

theorem State.dist_setDist (s : State) (d e : Nat) (x : Dist) : (s.setDist d x).dist e = if e = d then x else s.dist e := by
  simp only [State.dist, State.setDist, mgetD, mget_mput]
  split <;> simp

theorem State.cluster_setCluster (s : State) (c e : Nat) (x : Cluster) :
    (s.setCluster c x).cluster e = if e = c then x else s.cluster e := by
  simp only [State.cluster, State.setCluster, mgetD, mget_mput]
  split <;> simp

/-! ## The ends of an instruction -/

/-- An instruction that completes leaves the context at pc + 4 and everything else as it is. -/
theorem State.ctx_advance (s : State) : s.advance.ctx = { s.ctx with pc := s.ctx.pc + 4, cursor := 0 } := by
  have h : s.advance.ctx = (s.setCtx { s.ctx with pc := s.pc + 4, cursor := 0 }).ctx := rfl
  rw [h, State.ctx_setCtx]; rfl

theorem State.ctxAt_advance_ne (s : State) (ep : Nat) (n : Fin 11) (h : ¬(ep = s.cur.1 ∧ n = s.cur.2)) :
    s.advance.ctxAt ep n = s.ctxAt ep n := by
  have e : s.advance.ctxAt ep n = (s.setCtxAt s.cur.1 s.cur.2 { s.ctx with pc := s.pc + 4, cursor := 0 }).ctxAt ep n := rfl
  rw [e, State.ctxAt_setCtxAt, if_neg h]

/-- What completing can do. -/
theorem retire_next {s t : State} (h : retire s = .next t) : t = s.advance := by
  unfold retire at h; injection h with h; exact h.symm

/-- A stall changes nothing but the outcome that a gang reads. -/
theorem stall_next {s t : State} (h : stall s = .next t) : t = { s with out := .stalled } := by
  unfold stall at h; injection h with h; exact h.symm

/-- A trap always has a next state, which records the cause and the value. -/
theorem trap_next (code : BitVec 6) (tval : Word) (s : State) :
    trap code tval s = .next { s.takeTrap s.cur.1 s.cur.2 code false true s.pc tval with out := .trapped code tval } := rfl

/-- Trap entry, outside a gang and with a vector: the context at hand enters, nothing else changes. -/
theorem State.takeTrap_enter (s : State) (ep : Nat) (n : Fin 11) (code : BitVec 6) (async imm : Bool) (epc tval : Word)
    (hg : (s.core ep).gang.g = false) (hv : (s.ctxAt ep n).csr.tvec ≠ 0) :
    s.takeTrap ep n code async imm epc tval =
      s.setCtxAt ep n ((s.ctxAt ep n).enterTrap code async imm epc tval) := by
  unfold State.takeTrap
  rw [if_neg (by simp [hg]), if_neg hv]; rfl

/-- A held instruction: the context keeps its pc and everything but its hold. -/
theorem State.ctx_holdOn (s : State) (h : Hold) : (s.holdOn h).ctx = { s.ctx with hold := h } := by
  have e : (s.holdOn h).ctx = (s.setCtx { s.ctx with hold := h }).ctx := rfl
  rw [e, State.ctx_setCtx]

theorem State.ctx_park (s : State) (l : Life) : (s.park l).ctx = { s.ctx with life := l } := by
  have e : (s.park l).ctx = (s.setCtx { s.ctx with life := l }).ctx := rfl
  rw [e, State.ctx_setCtx]

end Sys2Proof.Machine
end

