-- ==== Sys2Proof/Laws/Access.lean ====
section
/-! SUPPORT.
What a scalar access of one page does: its pieces, its place, and how it ends. -/

namespace Sys2Proof.Machine

open Sys2Proof

/-- The widths of scalar accesses (R70). -/
abbrev ScalarWidth (n : Nat) : Prop := n = 1 ∨ n = 2 ∨ n = 4 ∨ n = 8

theorem chunkMask_scalar (a : Word) (n : Nat) (hn : ScalarWidth n) : chunkMask (maskRun 512 0 n) (a, 0, n) ≠ 0 := by
  have h : ∀ m : Fin 9, ScalarWidth m.val → (maskRun 512 0 m.val).toNat / 2 ^ 0 % 2 ^ m.val ≠ 0 := by decide +kernel
  exact h ⟨n, by omega⟩ hn

theorem portions_one (c : Chunk) : portions [c] = [[c]] := by
  simp [portions, List.eraseDups_cons]

/-- A single portion merges with nothing. -/
theorem mergeMisses_one (p : List Chunk × Where) : mergeMisses [p] = [p] := by simp [mergeMisses]

/-- Translation touches the L1 TLB of the core alone. -/
theorem State.lookup_core (s : State) (ep : Nat) (o : BitVec 16) (a : Word) :
    ∃ l, (s.lookup ep o a).1 = s ∨ (s.lookup ep o a).1 = s.setCore ep { s.core ep with tlb := l } := by
  unfold State.lookup
  split
  · exact ⟨_, Or.inr rfl⟩
  · split
    · split
      · exact ⟨[], Or.inl rfl⟩
      · exact ⟨_, Or.inr rfl⟩
    · exact ⟨[], Or.inl rfl⟩

theorem State.translate_core (s : State) (ep : Nat) (need : Need) (a : Word) :
    ∃ l, (s.translate ep need a).1 = s ∨ (s.translate ep need a).1 = s.setCore ep { s.core ep with tlb := l } := by
  have h : (s.translate ep need a).1 = (s.look ep a).1 := by
    unfold State.translate; simp only; split
    · rfl
    · split <;> rfl
  rw [h]; unfold State.look; split
  · exact ⟨[], Or.inl rfl⟩
  · exact s.lookup_core ep _ a

/-- What translation leaves alone, for a state that it yields. -/
theorem State.translate_keeps {s u : State} {ep : Nat} {need : Need} {a : Word} {r : Tr} (h : s.translate ep need a = (u, r)) :
    u.cur = s.cur ∧ (u.core ep).accs = (s.core ep).accs ∧ (u.core ep).nextAge = (s.core ep).nextAge ∧ u.fab = s.fab ∧
      ∀ e n, u.ctxAt e n = s.ctxAt e n := by
  have e : u = (s.translate ep need a).1 := by rw [h]
  obtain ⟨l, hl | hl⟩ := s.translate_core ep need a
  · rw [e, hl]; exact ⟨rfl, rfl, rfl, rfl, fun _ _ => rfl⟩
  · rw [e, hl]
    refine ⟨rfl, by simp, by simp, rfl, fun d n => ?_⟩
    simp only [State.ctxAt, State.core_setCore]
    split
    · next h => subst h; rfl
    · rfl

/-- Where no outstanding access meets the pieces, no earlier read takes its value before them. -/
theorem State.readOlder_free {s : State} {ep : Nat} {n : Fin 11} {cs : List Chunk} (h : s.lineBusy ep n false cs = false) :
    s.readOlder ep n cs = s := by
  have hf : (s.core ep).accs.filter (fun a => a.ctx == n && a.unread && meets a.chunks cs) = [] := by
    rw [List.filter_eq_nil_iff]
    intro a ha hc
    simp only [State.lineBusy, List.any_eq_false] at h
    refine h a ha ?_
    simp only [Bool.and_eq_true] at hc ⊢
    refine ⟨⟨hc.1.1, ?_⟩, hc.2⟩
    have hu := hc.1.2
    unfold Acc.unread at hu
    unfold Acc.blocks Acc.heldLine Stage.settled
    cases hop : a.op <;> cases hst : a.stage <;> simp_all
  unfold State.readOlder; rw [hf]; rfl

/-- A scalar access whose page of this device is found reaches its portion, and then its end. -/
theorem State.scalar_page {s u : State} {op : AccOp} {a : Word} {n : Nat} {data : Word} {dst : Dst} {t : Tlb}
    (hn : ScalarWidth n) (hal : a.toNat % n = 0) (hd : aDev a = s.dev) (hw : aWin a = false)
    (hl : s.lineBusy s.cur.1 s.cur.2 (decide (op.need = .read)) [(a, 0, n)] = false) (hq : s.acquiring s.cur.1 s.cur.2 = false) (hr : s.rangeBusy s.cur.1 [(a, 0, n)] = false)
    (ht : s.me.tickets ≤ 16) (hm : s.me.remotes s.dev ≤ 256)
    (htr : s.translate s.cur.1 op.need a = (u, .ok t (t.pa a)))
    (hh : op.need = .read ∨ t.cls ≠ .host ∨ u.heldSectors (t.pa a / 128) (lineForm [(a, 0, n)] (maskRun 512 0 n) 0).1 true = []) :
    s.scalar op a n data dst =
      (u.issuePortion u.me.nextAge op (maskRun 512 0 n) (data.zeroExtend 4096) dst
        ([(a, 0, n)], .page (.ok t (t.pa a)))).endAccess u.me.nextAge := by
  have hk := State.translate_keeps htr
  have hcm := chunkMask_scalar a n hn
  unfold State.scalar
  rw [if_neg (by simp [hal])]
  unfold State.access
  have hf : ([(a, 0, n)] : List Chunk).filter (fun c => decide (chunkMask (maskRun 512 0 n) c ≠ 0)) = [(a, 0, n)] := by
    simp [hcm]
  have hold : (if decide (op.need = .read) = true then s else s.readOlder s.cur.1 s.cur.2 [(a, 0, n)]) = s := by
    split
    · rfl
    · next h => exact State.readOlder_free (by simpa [h] using hl)
  have hacq : s.heldAcquire s.cur.1 [(a, 0, n)] = false := by simp [State.heldAcquire, State.syncPiece, hw]
  simp only [hf, hold, hl, hq, hacq, hr, portions_one, State.locate, List.headD_cons, hd, hw, htr, Bool.false_eq_true, and_false, or_self,
    if_false, ne_eq, not_true_eq_false]
  have hfe : ∀ b : Bool, (if b = true then s.firstEmpty s.cur.1 (maskRun 512 0 n)
      (([([(a, 0, n)], Where.page (.ok t (t.pa a)))] : List (List Chunk × Where)).filter
        (fun p => decide (p.2 = Where.window)) |>.flatMap (·.1)) else none) = none := by
    intro b; cases b <;> simp [State.firstEmpty]
  have hent : s.me.ticketRoom (entriesOf [([(a, 0, n)], Where.page (.ok t (t.pa a)))]) = true := by
    simp [entriesOf, Core.ticketRoom, Config.nTickets, ht]
  have hrem : (decide (s.me.remotes s.dev + remotesOf [([(a, 0, n)], Where.page (.ok t (t.pa a)))] ≤ Config.nRemote)) = true := by
    simpa [remotesOf, linesOf, Config.nRemote] using hm
  have himg : s.imageBusy (decide (op.need = .read)) (maskRun 512 0 n) [([(a, 0, n)], Where.page (.ok t (t.pa a)))] = false := by
    simp [State.imageBusy]
  simp only [mergeMisses_one, hfe, hent, hrem, himg, Bool.not_true, Bool.false_eq_true, Bool.true_or, or_self, if_false]
  rw [if_neg]
  · simp only [List.foldl]
  · rintro ⟨h1, h2⟩
    have hnr : op.need ≠ .read := by
      intro h
      cases op <;> simp only [AccOp.need, AccOp.plain, Bool.false_eq_true] at h h1 <;> try contradiction
      split at h <;> contradiction
    apply h2
    rcases hh with h | h | h
    · exact absurd h hnr
    · simp [State.hostWaits, h]
    · simp only [State.hostWaits, List.flatMap_cons, List.flatMap_nil, List.append_nil, hnr, decide_false, Bool.not_false]
      split
      · exact h
      · rfl

/-- The accesses of a new group are the ones that have just been added. -/
theorem State.group_addAcc (s : State) (ep : Nat) (a : Acc) (g : Nat) (hg : a.grp = g) (hn : ∀ x ∈ (s.core ep).accs, x.grp ≠ g) :
    (s.addAcc ep a).group ep g = [{ a with age := (s.core ep).nextAge, ent := (s.core ep).entFor a }] := by
  unfold State.group State.addAcc State.modCore
  rw [State.core_setCore_self]
  simp only [List.filter_append]
  rw [List.filter_eq_nil_iff.mpr (by intro x hx; simp [hn x hx])]
  simp [hg]

end Sys2Proof.Machine
end

