-- ==== Sys2Proof/Laws/Encoding.lean ====
section
/-! SUPPORT.
The fields of a packed word, and of a field. -/

namespace Sys2Proof

/-- A field of a field. -/
theorem fld_fld {n : Nat} (w : BitVec n) (a m lo len : Nat) (h : lo + len ≤ m) :
    fld (fld w a m) lo len = fld w (a + lo) len := by
  simp only [fld]; ext i hi; simp [Nat.add_assoc]; omega

/-- All of a word as a field. -/
@[simp] theorem fld_all {n : Nat} (w : BitVec n) : fld w 0 n = w := by
  simp only [fld]; ext i hi; simp

variable (f7 : BitVec 7) (b a : BitVec 5) (f3 : BitVec 3) (d : BitVec 5) (op : BitVec 7)

@[simp] theorem fld_pack_f7 : fld (pack f7 b a f3 d op) 25 7 = f7 := by
  simp only [pack, fld]; ext i hi; simp; grind
@[simp] theorem fld_pack_rs2 : fld (pack f7 b a f3 d op) 20 5 = b := by
  simp only [pack, fld]; ext i hi; simp; grind
@[simp] theorem fld_pack_rs1 : fld (pack f7 b a f3 d op) 15 5 = a := by
  simp only [pack, fld]; ext i hi; simp; grind
@[simp] theorem fld_pack_f3 : fld (pack f7 b a f3 d op) 12 3 = f3 := by
  simp only [pack, fld]; ext i hi; simp; grind
@[simp] theorem fld_pack_rd : fld (pack f7 b a f3 d op) 7 5 = d := by
  simp only [pack, fld]; ext i hi; simp; grind
@[simp] theorem fld_pack_op : fld (pack f7 b a f3 d op) 0 7 = op := by
  simp only [pack, fld]; ext i hi; simp; grind
@[simp] theorem fld_pack_0_2 : fld (pack f7 b a f3 d op) 0 2 = fld op 0 2 := by
  simp only [pack, fld]; ext i hi; simp; grind
@[simp] theorem fld_pack_26_6 : fld (pack f7 b a f3 d op) 26 6 = fld f7 1 6 := by
  simp only [pack, fld]; ext i hi; simp; grind
@[simp] theorem fld_pack_25_6 : fld (pack f7 b a f3 d op) 25 6 = fld f7 0 6 := by
  simp only [pack, fld]; ext i hi; simp; grind
@[simp] theorem fld_pack_31_1 : fld (pack f7 b a f3 d op) 31 1 = fld f7 6 1 := by
  simp only [pack, fld]; ext i hi; simp; grind
@[simp] theorem fld_pack_27_5 : fld (pack f7 b a f3 d op) 27 5 = fld f7 2 5 := by
  simp only [pack, fld]; ext i hi; simp; grind
@[simp] theorem fld_pack_25_2 : fld (pack f7 b a f3 d op) 25 2 = fld f7 0 2 := by
  simp only [pack, fld]; ext i hi; simp; grind
@[simp] theorem fld_pack_25_1 : fld (pack f7 b a f3 d op) 25 1 = fld f7 0 1 := by
  simp only [pack, fld]; ext i hi; simp; grind
@[simp] theorem fld_pack_24_1 : fld (pack f7 b a f3 d op) 24 1 = fld b 4 1 := by
  simp only [pack, fld]; ext i hi; simp; grind
@[simp] theorem fld_pack_23_1 : fld (pack f7 b a f3 d op) 23 1 = fld b 3 1 := by
  simp only [pack, fld]; ext i hi; simp; grind
@[simp] theorem fld_pack_20_3 : fld (pack f7 b a f3 d op) 20 3 = fld b 0 3 := by
  simp only [pack, fld]; ext i hi; simp; grind
@[simp] theorem fld_pack_20_4 : fld (pack f7 b a f3 d op) 20 4 = fld b 0 4 := by
  simp only [pack, fld]; ext i hi; simp; grind
@[simp] theorem fld_pack_7_2 : fld (pack f7 b a f3 d op) 7 2 = fld d 0 2 := by
  simp only [pack, fld]; ext i hi; simp; grind
@[simp] theorem fld_pack_9_3 : fld (pack f7 b a f3 d op) 9 3 = fld d 2 3 := by
  simp only [pack, fld]; ext i hi; simp; grind
@[simp] theorem fld_pack_11_1 : fld (pack f7 b a f3 d op) 11 1 = fld d 4 1 := by
  simp only [pack, fld]; ext i hi; simp; grind
@[simp] theorem fld_pack_10_1 : fld (pack f7 b a f3 d op) 10 1 = fld d 3 1 := by
  simp only [pack, fld]; ext i hi; simp; grind
@[simp] theorem fld_pack_9_1 : fld (pack f7 b a f3 d op) 9 1 = fld d 2 1 := by
  simp only [pack, fld]; ext i hi; simp; grind
@[simp] theorem fld_pack_12_2 : fld (pack f7 b a f3 d op) 12 2 = fld f3 0 2 := by
  simp only [pack, fld]; ext i hi; simp; grind
@[simp] theorem fld_pack_14_1 : fld (pack f7 b a f3 d op) 14 1 = fld f3 2 1 := by
  simp only [pack, fld]; ext i hi; simp; grind
@[simp] theorem fld_pack_7_1 : fld (pack f7 b a f3 d op) 7 1 = fld d 0 1 := by
  simp only [pack, fld]; ext i hi; simp; grind
@[simp] theorem fld_pack_8_4 : fld (pack f7 b a f3 d op) 8 4 = fld d 1 4 := by
  simp only [pack, fld]; ext i hi; simp; grind
@[simp] theorem fld_pack_20_1 : fld (pack f7 b a f3 d op) 20 1 = fld b 0 1 := by
  simp only [pack, fld]; ext i hi; simp; grind
@[simp] theorem fld_pack_28_4 : fld (pack f7 b a f3 d op) 28 4 = fld f7 3 4 := by
  simp only [pack, fld]; ext i hi; simp; grind
@[simp] theorem fld_pack_20_12 : fld (pack f7 b a f3 d op) 20 12 = f7 ++ b := by
  simp only [pack, fld]; ext i hi; simp; grind
@[simp] theorem fld_pack_12_20 : fld (pack f7 b a f3 d op) 12 20 = f7 ++ b ++ a ++ f3 := by
  simp only [pack, fld]; ext i hi; simp; grind
@[simp] theorem fld_pack_24_4 : fld (pack f7 b a f3 d op) 24 4 = fld f7 0 3 ++ fld b 4 1 := by
  simp only [pack, fld]; ext i hi; simp; grind
@[simp] theorem fld_pack_12_8 : fld (pack f7 b a f3 d op) 12 8 = a ++ f3 := by
  simp only [pack, fld]; ext i hi; simp; grind
@[simp] theorem fld_pack_21_10 : fld (pack f7 b a f3 d op) 21 10 = fld f7 0 6 ++ fld b 1 4 := by
  simp only [pack, fld]; ext i hi; simp; grind

end Sys2Proof
end

