-- ==== Sys2Proof/Laws/Traps.lean ====
section
/-! SUPPORT.
How an instruction that traps, completes or stalls ends. -/

namespace Sys2Proof.Safety

open Sys2Proof Sys2Proof.Machine

theorem trap_eq (code : BitVec 6) (tval : Word) (s : State) : trap code tval s = .next (trapped code tval s) := rfl
theorem illegal_eq (s : State) : illegal s = .next (trapped 2 0 s) := rfl
theorem retire_eq (s : State) : retire s = .next s.advance := rfl
theorem wrX_eq (rd : Reg) (v : Word) (s : State) : wrX rd v s = .next (s.setX rd v).advance := rfl

end Sys2Proof.Safety
end

