-- ==== Sys2Proof/Tests/Slice0.lean ====
section
/-! SUPPORT.
The author's own tests: words written out bit by bit from the encoding tables, ill-formed terms that the check refuses, single steps on
small states with results worked out from the spec's tables, and, for every statement with hypotheses, states and operands that meet them.
-/

namespace Sys2Proof.Tests

-- one theorem after another: many kernel computations at a time need too much memory
set_option Elab.async false

open Sys2Proof Sys2Proof.Machine Sys2Proof.Safety

/-! ## Decoding (R33 to R43) -/

theorem test_decode_upper :
    decodeWord 0b10101011110011011110001010110111 = some (.lui 5 0xABCDE) ∧
    decodeWord 0b10101011110011011110001010010111 = some (.auipc 5 0xABCDE) := by
  decide +kernel

theorem test_decode_op_imm :
    decodeWord 0b10010010001100110000001010010011 = some (.addi 5 6 0x923) ∧
    decodeWord 0b10010010001100110010001010010011 = some (.slti 5 6 0x923) ∧
    decodeWord 0b10010010001100110011001010010011 = some (.sltiu 5 6 0x923) ∧
    decodeWord 0b10010010001100110100001010010011 = some (.xori 5 6 0x923) ∧
    decodeWord 0b10010010001100110110001010010011 = some (.ori 5 6 0x923) ∧
    decodeWord 0b10010010001100110111001010010011 = some (.andi 5 6 0x923) ∧
    decodeWord 0b00000010001100110001001010010011 = some (.slli 5 6 35) ∧
    decodeWord 0b00000010001100110101001010010011 = some (.srli 5 6 35) ∧
    decodeWord 0b01000010001100110101001010010011 = some (.srai 5 6 35) ∧
    decodeWord 0b10010010001100110000001010011011 = some (.addiw 5 6 0x923) ∧
    decodeWord 0b00000001001100110001001010011011 = some (.slliw 5 6 19) ∧
    decodeWord 0b00000001001100110101001010011011 = some (.srliw 5 6 19) ∧
    decodeWord 0b01000001001100110101001010011011 = some (.sraiw 5 6 19) := by
  decide +kernel

theorem test_decode_op :
    decodeWord 0b00000000011100110000001010110011 = some (.add 5 6 7) ∧
    decodeWord 0b01000000011100110000001010110011 = some (.sub 5 6 7) ∧
    decodeWord 0b00000000011100110001001010110011 = some (.sll 5 6 7) ∧
    decodeWord 0b00000000011100110010001010110011 = some (.slt 5 6 7) ∧
    decodeWord 0b00000000011100110011001010110011 = some (.sltu 5 6 7) ∧
    decodeWord 0b00000000011100110100001010110011 = some (.xorR 5 6 7) ∧
    decodeWord 0b00000000011100110101001010110011 = some (.srl 5 6 7) ∧
    decodeWord 0b01000000011100110101001010110011 = some (.sra 5 6 7) ∧
    decodeWord 0b00000000011100110110001010110011 = some (.orR 5 6 7) ∧
    decodeWord 0b00000000011100110111001010110011 = some (.andR 5 6 7) ∧
    decodeWord 0b00000010011100110000001010110011 = some (.mul 5 6 7) ∧
    decodeWord 0b00000010011100110001001010110011 = some (.mulh 5 6 7) ∧
    decodeWord 0b00000010011100110010001010110011 = some (.mulhsu 5 6 7) ∧
    decodeWord 0b00000010011100110011001010110011 = some (.mulhu 5 6 7) ∧
    decodeWord 0b00000010011100110100001010110011 = some (.div 5 6 7) ∧
    decodeWord 0b00000010011100110101001010110011 = some (.divu 5 6 7) ∧
    decodeWord 0b00000010011100110110001010110011 = some (.rem 5 6 7) ∧
    decodeWord 0b00000010011100110111001010110011 = some (.remu 5 6 7) := by
  decide +kernel

theorem test_decode_op_32 :
    decodeWord 0b00000000011100110000001010111011 = some (.addw 5 6 7) ∧
    decodeWord 0b01000000011100110000001010111011 = some (.subw 5 6 7) ∧
    decodeWord 0b00000000011100110001001010111011 = some (.sllw 5 6 7) ∧
    decodeWord 0b00000000011100110101001010111011 = some (.srlw 5 6 7) ∧
    decodeWord 0b01000000011100110101001010111011 = some (.sraw 5 6 7) ∧
    decodeWord 0b00000010011100110000001010111011 = some (.mulw 5 6 7) ∧
    decodeWord 0b00000010011100110100001010111011 = some (.divw 5 6 7) ∧
    decodeWord 0b00000010011100110101001010111011 = some (.divuw 5 6 7) ∧
    decodeWord 0b00000010011100110110001010111011 = some (.remw 5 6 7) ∧
    decodeWord 0b00000010011100110111001010111011 = some (.remuw 5 6 7) := by
  decide +kernel

theorem test_decode_branch :
    decodeWord 0b10101010101110101010001011101111 = some (.jal 5 0xd5555) ∧
    decodeWord 0b10010010001100110000001011100111 = some (.jalr 5 6 0x923) ∧
    decodeWord 0b10100110011100110000010111100011 = some (.beq 6 7 0xd35) ∧
    decodeWord 0b10100110011100110001010111100011 = some (.bne 6 7 0xd35) ∧
    decodeWord 0b10100110011100110100010111100011 = some (.blt 6 7 0xd35) ∧
    decodeWord 0b10100110011100110101010111100011 = some (.bge 6 7 0xd35) ∧
    decodeWord 0b10100110011100110110010111100011 = some (.bltu 6 7 0xd35) ∧
    decodeWord 0b10100110011100110111010111100011 = some (.bgeu 6 7 0xd35) := by
  decide +kernel

theorem test_decode_load_store :
    decodeWord 0b10010010001100110000001010000011 = some (.lb 5 6 0x923) ∧
    decodeWord 0b10010010001100110001001010000011 = some (.lh 5 6 0x923) ∧
    decodeWord 0b10010010001100110010001010000011 = some (.lw 5 6 0x923) ∧
    decodeWord 0b10010010001100110011001010000011 = some (.ld 5 6 0x923) ∧
    decodeWord 0b10010010001100110100001010000011 = some (.lbu 5 6 0x923) ∧
    decodeWord 0b10010010001100110101001010000011 = some (.lhu 5 6 0x923) ∧
    decodeWord 0b10010010001100110110001010000011 = some (.lwu 5 6 0x923) ∧
    decodeWord 0b10010010011100110000000110100011 = some (.sb 6 7 0x923) ∧
    decodeWord 0b10010010011100110001000110100011 = some (.sh 6 7 0x923) ∧
    decodeWord 0b10010010011100110010000110100011 = some (.sw 6 7 0x923) ∧
    decodeWord 0b10010010011100110011000110100011 = some (.sd 6 7 0x923) ∧
    decodeWord 0b10010010001100110010001010000111 = some (.flw 5 6 0x923) ∧
    decodeWord 0b10010010011100110010000110100111 = some (.fsw 6 7 0x923) := by
  decide +kernel

theorem test_decode_system :
    decodeWord 0b00001010010100000000000000001111 = some (.fence 10 5) ∧
    decodeWord 0b10000011001100000000000000001111 = some (.fenceTso) ∧
    decodeWord 0b00000000000000000001000000001111 = some (.fenceI) ∧
    decodeWord 0b00000000000000000000000001110011 = some (.ecall) ∧
    decodeWord 0b00000000000100000000000001110011 = some (.ebreak) ∧
    decodeWord 0b01111100001100110001001011110011 = some (.csrrw 5 6 0x7C3) ∧
    decodeWord 0b01111100001100110010001011110011 = some (.csrrs 5 6 0x7C3) ∧
    decodeWord 0b01111100001100110011001011110011 = some (.csrrc 5 6 0x7C3) ∧
    decodeWord 0b01111100001110110101001011110011 = some (.csrrwi 5 22 0x7C3) ∧
    decodeWord 0b01111100001110110110001011110011 = some (.csrrsi 5 22 0x7C3) ∧
    decodeWord 0b01111100001110110111001011110011 = some (.csrrci 5 22 0x7C3) := by
  decide +kernel

theorem test_decode_custom_3_1 :
    decodeWord 0b00001100000000000000000001111011 = some (.kret) ∧
    decodeWord 0b00000000011100110000001011111011 = some (.hstart 5 6 7) ∧
    decodeWord 0b00000010000000110000000001111011 = some (.hexit 6) ∧
    decodeWord 0b00000100000000110000001011111011 = some (.hwait 5 6) ∧
    decodeWord 0b00000110011100110000001011111011 = some (.carve 5 6 7) ∧
    decodeWord 0b00001000000000000000001011111011 = some (.gang 5) ∧
    decodeWord 0b00001010000000000000001011111011 = some (.split 5) ∧
    decodeWord 0b10101011110000000001000001111011 = some (.lpad 0xABC) ∧
    decodeWord 0b00000000011100110010001011111011 = some (.jt 5 6 7) ∧
    decodeWord 0b00000010110000000110000001111011 = some (.fenceS 1 0 1 4) ∧
    decodeWord 0b00000000001000000011000001111011 = some (.bar 2) ∧
    decodeWord 0b00000010011100110011000001111011 = some (.send 6 7) ∧
    decodeWord 0b00000100011100110011000001111011 = some (.tsend 6 7) ∧
    decodeWord 0b00000110011100110011000001111011 = some (.qarm 6 7) ∧
    decodeWord 0b00001000000000110011000001111011 = some (.qretire 6) ∧
    decodeWord 0b00000000000000110100000001111011 = some (.taskq 6) ∧
    decodeWord 0b00000010011100110100000001111011 = some (.taskput 6 7) ∧
    decodeWord 0b00000100000000000100000001111011 = some (.taskend) ∧
    decodeWord 0b00000110011100110100001011111011 = some (.lease 5 6 7) ∧
    decodeWord 0b00001000011100110100001011111011 = some (.renew 5 6 7) := by
  decide +kernel

theorem test_decode_custom_3_2 :
    decodeWord 0b00001010000000110100000001111011 = some (.unlease 6) ∧
    decodeWord 0b00001100011100110100001011111011 = some (.mcall 5 6 7) ∧
    decodeWord 0b00000000000000110101001011111011 = some (.tlbw 5 6) ∧
    decodeWord 0b00000010011100110101001011111011 = some (.tlbinv 5 6 7) ∧
    decodeWord 0b00000100000000000101000001111011 = some (.replayall) ∧
    decodeWord 0b00000110011100110101000001111011 = some (.tkpost 6 7) ∧
    decodeWord 0b00001000000000110101001011111011 = some (.flushctx 5 6) ∧
    decodeWord 0b00001010011100110101001011111011 = some (.rhold 5 6 7) ∧
    decodeWord 0b00001100011100110101000001111011 = some (.rprio 6 7) ∧
    decodeWord 0b00001110000000110101000001111011 = some (.rdrop 6) := by
  decide +kernel

theorem test_decode_float_1 :
    decodeWord 0b01001000011100110011001011000011 = some (.fmaddS 5 6 7 9 3) ∧
    decodeWord 0b01001000011100110011001011000111 = some (.fmsubS 5 6 7 9 3) ∧
    decodeWord 0b01001000011100110011001011001011 = some (.fnmsubS 5 6 7 9 3) ∧
    decodeWord 0b01001000011100110011001011001111 = some (.fnmaddS 5 6 7 9 3) ∧
    decodeWord 0b00000000011100110011001011010011 = some (.faddS 5 6 7 3) ∧
    decodeWord 0b00001000011100110011001011010011 = some (.fsubS 5 6 7 3) ∧
    decodeWord 0b00010000011100110011001011010011 = some (.fmulS 5 6 7 3) ∧
    decodeWord 0b00011000011100110011001011010011 = some (.fdivS 5 6 7 3) ∧
    decodeWord 0b01011000000000110011001011010011 = some (.fsqrtS 5 6 3) ∧
    decodeWord 0b00100000011100110000001011010011 = some (.fsgnjS 5 6 7) ∧
    decodeWord 0b00100000011100110001001011010011 = some (.fsgnjnS 5 6 7) ∧
    decodeWord 0b00100000011100110010001011010011 = some (.fsgnjxS 5 6 7) ∧
    decodeWord 0b00101000011100110000001011010011 = some (.fminS 5 6 7) ∧
    decodeWord 0b00101000011100110001001011010011 = some (.fmaxS 5 6 7) ∧
    decodeWord 0b11000000000000110011001011010011 = some (.fcvtWS 5 6 3) ∧
    decodeWord 0b11000000000100110011001011010011 = some (.fcvtWuS 5 6 3) ∧
    decodeWord 0b11000000001000110011001011010011 = some (.fcvtLS 5 6 3) ∧
    decodeWord 0b11000000001100110011001011010011 = some (.fcvtLuS 5 6 3) ∧
    decodeWord 0b11010000000000110011001011010011 = some (.fcvtSW 5 6 3) ∧
    decodeWord 0b11010000000100110011001011010011 = some (.fcvtSWu 5 6 3) := by
  decide +kernel

theorem test_decode_float_2 :
    decodeWord 0b11010000001000110011001011010011 = some (.fcvtSL 5 6 3) ∧
    decodeWord 0b11010000001100110011001011010011 = some (.fcvtSLu 5 6 3) ∧
    decodeWord 0b11100000000000110000001011010011 = some (.fmvXW 5 6) ∧
    decodeWord 0b11100000000000110001001011010011 = some (.fclassS 5 6) ∧
    decodeWord 0b10100000011100110010001011010011 = some (.feqS 5 6 7) ∧
    decodeWord 0b10100000011100110001001011010011 = some (.fltS 5 6 7) ∧
    decodeWord 0b10100000011100110000001011010011 = some (.fleS 5 6 7) ∧
    decodeWord 0b11110000000000110000001011010011 = some (.fmvWX 5 6) := by
  decide +kernel

theorem test_decode_lattice :
    decodeWord 0b00000000011100110000000000001011 = some (.join 6 7) ∧
    decodeWord 0b00000010000000110000001010001011 = some (.xld 5 6) ∧
    decodeWord 0b00000100011100110000000000001011 = some (.joinm 6 7) ∧
    decodeWord 0b00000110011100110000000000001011 = some (.cork 6 7) ∧
    decodeWord 0b00001000011100110000000000001011 = some (.corkw 6 7) ∧
    decodeWord 0b00001010011100110000000000001011 = some (.bottle 6 7) ∧
    decodeWord 0b00001100011100110000000000001011 = some (.rel 6 7) ∧
    decodeWord 0b00001110011100110000000000001011 = some (.rack 6 7) ∧
    decodeWord 0b01001000011100110001001010001011 = some (.acq 5 6 7 9) ∧
    decodeWord 0b01001010011100110001000100001011 = some (.foldS 6 7 9 2) ∧
    decodeWord 0b01001100011100110001000000001011 = some (.recycle 6 7 9) ∧
    decodeWord 0b01001110011100110001000100001011 = some (.foldH 6 7 9 2) ∧
    decodeWord 0b00000000011100110010001010001011 = some (.waitGe 5 6 7) ∧
    decodeWord 0b00000010011100110010001010001011 = some (.waitHas 5 6 7) ∧
    decodeWord 0b00000100011100110010001010001011 = some (.waitAny 5 6 7) ∧
    decodeWord 0b00000110000000110010001010001011 = some (.waitFull 5 6) ∧
    decodeWord 0b00001000000000110010001010001011 = some (.waitCork 5 6) := by
  decide +kernel

theorem test_decode_vector_1 :
    decodeWord 0b10000000011100110100001010101011 = some (.vadd 1 .i16 5 6 7) ∧
    decodeWord 0b10000010011100110100001010101011 = some (.vsub 1 .i16 5 6 7) ∧
    decodeWord 0b10000100011100110100001010101011 = some (.vmul 1 .i16 5 6 7) ∧
    decodeWord 0b10000110011100110100001010101011 = some (.vfma 1 .i16 5 6 7) ∧
    decodeWord 0b10001000011100110100001010101011 = some (.vmax 1 .i16 5 6 7) ∧
    decodeWord 0b10001010011100110100001010101011 = some (.vmin 1 .i16 5 6 7) ∧
    decodeWord 0b00001100000000110100001010101011 = some (.vabs .i16 5 6) ∧
    decodeWord 0b00001110000000110100001010101011 = some (.vneg .i16 5 6) ∧
    decodeWord 0b00010000000000110100001010101011 = some (.vexp2 .i16 5 6) ∧
    decodeWord 0b00010010000000110100001010101011 = some (.vrcp .i16 5 6) ∧
    decodeWord 0b00010100000000110100001010101011 = some (.vrsq .i16 5 6) ∧
    decodeWord 0b00010110000000110100001010101011 = some (.vlog2 .i16 5 6) ∧
    decodeWord 0b10011000011100110100001010101011 = some (.vand 1 .i16 5 6 7) ∧
    decodeWord 0b10011010011100110100001010101011 = some (.vor 1 .i16 5 6 7) ∧
    decodeWord 0b10011100011100110100001010101011 = some (.vxor 1 .i16 5 6 7) ∧
    decodeWord 0b10011110011100110100001010101011 = some (.vshl 1 .i16 5 6 7) ∧
    decodeWord 0b10100000011100110100001010101011 = some (.vshra 1 .i16 5 6 7) ∧
    decodeWord 0b10100010011100110100001010101011 = some (.vshrl 1 .i16 5 6 7) ∧
    decodeWord 0b10100100011100110100001010101011 = some (.vcmplt 1 .i16 5 6 7) ∧
    decodeWord 0b10100110011100110100001010101011 = some (.vcmpeq 1 .i16 5 6 7) := by
  decide +kernel

theorem test_decode_vector_2 :
    decodeWord 0b10101000011100110100001010101011 = some (.vsel 1 .i16 5 6 7) ∧
    decodeWord 0b00101010000000110100001010101011 = some (.vredsum .i16 5 6) ∧
    decodeWord 0b00101100000000110100001010101011 = some (.vredmax .i16 5 6) ∧
    decodeWord 0b10101110110100110100001010101011 = some (.vcvt 1 .i16 5 6 13) ∧
    decodeWord 0b10110000011100110100001010101011 = some (.vbcast 1 .i16 5 6 7) ∧
    decodeWord 0b00110010011100110100001010101011 = some (.vperm .i16 5 6 7) ∧
    decodeWord 0b00110100000000110100000000101011 = some (.vamax .i16 6) ∧
    decodeWord 0b00110110001100110100001010101011 = some (.vmovm .i16 5 6 3) ∧
    decodeWord 0b10111000011100110100001010101011 = some (.vslide .i16 5 6 7) ∧
    decodeWord 0b00111010011100110100001010101011 = some (.vtrn .i16 5 6 7) ∧
    decodeWord 0b00000000000000110111001010101011 = some (.vld 5 6) ∧
    decodeWord 0b00000010000000110111001010101011 = some (.vst 5 6) ∧
    decodeWord 0b00000100011100110111001010101011 = some (.vlds 5 6 7) ∧
    decodeWord 0b00000110011100110111001010101011 = some (.vsts 5 6 7) ∧
    decodeWord 0b00001000011100110111001010101011 = some (.vldx 5 6 7) ∧
    decodeWord 0b00001010011100110111001010101011 = some (.vstx 5 6 7) ∧
    decodeWord 0b00001100000000110111001010101011 = some (.vxld 5 6) ∧
    decodeWord 0b00001110000000110111001010101011 = some (.vjoin 5 6) ∧
    decodeWord 0b00010000011100110111001010101011 = some (.sbind 5 6 7) ∧
    decodeWord 0b00010010000000000111001010101011 = some (.sunbind 5) := by
  decide +kernel

theorem test_decode_vector_3 :
    decodeWord 0b00010100000000110111001010101011 = some (.vldf 5 6) ∧
    decodeWord 0b00010110000000110111001010101011 = some (.vstf 5 6) ∧
    decodeWord 0b00011000011100110111001010101011 = some (.vfold 5 6 7) := by
  decide +kernel

theorem test_decode_engine_1 :
    decodeWord 0b01001110011100110010110101011011 = some (.mma 2 1 1 0 11 6 7 9) ∧
    decodeWord 0b01001100011100110100110101011011 = some (.mmas 2 1 1 2 6 7 9) ∧
    decodeWord 0b00000000000000000101001011011011 = some (.mzero 5) ∧
    decodeWord 0b00000010011100110101001011011011 = some (.mcvtst 5 6 7) ∧
    decodeWord 0b00000100011100110101000001011011 = some (.cnld 6 7) ∧
    decodeWord 0b00000110011100110101000001011011 = some (.msend 6 7) ∧
    decodeWord 0b00001000000000000101001011011011 = some (.mpop 5) ∧
    decodeWord 0b00001010000000110101001011011011 = some (.amxrd 5 6) ∧
    decodeWord 0b00001100000000110101000001011011 = some (.amxclr 6) ∧
    decodeWord 0b00001110011100110101000001011011 = some (.amxjoin 6 7) ∧
    decodeWord 0b00010000011100110101001011011011 = some (.mrd 5 6 7) ∧
    decodeWord 0b00010010011100110101001011011011 = some (.mwr 5 6 7) ∧
    decodeWord 0b00000000011100110110001011011011 = some (.ckAxpy 5 6 7) ∧
    decodeWord 0b00000010011100110110001011011011 = some (.ckScal 5 6 7) ∧
    decodeWord 0b00000100011100110110000001011011 = some (.ckDot 6 7) ∧
    decodeWord 0b00000110011100110110000001011011 = some (.ckMax 6 7) ∧
    decodeWord 0b00001000011100110110001011011011 = some (.ckSmx 5 6 7) ∧
    decodeWord 0b00001010011100110110000001011011 = some (.ckAmax 6 7) ∧
    decodeWord 0b00001100011100110110001011011011 = some (.ckCvt 5 6 7) ∧
    decodeWord 0b00001110011100110110001011011011 = some (.ckFill 5 6 7) := by
  decide +kernel

theorem test_decode_engine_2 :
    decodeWord 0b00010000011100110110000001011011 = some (.ckEmpty 6 7) ∧
    decodeWord 0b00010010011100110110000001011011 = some (.ckSum 6 7) ∧
    decodeWord 0b01001000011100110111001011011011 = some (.cp 5 6 7 9) ∧
    decodeWord 0b01001010011100110111001011011011 = some (.cpx 5 6 7 9) ∧
    decodeWord 0b01001100011100110111001011011011 = some (.cpj 5 6 7 9) ∧
    decodeWord 0b01001110011100110111001011011011 = some (.cpfill 5 6 7 9) := by
  decide +kernel

/-- The name under which a word is refused. -/
def refusal (w : BitVec 32) : Option DecodeError := match decode w with | .error e => some e | .ok _ => none

/-- R44, R45: words that no row assigns are refused by name. -/
theorem test_decode_refusals :
    refusal 0x00000000 = some .lowBits ∧ refusal 0x0000007F = some .majorOpcode ∧ refusal 0x40001033 ≠ some .majorOpcode ∧
    decodeWord 0x0200103B = none ∧ decodeWord 0xFFFFFFFF = none ∧ decodeWord 0x40001033 = none := by decide +kernel

/-! ## Well-formed terms -/

/-- One ill-formed term for each check. -/
theorem test_wf_refuses :
    (Instr.faddS 1 2 3 5).wf = false ∧ (Instr.fsqrtS 1 2 6).wf = false ∧ (Instr.fcvtSL 1 2 5).wf = false ∧
    (Instr.fmaddS 1 2 3 4 6).wf = false ∧ (Instr.fcvtWS 1 2 6).wf = false ∧ (Instr.fenceS 1 0 0 3).wf = false ∧
    (Instr.fenceS 0 1 1 6).wf = false ∧ (Instr.bar 4).wf = false ∧ (Instr.vexp2 .i32 1 2).wf = false ∧
    (Instr.vand 0 .f32 1 2 3).wf = false ∧ (Instr.vshl 0 .bf16 1 2 3).wf = false ∧ (Instr.vcmplt 0 .f32 8 2 3).wf = false ∧
    (Instr.vmovm .i32 8 0 0).wf = false ∧ (Instr.vmovm .i32 0 0 31).wf = false ∧ (Instr.sbind 23 1 2).wf = false ∧
    (Instr.sunbind 0).wf = false ∧ (Instr.mzero 4).wf = false ∧ (Instr.mrd 1 2 4).wf = false ∧ (Instr.mwr 4 1 2).wf = false := by
  decide +kernel

/-- Units that the device does not have. -/
theorem test_wf_units :
    (Instr.teamCompletion 576).unitWf = false ∧ (Instr.loadValueReturn 1032 0).unitWf = false ∧ (Instr.mcAdd 575 0).unitWf = false ∧
    (Instr.mcBundle 960).unitWf = false ∧ (Instr.rtailWrite 600 0 0).unitWf = false := by
  decide +kernel

/-- Terms that the check admits. -/
theorem test_wf_admits :
    (Instr.addi 1 2 3).wf = true ∧ (Instr.faddS 1 2 3 7).wf = true ∧ (Instr.fenceS 1 0 0 5).wf = true ∧ (Instr.bar 3).wf = true ∧
    (Instr.teamCompletion 575).unitWf = true ∧ (Instr.mcBundle 959).unitWf = true := by
  decide +kernel

/-! ## Small states -/

/-- A page of device 0: 64 KiB page n of the virtual space at physical page n. -/
def page (n : Nat) (cls : Cls) (typ : BitVec 4) (width : BitVec 2) : Tlb :=
  { vpn := n, lg := false, ppn := n, cls := cls, typ := typ, width := width, vint := 0, cork := false, ret := false
    owner := 0, second := 0, mask := 0 }

/-- Page 1 OWN, page 2 HOST, page 3 LAT growing of 8 bytes (type 1), page 4 LAT FILL of 4 bytes, page 5 LAT FOLDF. -/
def pages : List Tlb := [page 1 .own 0 0, page 2 .host 0 0, page 3 .lat 1 3, page 4 .lat 9 2, page 5 .lat 12 2]

/-- A context at system level with a handler. -/
def live : Ctx := { life := .live, pc := 0x10000, csr := { prv := true, tvec := 0x100 } }

/-- Device 0 with one core that runs that context. -/
def one (c : Core) (x : Ctx) : State := { State.reset with cores := [(0, ({ c with tlb := pages } : Core).setCtx 0 x)] }

def small : State := one {} live

/-- The same at app level, without a handler. -/
def bare : State := one {} { live with csr := {} }

/-- A team of one core. -/
def team : Team :=
  { num := 7, owner := 0, rank := 0, nteam := 1, dist := 0, deadline := 9, tag := 5, crec := 0, late := 0, rt := true, mode1 := false
    launch := 3, nrep := 0, img := false, stop := false, ended := none }

/-- An instruction has a next state. -/
def goesOn (r : Res) : Bool := match r with | .next _ => true | _ => false

/-- What a fetch gives. -/
def fetched (f : Fetched) : Option (BitVec 32) := match f with | .word _ w => some w | .stop _ => none

/-- The doubleword in a register of the context at hand after an instruction, and its pc. -/
def after (r : Res) (rd : Reg) : Option (Word × Word) := match r with | .next t => some (t.x rd, t.pc) | _ => none

/-- The cause, ktval and kepc of a trap that was taken. -/
def trapOf (r : Res) : Option (BitVec 6 × Word × Word) :=
  match r with | .next t => some (t.ctx.csr.code, t.ctx.csr.tval, t.ctx.csr.epc ++ 0#2) | _ => none

/-! ## Single steps -/

/-- R65: ADDI sign-extends its immediate; SRAI keeps the sign; SUBW wraps at 32 bits; SLTU compares unsigned. -/
theorem test_integer :
    after (exec (.addi 5 6 0xFFF) (small.setX 6 0)) 5 = some (0xFFFFFFFFFFFFFFFF, 0x10004) ∧
    after (exec (.srai 5 6 63) (small.setX 6 0x8000000000000000)) 5 = some (0xFFFFFFFFFFFFFFFF, 0x10004) ∧
    after (exec (.subw 5 6 7) ((small.setX 6 0x80000000).setX 7 1)) 5 = some (0x7FFFFFFF, 0x10004) ∧
    after (exec (.sltu 5 6 7) ((small.setX 6 1).setX 7 0xFFFFFFFFFFFFFFFF)) 5 = some (1, 0x10004) ∧
    after (exec (.addi 0 6 1) (small.setX 6 1)) 0 = some (0, 0x10004) := by decide +kernel

/-- R66, R67: the high product of two negative numbers, the quotient rounded toward zero, and division by zero. -/
theorem test_division :
    after (exec (.mulh 5 6 7) ((small.setX 6 0xFFFFFFFFFFFFFFFF).setX 7 0xFFFFFFFFFFFFFFFF)) 5 = some (0, 0x10004) ∧
    after (exec (.div 5 6 7) ((small.setX 6 0xFFFFFFFFFFFFFFF9).setX 7 2)) 5 = some (0xFFFFFFFFFFFFFFFD, 0x10004) ∧
    after (exec (.divuw 5 6 7) ((small.setX 6 5).setX 7 0)) 5 = some (0xFFFFFFFFFFFFFFFF, 0x10004) ∧
    after (exec (.remw 5 6 7) ((small.setX 6 0x80000000).setX 7 0xFFFFFFFF)) 5 = some (0, 0x10004) := by decide +kernel

/-- R68, R71, R81, R142: a misaligned target and a misaligned load trap with the address; ECALL from system level is cause 9. -/
theorem test_traps :
    trapOf (exec (.jalr 1 6 2) (small.setX 6 0x10000)) = some (0, 0x10002, 0x10000) ∧
    trapOf (exec (.lw 5 6 1) (small.setX 6 0x10000)) = some (4, 0x10001, 0x10000) ∧
    trapOf (exec (.sd 6 5 4) (small.setX 6 0x10000)) = some (6, 0x10004, 0x10000) ∧
    trapOf (exec .ecall small) = some (9, 0, 0x10000) ∧
    after (exec .ecall small) 0 = some (0, 0x400) := by decide +kernel

/-- R87, R88: 1 + 2^-24 in FP32 rounds to even, with NX; 0/0 is the canonical NaN with NV. -/
theorem test_float :
    (match exec (.faddS 1 2 3 0) ((small.setF 2 0x3F800000).setF 3 0x33800000) with
      | .next t => (t.f 1, t.ctx.csr.fcsr) | _ => (0, 0)) = (0x3F800000, 0x01) ∧
    (match exec (.fdivS 1 2 3 0) small with | .next t => (t.f 1, t.ctx.csr.fcsr) | _ => (0, 0)) = (0x7FC00000, 0x10) := by
  decide +kernel

/-- R70, R76: a store and a load of the same OWN byte; the value returns sign-extended. -/
theorem test_store_load :
    (match exec (.sb 6 7 3) ((small.setX 6 0x10000).setX 7 0x80) with
      | .next t => (match exec (.lb 5 6 3) t with
        | .next u => after (exec (.loadValueReturn 0 0) u) 5
        | _ => none)
      | _ => none) = some (0xFFFFFFFFFFFFFF80, 0x10008) := by decide +kernel

/-- The first step after an instruction is placed runs it (log 7). -/
theorem test_placed :
    (match step (State.reset.withFetchWord 32 0x00310093) with | .next t => (t.ctxAt 0 0).pc | _ => 0) = 0x10004 ∧
    (match step (State.reset.withFetchWord 32 0x06400093) with | .next t => (t.ctxAt 0 0).rx 1 | _ => 0) = 100 := by decide +kernel

/-! ## Witnesses: encoding, traps and scalar instructions -/

theorem witness_DecodeEncode : encode (.addi 1 2 3) = some 0x00310093 ∧ encode (.vadd 0 .f32 1 2 3) ≠ none := by decide +kernel

theorem witness_EncodeDecode : decodeWord 0x00310093 = some (.addi 1 2 3) ∧ fld (0x0000007F : BitVec 32) 0 2 = (3 : BitVec 2) := by
  decide +kernel

/-- The word ADDI at the pc, a word that is no instruction there, and a context that expects a landing pad. -/
theorem witness_StepRunsDecoded :
    let s (w : Nat) : State := State.reset.withFetchWord 32 w
    let s1 (w : Nat) : State := issuing { s w with agenda := [] } 0 0
    (∀ w ∈ [0x00310093, 0xFFFFFFFF], (s w).agenda = [.issue 0 0] ∧ (s w).pkg.off = false ∧ issues 0 = true ∧
      ({ s w with agenda := [] } : State).ready 0 0 = true ∧ (s1 w).me.gang.g = false ∧ NothingPending (s1 w) 0 0 ∧
      fetched (s1 w).fetch = some (BitVec.ofNat 32 w) ∧ (s1 w).ctx.pad = none ∧ Unblocked (s1 w) 0 (.addi 1 2 3)) ∧
    decodeWord 0x00310093 = some (.addi 1 2 3) ∧
    (let u := (s1 0x00310093).setCtx ((s1 0x00310093).ctx.takeTokens (.addi 1 2 3))
     (match exec (.addi 1 2 3) u with | .next t => decide (t.out = .done) && !(t.ctxAt 0 0).unread && decide (RoomFor (s 0x00310093) t) | _ => false) = true) ∧
    (match exec (.lw 1 2 1) (s1 0) with | .next t => decide (t.out ≠ .done) | _ => false) = true ∧
    decodeWord 0xFFFFFFFF = none ∧ goesOn (exec (.illegalInstruction 0xFFFFFFFF) (s1 0xFFFFFFFF)) = true ∧
    ((s1 0x00310093).modCtx 0 0 fun x => { x with pad := some 5 }).ctx.pad = some 5 ∧
    (0x00310093 : BitVec 32) ≠ 5#12 ++ 0x0107B#20 ∧ (0x0050107B : BitVec 32) = 5#12 ++ 0x0107B#20 ∧
    (let p := (s1 0x0050107B).setCtx { (s1 0x0050107B).ctx with pad := none }
     (match exec (.lpad 5) (p.setCtx (p.ctx.takeTokens (.lpad 5))) with
       | .next t => decide (t.out = .done) && !(t.ctxAt 0 0).unread && decide (RoomFor (s 0x0050107B) t) | _ => false) = true) := by
  decide +kernel

/-- A pair that is level, at the word ADDI on an OWN page. -/
theorem witness_StepRunsDecoded_gang :
    let c (r : BitVec 2) : Core := ({ tlb := pages, gang := { shape := 1, rank := r, set := [0, 1], g := true, tmask := 3 } } : Core).setCtx 0 live
    let s : State := { State.reset with cores := [(0, c 0), (1, c 1)], agenda := [.issue 0 0], mem := writeNat [] 0x10000 4 0x00310093 }
    let s1 := issuing { s with agenda := [] } 0 0
    s.pkg.off = false ∧ issues 0 = true ∧ ({ s with agenda := [] } : State).ready 0 0 = true ∧ s1.me.gang.g = true ∧ s1.me.gang.set = [0, 1] ∧
    (∀ e ∈ [0, 1], NothingPending s1 e 0) ∧ s1.behindOf [0, 1] 0 = [] ∧
    (match (gangIssuing s1 [0, 1] 0).fetch with
      | .word s2 w => decide (s2.cur = (0, 0)) && s2.ctx.pad.isNone && decodeWord w == some (.addi 1 2 3) &&
          (match gangFold (.addi 1 2 3) 0 [0, 1] s2 with
            | .ok (t, outs) => (outs.all fun o => o.2 == .done) && ([0, 1].all fun e => (t.wordPark 0 e).isNone) &&
                (t.gangHeld [0, 1] 0).isEmpty && decide (RoomFor s (t.markBehind [0, 1] 0 s2.pc))
            | .error _ => false)
      | _ => false) = true ∧ isControl (.addi 1 2 3) = false := by decide +kernel

theorem witness_Traps :
    (small.me.gang.g = false ∧ small.ctx.csr.tvec ≠ 0) ∧
    (let s := one { team := some team } { live with csr := {} }
     s.me.gang.g = false ∧ s.ctx.csr.tvec = 0 ∧ s.me.team = some team) := by decide +kernel

theorem witness_TrapsAndReturns :
    let s := small.setCtx { live with pc := 0x30008 }
    (0xFFFFFFFF : BitVec 32) &&& 0x727F#32 ≠ 0x425B#32 ∧ (0x425B : BitVec 32) &&& 0x727F#32 = 0x425B#32 ∧
    aWin ((small.setCtx { live with pc := 0x20000000000000 }).pc) = true ∧
    aDev s.pc = s.dev ∧ aWin s.pc = false ∧ (s.translate 0 .read s.pc).2 = .ok (page 3 .lat 1 3) ((page 3 .lat 1 3).pa s.pc) ∧
    ((s.translate 0 .read s.pc).1.line (0x30008 / 128)).cork = false ∧
    small.ctx.csr.prv = true ∧ bare.ctx.csr.prv = false := by decide +kernel

theorem witness_DivisionCorners :
    (small.setX 6 (BitVec.intMin 64)).x 6 = BitVec.intMin 64 ∧ (small.setX 7 (-1)).x 7 = -1 ∧ small.x 7 = 0 ∧
    ((small.setX 6 0xFFFFFFFF80000000).x 6).extractLsb' 0 32 = BitVec.intMin 32 ∧
    decodeWord 0x0200103B = none := by decide +kernel

/-- A jump table at 0x10100 of one entry, +16, whose label is 5; aligned and misaligned targets. -/
theorem witness_TransfersAndPads :
    let s : State := { (small.setX 8 0x10100) with mem := writeNat (writeNat [] 0x10100 8 (5 * 2 ^ 32 + 1)) 0x10108 4 16 }
    (small.pc + ((2 : BitVec 20) ++ 0#1).signExtend 64).toNat % 4 = 0 ∧ (small.pc + ((1 : BitVec 20) ++ 0#1).signExtend 64).toNat % 4 ≠ 0 ∧
    (s.x 8).toNat % 8 = 0 ∧ ((small.setX 8 4).x 8).toNat % 8 ≠ 0 ∧
    (match s.innerRead (s.x 8) 8 with
     | .ok s1 h => decide (h = 5 * 2 ^ 32 + 1) && (match s1.innerRead (s.x 8 + 8) 4 with | .ok _ e => decide (e = 16) | _ => false)
     | _ => false) = true := by decide +kernel

theorem witness_NaturalAlignment :
    let s := small.setX 6 0x1007F
    (s.x 6).toNat % 2 ≠ 0 ∧ (s.x 6).toNat % 4 ≠ 0 ∧ (s.x 6).toNat % 8 ≠ 0 ∧
    (0x10078 : Word).toNat % 8 = 0 ∧ (0x10078 : Word).toNat % 128 + 8 = 128 := by decide +kernel

/-- An OWN page; a LAT line that the L1 does not hold, and one that it does; the scratchpad's last word; another device. -/
theorem witness_ScalarLoads :
    let s := small
    let pad : Word := winAddr 0 0 (small.me.padSize - 8)
    let far : State := { small with fab := { small.fab with
      aen := true, ports := [(9, 0)], tokens := [(0, (77, 0x8000000000000000 + 9 * 65536))] } }
    (ScalarReady s true 0x10008 8 ∧ (s.translate 0 .read 0x10008).2 = .ok (page 1 .own 0 0) 0x10008) ∧
    (ScalarReady s true 0x30008 8 ∧ (s.translate 0 .read 0x30008).2 = .ok (page 3 .lat 1 3) 0x30008 ∧
      ((s.translate 0 .read 0x30008).1.cbDrainLine 0 0 (0x30008 / 128)).latCopy 0 (0x30008 / 128) (lineBytes 0x30008 8 0).1 = none) ∧
    (let c : Core := { l1 := [(0x600, ⟨true, 0x30000, 0, BitVec.allOnes 128, 0⟩)] }
     (one c live).latCopy 0 0x600 (lineBytes 0x30008 8 0).1 = some 0) ∧
    (ElsewhereReady s true pad 8 ∧ aDev pad = s.dev ∧ aWin pad = true ∧ aEp pad = 0 ∧ isCompute 0 = true ∧ s.coreOn 0 = true ∧
      aOff pad + 8 ≤ s.me.padSize ∧ s.me.emptyWord (aOff pad) 8 255 = none ∧ s.me.padErr = [] ∧ s.admitted (s.master 0) kCore 0 rRead = true) ∧
    (let a : Word := 0x0240000000000000
     ElsewhereReady far true a 8 ∧ ElsewhereReady far false a 8 ∧ aDev a ≠ far.dev ∧
      (far.request 0 0 ((scalarAcc far .load a 8 0 (.x 5 8 true) .remote).packet far.dev)).isSome = true) := by decide +kernel

theorem witness_ScalarStores :
    let s := small
    let pad : Word := winAddr 0 0 0
    (∀ p ∈ [((0x10008 : Word), page 1 .own 0 0), (0x20008, page 2 .host 0 0), (0x30008, page 3 .lat 1 3)],
      ScalarReady s false p.1 8 ∧ (s.translate 0 .write p.1).2 = .ok p.2 (p.2.pa p.1)) ∧
    s.heldSectors (0x20008 / 128) (lineBytes 0x20008 8 0).1 true = [] ∧
    joinAccepts (page 3 .lat 1 3).typ = true ∧ wBytes (page 3 .lat 1 3).width = 8 ∧ joinAccepts (page 5 .lat 12 2).typ = false ∧
    ElsewhereReady s false pad 8 ∧ aWin pad = true ∧ isCompute (aEp pad) = true ∧ s.me.piecesCheck [(0, 8, 255)] = none ∧
    s.admitted (s.master 0) kCore 0 rWrite = true ∧
    (let acc (s : State) : Acc := scalarAcc s .store 0x10008 8 0 .none .remote
     s.rankWaits 0 (acc s) = false ∧
     (let c (l : List Acc) : Core := ({ accs := l, gang := { shape := 1, set := [0, 1], g := true, tmask := 3 } } : Core).setCtx 0 live
      let g : State := { s with cores := [(0, c [acc s]), (1, c [])], cur := (1, 0) }
      g.rankWaits 1 (acc g) = true)) := by decide +kernel

theorem witness_HomeWrites : Memory.wf (small.putHome 5 1 0xFF).mem = true ∧ (0x10078 : Word).toNat % 8 = 0 := by decide +kernel

/-- A load that is outstanding at a plain page, one of a window, and one whose bytes are back. -/
theorem witness_LoadReturns :
    let a (st : Stage) : Acc := scalarAcc small .load 0x10008 8 0 (.x 5 8 true) st
    let s (st : Stage) : State := small.addAcc 0 (a st)
    (∀ st ∈ [Stage.ready 0x10008 .own 0, .ready 0x20008 .host 0, .back 7],
      (s st).me.accs[0]? = some (a st) ∧ (s st).group 0 (a st).grp = [a st] ∧ ((s st).ctxAt 0 0).hold = .free ∧ ∀ b ∈ (s st).me.accs, (a st).age ≤ b.age) ∧
    (s (.ready 0x20008 .host 0)).heldSectors (0x20008 / 128) (lineForm (a .window).chunks (a .window).mask 0).1 false = [] ∧
    (let w : Acc := scalarAcc small .load (winAddr 0 0 0) 8 0 (.x 5 8 true) .window
     (match (small.addAcc 0 w).windowValue 0 w with | .ok _ => true | _ => false) = true) := by decide +kernel

/-- Helper 1 retired and live, no helpers, a misaligned entry; HEXIT of a helper and of context 0, with and without a live helper. -/
theorem witness_Helpers :
    let s := one { hmax := 2, hnext := 1 } live
    let h : State := s.modCtx 0 1 fun _ => live
    (s.cur.2 = 0 ∧ s.me.gang.g = false ∧ s.me.hmax ≠ 0 ∧ s.me.hnext = 1 ∧ (s.me.ctx 1).alive = false ∧ s.relStep.2 = true) ∧
    small.me.hmax = 0 ∧ (h.me.ctx 1).alive = true ∧ ((small.setX 6 2).x 6).toNat % 4 ≠ 0 ∧
    (let e : State := h.modCtx 0 1 fun x => { x with hold := .exit 9 }
     (e.ctxAt 0 1).hold = .exit 9 ∧ ∀ k ∈ (e.core 0).teamCores 0, e.exitDrained k 1 = true) ∧
    (let e (s : State) : State := s.modCtx 0 0 fun x => { x with hold := .exit 9 }
     (∀ k ∈ ((e s).core 0).teamCores 0, (e s).exitDrained k 0 = true) ∧ (((e s).core 0).alive.filter fun k => k ≠ 0) = [] ∧
      (((e h).core 0).alive.filter fun k => k ≠ 0) ≠ []) := by decide +kernel

theorem witness_DeferredTrapsAndReports :
    let d : Deferred := ⟨0, 13, 0x10000, 0x30008, true, 0, 5, false⟩
    let s := small.setCtx { live with life := .parked (.hwait 1), deferred := [d] }
    let due : Reports := ({} : Reports).post (mkRecord 32 0 0 0x30008 0 0 0 0 0 false)
    let r : State := small.setCtx { live with life := .parked (.hwait 1), rep := due }
    (s.me.gang.g = false ∧ s.ctx.csr.tvec ≠ 0 ∧ s.ctx.deferred = [d] ∧ s.mayTake 0 0 = true ∧ s.ready 0 0 = false) ∧
    (r.reportDue 0 0 = true ∧ r.ready 0 0 = false) ∧
    (∀ x ∈ [{ live with deferred := [d] }, { live with rep := due }, live],
      let u := { small.setCtx x with mem := writeNat [] 0x10000 4 0x00310093 }
      u.me.gang.g = false ∧ u.ready 0 0 = true ∧ u.mayTake 0 0 = true ∧ isCompute 0 = true ∧
        (match (issuing u 0 0).issue1 with | .next t => decide (t.out = .done) | _ => false) = true) ∧
    (match (issuing small 0 0).issue1 with | .next t => decide (t.out = .trapped 2 0) | _ => false) = true ∧
    (let p : State := small.post (.report 0 0 [1])
     p.net[0]? = some (.report 0 0 [1]) ∧ (p.ctxAt 0 0).alive = true) ∧
    ((0 : BitVec 32) - 0).toNat < 16 ∧ 16 ≤ ((16 : BitVec 32) - 0).toNat := by decide +kernel

theorem witness_CsrInstructions :
    csrRule true false 0x7C5 = .rw ∧ (small.csrRead 0x7C5).isSome = true ∧ csrRule true false 0x7D0 ≠ .none ∧
    (small.csrRead 0x7D0).isSome = true ∧ small.vstatReady 0 0 = true ∧
    (let s : State := { State.reset with
      cores := [(960, ({} : Core).setCtx 0 live)], clusters := [(0, { msgs := [.dropped] })], cur := (960, 0) }
     isService s.cur.1 = true ∧ (s.cluster (clusterOf s.cur.1)).msgs = [.dropped] ∧ (s.csrRead 0xBC4).isSome = true) := by decide +kernel

theorem witness_CsrAccessAndFields :
    csrRule bare.ctx.csr.prv (isService 0) 0x7C1 = .none ∧ csrRule small.ctx.csr.prv (isService 0) 0x7CB = .none ∧
    csrRule small.ctx.csr.prv (isService 0) 0xBD0 = .ro ∧ (5 : Reg) ≠ 0 ∧ small.me.kmcap &&& 0xFFFFFFE0 = 0 := by decide +kernel

theorem witness_Fences :
    small.flushPending 0 = false ∧ small.relStep.2 = true ∧ small.readsBack 0 0 = true ∧
    (small.addAcc 0 (scalarAcc small .store 0x10000 8 0 .none .remote)).relStep.2 = false ∧
    ¬(6 ≤ (5 : BitVec 3).toNat ∨ ((1 : BitVec 1) = 1 ∧ (5 : BitVec 3).toNat < 4)) ∧ 6 ≤ (6 : BitVec 3).toNat := by decide +kernel

theorem witness_FloatArithmetic :
    small.rnd 0 = some .rne ∧ small.rnd 5 = none ∧ (small.setCtx { live with csr := { live.csr with fcsr := 0xA0 } }).rnd 7 = none := by
  decide +kernel

theorem witness_FloatMovesAndConversions :
    small.rnd 1 = some .rtz ∧ (match small.fv 1 with | .fin .. => true | _ => false) = true ∧
    (match (small.setF 1 0x7FC00000).fv 1 with | .nan .. => true | _ => false) = true := by decide +kernel

/-! ## Witnesses: carves, gangs, barriers, timed entries, quiescence -/

/-- A level-0 domain of the launch of core 0. -/
def dom0 : Domain :=
  { words := [], lvl := 0, dom := 7, timed := false, hwake := false, quota := 4, ncore := 1, members := [0], ended := []
    phase := false, plan := [], plen := 0, nslot := 0, start := 0, coord := 0, ndev := 1, declared := false
    count0 := 0, count1 := 0, appended0 := [], appended1 := [], arrived := [], counts := [], finished := []
    step := 0, sent := 0, recvd := 0, wave := 0, answers := [], first := [], failedAt := none }

/-- A timed cluster domain with one slot, from core 0 to core 0 on channel 3. -/
def dom2 : Domain :=
  { dom0 with lvl := 2, timed := true, phase := true, plan := [⟨5, 0, 0, 3, 0⟩], plen := 9, nslot := 1, start := 10 }

def kdom (lvl : BitVec 3) (dom : BitVec 16) (t p : Bool) : KDom := { v := true, t := t, lvl := lvl, phase := p, dom := dom }

/-- Core 0 in its level-0 domain and in the timed domain. -/
def domained : Ctx :=
  { live with csr := { live.csr with dom := #v[kdom 0 7 false false, kdom 1 7 false false, kdom 2 7 true true, {}] } }

/-- The state of the examples of domains. -/
def inDomains (c : Core) (x : Ctx) : State := { one c x with domains := [dom0, { dom0 with lvl := 1 }, dom2] }

/-- A descriptor of the default carve: L1B = 16, MX = 1. -/
def carve16 : Word := 0x50

/-- The leader and its mate of a pair, cores 0 and 1, at a rendezvous. -/
def pair (g : Bool) (w : Rendez) : State :=
  let c (r : BitVec 2) : Core := ({ team := some team, gang := { shape := 1, rank := r, set := [0, 1], g := g, tmask := 3 } } : Core).setCtx 0
    { live with life := .waiting w }
  { State.reset with cores := [(0, c 0), (1, c 1)] }

theorem witness_CarvesAndGangs :
    (let s := one {} live
     s.cur.2 = 0 ∧ carveDesc 0 0 = none ∧ (carveDesc carve16 0).isSome = true ∧ s.me.gang.g = false ∧ s.relStep.2 = true) ∧
    (({ small with cur := (0, 1) } : State).cur.2 ≠ 0) ∧
    ((one { gang := { shape := 1, set := [0, 1] } } live).me.gang.shape ≠ 0 ∧ small.me.gang.shape = 0 ∧ (pair true (.gang 5)).me.gang.g = true) ∧
    (let s := inDomains {} { domained with life := .waiting (.carve 5 carve16 0) }
     (s.core 0).gang.g = false ∧ (s.ctxAt 0 0).life = .waiting (.carve 5 carve16 0) ∧
      s.domain 0 ((s.ctxAt 0 0).csr.dom[0]).dom = some dom0 ∧ (s.core 0).helpersArrived = true ∧ (s.core 0).frozen = false ∧
      s.teamDrained [0] = true ∧ s.entriesWait dom0 = false) ∧
    (∀ p ∈ [(false, Rendez.gang 5), (true, Rendez.split 5)],
      let s := pair p.1 p.2
      let set := (s.core 0).gang.set
      set ≠ [] ∧ set.Nodup ∧ (∀ e ∈ set, (s.core e).frozen = false ∧ (s.ctxAt e 0).life = .waiting p.2) ∧ s.gangWhole set = true ∧ s.gangDrained set = true) ∧
    keysRise ({} : Core).pad = true := by decide +kernel

theorem witness_Barriers :
    (let s := inDomains {} domained
     (s.ctx.csr.dom[3]).v = false ∧ (s.ctx.csr.dom[0]).v = true ∧ (s.ctx.csr.dom[0]).t = false ∧ (s.ctx.csr.dom[2]).t = true ∧
      s.relStep.2 = true ∧ (small.addAcc 0 (scalarAcc small .store 0x10000 8 0 .none .remote)).relStep.2 = false) ∧
    (let s := inDomains {} { domained with life := .waiting (.bar 0) }
     s.domains[0]? = some dom0 ∧ s.barrierReady dom0 = true) ∧
    (let s := inDomains {} { domained with life := .waiting (.bar 1) }
     let d := { dom0 with lvl := 1 }
     s.domains[1]? = some d ∧ d.lvl = 1 ∧ s.barrierReady d = true) ∧
    (let d := { dom0 with lvl := 4 }
     let x := { live with life := .waiting (.bar 3), csr := { live.csr with dom := live.csr.dom.set 3 (kdom 4 7 false false) } }
     let s : State := { one {} x with domains := [d] }
     s.domains[0]? = some d ∧ d.lvl = 4 ∧ (s.fabricBarrier d).isSome = true) := by decide +kernel

/-- An untimed and a timed entry, from context 0 of core 0 for its channel 3. -/
def arrival (due : Nat) : Arrival := ⟨3, 2, 7, 0, 0, 0, due, 0⟩

theorem witness_TimedEntries :
    (let s := (inDomains { aqb := 1 } domained).setX 6 3
     let w := s.x 6
     ¬(w.extractLsb' 27 37 ≠ 0 ∨ w.extractLsb' 10 6 ≠ 0 ∨ w.extractLsb' 3 5 ≠ 0) ∧ (w.extractLsb' 8 2).toNat = 0 ∧
      (s.ctx.csr.dom[0]).v = true ∧ s.misuse [7] [] [7] = false ∧ (match s.vsrc 7 with | .ok d => decide (d = 0) | _ => false) = true ∧
      s.admitted (s.master 0) kCore 0 rCommand = true ∧ ((s.domain 0 7).bind fun g => s.memberAt g 0) = some 0 ∧
      ((s.domain 0 7).bind fun g => s.memberAt g 1) = none ∧
      s.me.aqb ≠ 0 ∧ s.planned 0 3 = true ∧ s.planned 0 4 = false ∧ (inDomains {} domained).me.aqb = 0) ∧
    ((small.ctx.csr.dom[0]).v = false ∧ isCompute 576 = false ∧ (0x8 : Word).extractLsb' 3 5 ≠ 0) ∧
    (let s := (inDomains { aqb := 1 } domained).setX 6 3
     let d := s.ctx.csr.dom[2]
     d.v = true ∧ d.t = true ∧ d.phase = true ∧ s.domain d.lvl d.dom = some dom2 ∧ dom2.plan[0]? = some ⟨5, 0, 0, 3, 0⟩ ∧
      s.stoppedAt dom2 15 = false ∧ s.cycle ≤ 15) ∧
    (let s : State := { inDomains { aqb := 1 } { domained with hold := .tsend 0 0 3 9 15 } with cycle := 15 }
     (s.ctxAt 0 0).hold = .tsend 0 0 3 9 15 ∧ (s.core 0).frozen = false ∧ dom2.start + 5 + 0 * (dom2.plen + 1) ≤ 15 ∧
      15 ≤ s.cycle ∧ (s.ctxAt 0 0).took = none) ∧
    (∀ c ∈ [({ aqb := 1 } : Core), { aqb := 1, staged := List.replicate 16 (arrival 0) },
        { aqb := 1, timedHeld := List.replicate 8 (arrival 0) }, { aqb := 1, timed := [arrival 0] }],
      let s := (one c live).post (.send 0 (arrival 0) 0 0)
      s.net[0]? = some (.send 0 (arrival 0) 0 0) ∧ (arrival 0).due ≤ s.cycle ∧
      s.admitted (s.master 0) kCore 0 rCommand = true ∧ (s.core 0).aqb ≠ 0) ∧
    (let c : Core := { aqb := 1 }
     c.hasRoom 3 = true ∧ earlier 3 c.timedHeld = false ∧ earlier 3 c.timed = false ∧
      ({ c with staged := List.replicate 16 (arrival 0) } : Core).hasRoom 3 = false ∧
      earlier 3 [arrival 0] = true) ∧
    (let c : Core := (one { aqb := 1, timedHeld := [arrival 0] } live).core 0
     let w : Core := (one { aqb := 1, wantRoom := [arrival 0] } live).core 0
     c.hasRoom 3 = true ∧ c.alive ≠ [] ∧ takeFirst (fun a : Arrival => a.ch == 3) c.timedHeld = some (arrival 0, []) ∧
      w.hasRoom 3 = true ∧ w.alive ≠ [] ∧ takeFirst (fun a : Arrival => a.ch == 3) w.timed = none ∧
      takeFirst (fun a : Arrival => a.ch == 3) w.wantRoom = some (arrival 0, [])) := by decide +kernel

theorem witness_Quiescence :
    (let s := inDomains {} { domained with csr := { domained.csr with qActive := true, qLvl := 0, qDom := 7 } }
     (s.ctx.csr.dom[3]).v = false ∧ (s.ctx.csr.dom[0]).v = true ∧ (0x10002 : Word).toNat % 4 ≠ 0 ∧ (0x10004 : Word).toNat % 4 = 0 ∧
      s.ctx.csr.qActive = true ∧ isCompute 0 = true ∧
      ((s.domain s.ctx.csr.qLvl s.ctx.csr.qDom).bind fun d => s.memberAt d 0) = some 0 ∧
      (s.ctxAt 0 0).alive = true ∧ (s.ctxAt 0 1).alive = false ∧
      (let t := s.endTeam 0 2 0 0 0 0
       (t.ctxAt 0 0).alive = false) ∧
      (let h := s.modCtx 0 1 fun _ => live
       let t := h.retireCtx 0 1 0
       (h.ctxAt 0 1).alive = true ∧ (h.core 0).gang.g = false ∧ (t.ctxAt 0 0).alive = true)) ∧
    (State.reset.cycle < 1024 * (State.reset.det.samples + 1)) ∧
    (1024 * (State.reset.det.samples + 1) ≤ ({ State.reset with cycle := 1024 } : State).cycle) ∧
    (let s : State := { inDomains {} { domained with life := .parked (.wait false 5 3) } with det := { idle := [(0, 7)] } }
     s.settled dom0 true = true ∧ widest [dom0] dom0 = true ∧ (s.scopeIdle dom0.dies = true ∨ dom0.dies ≠ [])) ∧
    (let d := { dom0 with lvl := 4, wave := 1 }
     let s (d : Domain) : State := { small with domains := [d] }
     (s d).domain 4 7 = some d ∧ d.coord = (s d).dev ∧ d.wave = 1 ∧ ((s d).probeAnswer d).2.1 = false ∧
      (({ one {} { domained with life := .parked (.wait false 5 3) } with domains := [d] } : State).probeAnswer d).2.1 = true ∧
      (∀ wave ∈ [2, 3], ∀ ok : Bool,
        let e : Domain := { d with wave := wave, answers := [(0, ok, 0, 0, 0)], first := [(0, true, 0, 0, 0)] }
        (s e).domain 4 7 = some e ∧ e.answers.length = e.ndev ∧ (s e).releaseDue e = false ∧ e.hwake = false) ∧
      (let e := { d with wave := 4, failedAt := some 4 }
       e.wave = 4 ∧ e.failedAt = some 4 ∧ 4 + 4096 ≤ ({ s e with cycle := 4100 } : State).cycle)) := by decide +kernel

/-! ## Witnesses: distributors -/

/-- A task record, undated, of one core. -/
def aTask : Task := ⟨Vector.replicate 16 0, false, 0, false, 0, none, none, false⟩

theorem witness_RangeTasks :
    (let s := one { team := some team, sync := 1 } live
     small.teamOf 0 = none ∧ s.teamOf 0 = some team ∧ team.rt = true ∧ s.padBad 0 8 = none ∧ s.me.isSync 0 = true ∧
      s.me.isSync 65536 = false ∧ s.padBad 65536 8 = none ∧ s.ctx.taskqs < 2 ∧ 2 ≤ (s.setCtx { s.ctx with taskqs := 2 }).ctx.taskqs ∧
      (one { team := some { team with rt := false } } live).teamOf 0 = some { team with rt := false } ∧
      (s.core 0).isFull 0 = false ∧ (s.core 0).isFull 4 = false) ∧
    (let r : TaskqReq := ⟨3, false, 0, 0, 0, 0, 0, 0⟩
     let p : Pool := ⟨0, 10, 4, [], []⟩
     let l : Launch := ⟨3, 0, aTask, [7], some p, []⟩
     let s : State := { one { team := some team, sync := 1 } live with
       dists := [(0, ({ taskqs := [r] } : Dist))], launches := [l] }
     (s.dist 0).taskqs[0]? = some r ∧ (∀ o ∈ (s.dist 0).taskqs.take 0, ¬(o.ep = r.ep ∧ o.ctx = r.ctx)) ∧ r.fin = false ∧
      (∀ o ∈ (s.dist 0).taskqs, o.asked = r.asked → o.launch = r.launch → ¬(o.ep < r.ep ∨ (o.ep = r.ep ∧ o.ctx.val < r.ctx.val))) ∧
      s.launches.find? (fun l => l.id = r.launch) = some l ∧ l.pool = some p ∧
      s.poolEntries 0 + 1 + s.reserved r (p.answer 0 0).2.1 ≤ 2048 ∧ r.ep < 4096) := by
  decide +kernel

/-- A pool with a holder that has two indices left, and an interval that was returned. -/
theorem witness_PoolAnswers :
    let p : Pool := ⟨4, 10, 4, [(0, 0, 1, 3)], [(3, 4)]⟩
    (p.holders.map fun h => (h.1, h.2.1)).Nodup ∧ (∀ r ∈ p.returned, r.1 < r.2) ∧
    (p.answer 1 0).2.1 = 4 ∧ (({ p with p := 10 } : Pool).answer 1 0).2 = (3, 4) ∧
    (Pool.answer ⟨10, 10, 4, [], []⟩ 1 0).2 = (endOfWork, endOfWork) := by decide +kernel

/-- A task record that is accepted: it asks for one core with the default carve. -/
def okTask : Task := { aTask with f := aTask.f.set 3 carve16 }

/-- The entry of a record that gives only its carve (header: FMASK bit 3, one word). -/
def okEntry (who : Option (Nat × Fin 11)) : Entry := ⟨2, false, false, [0x10008, carve16], who⟩

/-- A result of operands read from memory. -/
def gotten {α : Type} (r : Except Res (State × α)) : Bool := match r with | .ok _ => true | .error _ => false

/-- A task record whose CTRL gives a core count (R425). -/
def withCtrl (c : Word) : Task := { okTask with f := okTask.f.set 0 c }

theorem witness_TaskQueues :
    (let s := small.setX 6 0x10000
     (s.x 6).toNat % 8 = 0 ∧ (4 : Word).toNat % 8 ≠ 0 ∧ (0x40 : Word).extractLsb' 6 58 ≠ 0 ∧ (s.x 7).extractLsb' 6 58 = 0 ∧
      gotten (s.innerWords (s.x 6) 1) = true ∧
      (match s.innerWords (s.x 6) 1 with
        | .ok (u, h) => (match u.innerWords (s.x 6 + 8) ((h.headD 0).extractLsb' 16 8).toNat with
          | .ok (v, _) => v.relStep.2 | .error _ => false)
        | .error _ => false) = true) ∧
    (let e := okEntry (some (0, 0))
     let s : State := { one {} { live with hold := .put } with dists := [(0, ({ entries := [e] } : Dist))] }
     let x := s.dist 0
     (s.core 0).frozen = false ∧ (one { frozen := true } { live with hold := .put } : State).me.frozen = true ∧
      x.entries[0]? = some e ∧ (∀ o ∈ x.entries.take 0, o.q ≠ e.q) ∧ entryReason (e.words.headD 0) (e.task x).f e.app = none ∧
      (x.queues[e.q]).length < Config.nQueue) ∧
    (∀ t ∈ [okTask, withCtrl 2],
      let x : Dist := { queues := (Vector.replicate 16 []).set 2 [t] }
      let s : State := { State.reset with dists := [(0, x)], cycle := 27 }
      (s.dist 0).queues[2] = [t] ∧ t.checked = false ∧ t.noted = false ∧ t.headAt.getD s.time = s.time ∧ t.deadline < s.time ∧ State.reset.time ≤ t.deadline ∧ s.canPost = true ∧
        t.crec = 0 ∧ t.drop = t.f[0].getLsbD 1 ∧ t.late = 0 ∧ ({ t with noted := true } : Task).noted = true) ∧
    (let x : Dist := { queues := (Vector.replicate 16 []).set 2 [{ okTask with checked := true }] }
     let s : State := { State.reset with dists := [(0, x)] }
     (s.dist 0).unchecked = false ∧ (s.dist 0).best ≠ (s.dist 0).selected ∧ x.best = some (3, { okTask with checked := true })) := by
  decide +kernel

theorem witness_LaunchAndCompletion :
    (let s : State := { State.reset with
       dists := [(0, ({ selected := some (17, okTask), transfer := [okTask] } : Dist))], pkg := { boot := 7 } }
     s.pkg.ttrip = false ∧ (s.dist 0).selected = some (17, okTask) ∧ (s.dist 0).stands = true ∧ okTask.image = none ∧ s.pkg.boot = 7 ∧ s.canPost = true ∧
      s.place 0 okTask = .cores [0] ∧ (match s.readDomains 0 okTask with | .ok (.ok l) => l.isEmpty | _ => false) = true ∧
      (s.launch 0 okTask [0] []).isSome = true ∧ [0].Nodup) ∧
    (∀ p ∈ [(page 1 .own 0 0, rWrite), (page 2 .host 0 0, rWrite), (page 4 .lat 9 3, rJoin)],
      let s : State := { State.reset with clusters := [(p.1.vpn, { l2 := [p.1] })] }
      let a : Word := BitVec.ofNat 64 (p.1.vpn * 65536)
      (match s.distLook 0 a true with | .ok g => g == p.1 | _ => false) = true ∧ s.canPost = true ∧
        s.admitted (s.distMaster 0) kHome (p.1.pa a / 65536) p.2 = true ∧ s.heldSectors (p.1.pa a / 128) (maskRun 128 0 64) true = []) ∧
    (let p : Plan := ⟨okTask, ⟨16, true, 0, 0, false, 0⟩, [0], [5], [], 3, 0⟩
     0 < p.eps.length ∧ p.task.shape = 0) ∧
    (let t := { team with ended := some (0, 4, 0, 0, 0) }
     let s := one { team := some t } { live with life := .retired }
     (s.core 0).gang.g = false ∧ (s.core 0).team = some t ∧ (s.core 0).cb = [] ∧ s.teamBusy [0] = false ∧ s.canPost = true ∧
      (match s.postRecord 0 t.crec 0 (completion 0 t.num 4 t.tag 0 0 0 t.nrep 0) with | .ok _ => true | .error _ => false) = true) := by
  decide +kernel

/-- The image of a team of core 0, whose state is kept at 4096. -/
def image : Image := ⟨3, 0, 7, 9, [(0, 4096)], aTask, []⟩

theorem witness_BalancingAndPreemption :
    (State.reset.cycle < 4096 * (State.reset.pkg.balanced + 1)) ∧
    (4096 * (State.reset.pkg.balanced + 1) ≤ ({ State.reset with cycle := 4096 } : State).cycle) ∧
    ((State.reset.post (.migrate 0 1 16 [5])).net[0]? = some (.migrate 0 1 16 [5])) ∧
    (let c := withCtrl 0x8F0010
     let s : State := { one { team := some team } live with
       dists := [(0, ({ selected := some (17, c), transfer := [c] } : Dist))], pkg := { boot := 7, imgN := 1 } }
     (s.core 0).teamCores 0 = [0] ∧ (s.core 0).team = some team ∧ team.ended = none ∧ team.stop = false ∧ 0 ∈ s.victims (stackOf 0)) ∧
    (let t := { team with stop := true }
     let s := one { team := some t } live
     (s.core 0).team = some t ∧ s.coreStill 0 = true) ∧
    (let t := { aTask with image := some 3 }
     let s : State := { one {} { live with life := .retired } with
       dists := [(0, ({ selected := some (0, t), resume := [t] } : Dist))], pkg := { boot := 7 }, images := [image]
       cores := [(4096, ({ team := some team } : Core).setCtx 0 live)] }
     (s.dist 0).selected = some (0, t) ∧ t.image = some image.id ∧ s.images.find? (fun j => j.id = image.id) = some image ∧
      s.targetOk 0 image [0] = true ∧ s.pkg.boot = 7 ∧ (s.dist 0).stands = true ∧
      s.canPost = true ∧ s.pkg.ttrip = false) ∧
    (let s := State.reset.post (.flushed 1 0 7)
     s.net[0]? = some (.flushed 1 0 7) ∧ ∀ m ∈ s.net.take 0, ∀ a o, m ≠ .flushed a 0 o) := by
  refine ⟨by decide +kernel, by decide +kernel, by decide +kernel, by decide +kernel, by decide +kernel, by decide +kernel, ?_⟩
  exact ⟨by decide +kernel, fun m h => by simp [State.reset, State.post] at h⟩

/-! ## Witnesses: memory cores -/

/-- A call of core 0, context 0. -/
def aCall : Call := ⟨9, Vector.replicate 8 0, 0, 0, 5, 0, 0⟩

/-- Memory core 576 leased to context 0 of core 0, and core 0. -/
def leased (m : MemCore) (x : Ctx) : State :=
  { one {} { x with leases := [(1, 576)] } with
    mcs := [(576, { m with lessee := some (0, 0, 1), tlb := pages, count := 1 })] }

/-- It runs a call. -/
def running (m : MemCore) : State := leased { m with st := .running, call := some aCall } live

theorem witness_LeasesAndCalls :
    (let s := small.setX 6 (winAddr 0 576 0)
     let w := s.x 6
     aDev w = s.dev ∧ aWin w = true ∧ aOff w = 0 ∧ aEp w = 576 ∧ isMemCore 576 = true ∧ (1 : Word).extractLsb' 16 48 = 0 ∧
      (1 : Word).extractLsb' 0 16 ≠ 0 ∧ freeKey s.ctx.leases 4 = some 0 ∧ s.admitted (s.master 0) kMem 576 rCommand = true ∧
      s.ctx.leaseOf 1 = none ∧ (leased {} live).ctx.leaseOf 1 = some 576 ∧ isMemCore (aEp 0) = false ∧ s.relStep.2 = true ∧
      (leased {} live).relStep.2 = true ∧ mget s.ctx.leases 0 = none) ∧
    (let s : State := { small with sc := [⟨0, 0, 0, .unlease 1⟩], cycle := 96 }
     s.nextWindow = some 0 ∧ 32 * (0 + 1) + 64 ≤ s.cycle) ∧
    ((small.mc 576).st = .free ∧ (small.core 0).frozen = false ∧ (small.mc 576).freed ≤ 0 ∧ (small.mc 576).disabled = false ∧ (small.mc 576).marked = false ∧
      ((leased { st := .leased } live).mc 576).st ≠ .free) ∧
    (let held (st : McState) : Bool := st == .leased || st == .running
     let kept (st : McState) : Bool := held st || st == .held
     (∀ p ∈ [held, kept], (leased { st := .leased } live).holds 0 0 1 p = some 576 ∧ (running {}).holds 0 0 1 p = some 576) ∧
      (leased { st := .held } live).holds 0 0 1 kept = some 576 ∧ (leased { st := .draining } live).holds 0 0 1 (· == .draining) = some 576 ∧
      ((leased { st := .leased } live).mc 576).call = none ∧ ((running {}).mc 576).call ≠ none ∧
      small.holds 0 0 1 kept = none ∧ (small.core 0).frozen = false) ∧
    (let s := ((leased { st := .leased } live).setX 6 0x90001).setX 7 0x10000
     let v := s.x 6
     v.extractLsb' 2 14 = 0 ∧ v.extractLsb' 28 36 = 0 ∧ mget s.ctx.leases (v.toNat % 4) = some 576 ∧ (s.x 7).toNat % 64 = 0 ∧
      (0x10020 : Word).toNat % 64 ≠ 0 ∧
      (match s.innerWords (s.x 7) 8 with
        | .ok (u, ws) =>
          let r := u.releaseRanges 0 (argRanges ws (ws.headD 0).toNat)
          decide ((ws.headD 0).extractLsb' 2 62 = 0) && u.ticketFree 0 0 && !r.rangesBusy 0 (argRanges ws (ws.headD 0).toNat) &&
            (r.mc 576).call.isNone && (r.mc 576).queued.isNone && (r.mc 576).sent.isEmpty &&
            r.admitted (r.master 0) kMem 576 rCommand
        | .error _ => false) = true) ∧
    (∀ m ∈ [({ st := .leased, sent := [aCall] } : MemCore), { st := .running, call := some aCall, sent := [aCall] },
        { st := .leased, sent := [{ aCall with ep := 1 }] }],
      let s := leased m live
      ∃ c, (s.mc 576).sent = [c] ∧ (s.mc 576).lessee = some (0, 0, 1) ∧ (c.ep = 0 → c.ctx = 0 → (s.mc 576).st = .leased ∨ (s.mc 576).call ≠ none) ∧
        (s.mc 576).st ≠ .held) ∧
    (let s := leased { st := .leased, ended := [(aCall, 4)] } live
     (s.mc 576).ended = [(aCall, 4)] ∧ s.mcQuiet (s.mc 576) = true ∧ (s.ctxAt 0 0).alive = true ∧ (s.ctxAt 0 1).alive = false) ∧
    (let s : State := { leased { st := .leased } live with cycle := 1024 }
     1024 * (s.pkg.leaseTicks + 1) ≤ s.cycle ∧ (s.mc 576).st = .leased ∧ (s.mc 576).count = 1) ∧
    (let s : State := { leased { st := .leased, lapsed := some 0 } live with cycle := 96 }
     (s.mc 576).lapsed = some 0 ∧ 32 * (0 + 1) + 64 ≤ s.cycle ∧ s.sc = [] ∧ (s.mc 576).st = .leased) ∧
    (let s := leased { st := .draining } live
     s.mcQuiet (s.mc 576) = true ∧ (s.mc 576).sent = [] ∧ (s.mc 576).st = .draining ∧ (s.mc 576).lessee = some (0, 0, 1)) := by
  refine ⟨by decide +kernel, by decide +kernel, by decide +kernel, by decide +kernel, by decide +kernel, ?_, by decide +kernel,
    by decide +kernel, by decide +kernel, by decide +kernel⟩
  intro m h
  simp only [List.mem_cons, List.not_mem_nil, or_false] at h
  obtain rfl | rfl | rfl := h
  · exact ⟨aCall, by decide +kernel⟩
  · exact ⟨aCall, by decide +kernel⟩
  · exact ⟨{ aCall with ep := 1 }, by decide +kernel⟩

/-- What the translation of a memory core gives. -/
def looked (s : State) (a : Word) : Option Tlb := match (s.mcLook 576 a).2 with | .hit t => some t | _ => none

/-- A bundle of two moves: the number 5 to g1, and g1 to a. -/
def bundle : Word := (0x80000005#32 ||| (1#32 <<< 25)).zeroExtend 64 ||| (((16#32 <<< 25) ||| (1#32 <<< 19)).zeroExtend 64 <<< 32)

/-- The bundle of two moves of which the second is done with 5. -/
def doneBundle : Word := (0x80000005#32 ||| (57#32 <<< 25)).zeroExtend 64 <<< 32 ||| (0x80000005#32 ||| (1#32 <<< 25)).zeroExtend 64

/-- A bundle with a done move at a core that holds the pushes `p`: the call ends at the move only when there are none. -/
abbrev DoneMoves (p : List Push) : Prop :=
  let s := running { imem := [(0, doneBundle)], pushes := p }
  let m := s.mc 576
  let b := moveOf ((mgetD m.imem m.pc 0).extractLsb' 32 32)
  McReady s 576 ∧ bundleBad (moveOf ((mgetD m.imem m.pc 0).extractLsb' 0 32)) b false = false ∧ b.fires m = true ∧ b.dst = 57 ∧
    b.get m 576 = 5 ∧ s.mcQuiet m = p.isEmpty ∧ (match s.mcMove 576 true b.dst 5 with | .ok t => t.mcQuiet (t.mc 576) | _ => false) = p.isEmpty

/-- A push of a memory core that its target, a full team's scratchpad or canopy, takes. -/
abbrev PushTaken (canopy : Bool) : Prop :=
  let p : Push := ⟨576, 0, canopy, 0, 0, 0, 7, 0, none⟩
  let s : State := { one { team := some team } live with mcs := [(576, { pushes := [p] })] }
  (s.mc 576).pushes = [p] ∧ ((s.teamOf p.ep).any fun t => t.num = p.team) = true ∧ p.addr < (s.core 0).padSize ∧
    (match s.winPut 0 false false p.addr 128 0 (2 ^ 128 - 1) with | .ok _ => true | _ => false) = true

theorem witness_MemoryCoreBundles :
    (let s := running {}
     let m := s.mc 576
     m.bufWords.any m.bad.contains = false ∧ ((running { bad := [4112] }).mc 576).bufWords.any ((running { bad := [4112] }).mc 576).bad.contains = true ∧
      m.bad.contains (4112 + 16 * m.lb.val + m.bi.val) = false ∧
     McReady s 576 ∧ m.miss = none ∧ aDev 0x10080 = s.dev ∧ aWin 0x10080 = false ∧ looked s 0x10080 = some (page 1 .own 0 0) ∧
      looked s 0x30080 = some (page 3 .lat 1 3) ∧ (0x10080 : Word).toNat % 128 = 0 ∧ (0x10084 : Word).toNat % 8 ≠ 0 ∧
      s.admitted (s.master 576) kHome 1 (Need.read.right .own) = true ∧ s.admitted (s.master 576) kHome 3 (Need.read.right .lat) = true ∧
      s.admitted (s.master 576) kHome 1 (Need.write.right .own) = true ∧ s.admitted (s.master 576) kHome 3 (Need.write.right .lat) = true ∧
      s.admitted (s.master 576) kHome 3 (Need.join.right .lat) = true ∧ s.poisoned = [] ∧ s.markers = [] ∧ s.pressQ = [] ∧
      joinAccepts (page 3 .lat 1 3).typ = true ∧ wBytes (page 3 .lat 1 3).width = 8 ∧
      maskRun 128 0 8 &&& ~~~ readMask ({ s with lines := [(0x600, { cork := true })] }.line 0x600) 1 3 (lineOf s.mem 0x600) = 0 ∧
      maskRun 128 0 4 &&& ~~~ readMask (s.line 0x800) 9 2 (lineOf s.mem 0x800) ≠ 0) ∧
    (let s := running {}
     let v := winAddr 0 0 128
     v.toNat % 128 = 0 ∧ aDev v = s.dev ∧ aWin v = true ∧ isCompute (aEp v) = true ∧ s.admitted (s.master 576) kCore 0 rWrite = true ∧
      ((64 : Word).extractLsb' 16 11).toNat = 0 ∧ (64 : Word).extractLsb' 13 3 = 0) ∧
    PushTaken false ∧ PushTaken true ∧
    (let s := running { imem := [(0, bundle)] }
     let m := s.mc 576
     let w := mgetD m.imem m.pc 0
     let a := moveOf (w.extractLsb' 0 32)
     let b := moveOf (w.extractLsb' 32 32)
     McReady s 576 ∧ s.pkg.ttrip = false ∧ m.await = none ∧ a.broken m = false ∧ b.broken m = false ∧ m.bad.contains m.pc = false ∧ m.call = some aCall ∧ bundleBad a b m.jump.isSome = false ∧
      a.dst = 1 ∧ b.dst = 16 ∧ a.imm = true ∧ b.src ≠ 48 ∧
      (match s.mcMove 576 (a.fires m) a.dst (a.get m 576) with
        | .ok t => (match t.mcMove 576 (b.fires m) b.dst (b.get m 576) with | .ok _ => true | _ => false) | _ => false) = true) ∧
    (let p : State := running { pushes := [⟨576, 0, false, 0, 0, 0, 7, 0, none⟩] }
     bundleBad (moveOf 0) (moveOf 0) false = true ∧ (running {}).mcQuiet ((running {}).mc 576) = true ∧ p.mcQuiet (p.mc 576) = false ∧
      ((running { jump := some 4 }).mc 576).jump ≠ none ∧ ((running { g := Vector.replicate 16 0 }).mc 576).st = .running) ∧
    DoneMoves [] ∧ DoneMoves [⟨576, 0, false, 0, 0, 0, 7, 0, none⟩] ∧
    (let s := running { await := some none }
     McReady s 576 ∧ (s.mc 576).await = some none ∧ s.mcQuiet (s.mc 576) = true ∧ (s.mc 576).call = some aCall) ∧
    (let s := running { await := some (some 5) }
     McReady s 576 ∧ (s.mc 576).await = some (some 5) ∧ s.mcQuiet (s.mc 576) = true ∧ (s.mc 576).call = some aCall) ∧
    (({ st := .running, call := some aCall } : MemCore).call = some aCall ∧ McState.draining ≠ .running) := by
  refine ⟨by decide +kernel, by decide +kernel, by decide +kernel, by decide +kernel, by decide +kernel, by decide +kernel, by decide +kernel,
    by decide +kernel, by decide +kernel, by decide +kernel, by decide +kernel⟩

theorem witness_ResidencyHandles :
    let s := small.setX 6 0x10000
    let h : Handle := ⟨[(1, 1, false)], 1, 0⟩
    let t := s.setCtx { s.ctx with handles := [(0, h)] }
    (0 : BitVec 32).toNat = 0 ∧ ((0x100000001 : Word).extractLsb' 32 32).toNat = 1 ∧ (0x100000001 : Word).extractLsb' 3 29 = 0 ∧
    (s.x 6).toNat % 65536 = 0 ∧ (0x10008 : Word).toNat % 65536 ≠ 0 ∧ aDev (s.x 6) = s.dev ∧ aWin (s.x 6) = false ∧
    aWin (winAddr 0 0 0) = true ∧ freeKey s.ctx.handles 8 = some 0 ∧
    freeKey ((List.range 8).map fun k => (k, h)) 8 = none ∧
    (match s.holdPages (s.x 6) [] 1 with | .ok _ => true | .error _ => false) = true ∧
    mget t.ctx.handles 0 = some h ∧ mget s.ctx.handles 0 = none ∧ s.overPinned = false := by decide +kernel

/-! ## Witnesses: lattice memory -/

/-- The pages of the portions of an access: every one is found, at its physical address. -/
def onPages (s : State) (need : Need) (cs : List Chunk) (t : Tlb) : Bool :=
  let ps := (s.locate 0 need (portions cs)).2
  !ps.isEmpty && ps.all fun p => p.2 == .page (.ok t (t.pa (p.1.headD (0, 0, 0)).1))

/-- An element access at `a` that may be made now. -/
def elemReady (s : State) (need : Need) (a : Word) (t : Tlb) : Bool :=
  decide (PieceReady s a (8 - a.toNat % 8)) && (s.translate 0 need a).2 == .ok t (t.pa a)

/-- A release variable's page: growing, 8 bytes; a FOLDH page beside the FOLDF one; and a scratchpad list of one address. -/
def listed : State :=
  (one { pad := writeNat (writeNat [] 0 8 1) 8 8 0x30008 } domained)

theorem witness_ElementInstructions :
    (elemReady small .join 0x30008 (page 3 .lat 1 3) = true ∧ elemReady small .join 0x10008 (page 1 .own 0 0) = true ∧
      elemReady small .read 0x30008 (page 3 .lat 1 3) = true ∧ elemReady small .join 0x30004 (page 3 .lat 1 3) = true ∧
      (0x30008 : Word).toNat % 8 = 0 ∧ (0x30004 : Word).toNat % 8 ≠ 0) ∧
    (small.latCopy 0 0x600 (lineBytes 0x30008 8 0).1 = none ∧
      (let c : Core := { l1 := [(0x600, ⟨true, 0x30000, 0, BitVec.allOnes 128, 0⟩)] }
       (one c live).latCopy 0 0x600 (lineBytes 0x30008 8 0).1 = some 0)) ∧
    (let s := listed
     let cs := [elemChunk 0x30008]
     (match s.readList (s.x 6) 16 with | .ok ps => ps == [0x30008] | .error _ => false) = true ∧
      s.lineBusy 0 0 false cs = false ∧ s.rangeBusy 0 cs = false ∧ s.acquiring 0 0 = false ∧ s.me.tickets ≤ 16 ∧ s.me.accs = [] ∧
      (s.locate 0 .join (cs.map fun c => [c])).2 = [([elemChunk 0x30008], .page (.ok (page 3 .lat 1 3) 0x30008))]) ∧
    (let s := small.modCtx 0 0 fun x => { x with hold := .rel 0x30008 1 }
     let s1 := { s.modCtx 0 0 fun x => { x with hold := .free } with cur := (0, 0), out := .done }
     (s.ctxAt 0 0).hold = .rel 0x30008 1 ∧ s.quiet 0 0 = true ∧ (s.ctxAt 0 0).deferred = [] ∧ (s.core 0).frozen = false ∧
      elemReady s1 .join 0x30008 (page 3 .lat 1 3) = true) ∧
    (let s := inDomains {} domained
     let h := one {} { domained with pc := 0 }
     let foldH : State := h.setMe { h.me with tlb := [page 6 .lat 13 1] }
     (s.ctx.csr.dom[3]).v = false ∧ (s.ctx.csr.dom[0]).v = true ∧ PieceReady s 0x50004 (4 - 0x50004 % 4) ∧
      (s.translate 0 .join 0x50004).2 = .ok (page 5 .lat 12 2) 0x50004 ∧
      (foldH.translate 0 .join 0x60004).2 = .ok (page 6 .lat 13 1) 0x60004) := by decide +kernel

theorem witness_WaitsAndRanges :
    (let s1 (acq : Bool) : State := { small.setCtx { small.ctx with life := .parked (.wait acq 5 small.next) } with next := small.next + 1 }
     small.flushPending 0 = false ∧ elemReady (s1 false) .wait 0x30008 (page 3 .lat 1 3) = true ∧
      elemReady (s1 true) .wait 0x30008 (page 3 .lat 1 3) = true ∧ elemReady (s1 false) .wait 0x40004 (page 4 .lat 9 2) = true ∧
      waitAccepts .ge 1 3 = true ∧ waitAccepts .acq 1 3 = true ∧ waitAccepts .has 7 3 = true ∧ waitAccepts .any 9 2 = true ∧
      waitAccepts .full 9 2 = true ∧ waitAccepts .cork 9 2 = true ∧ compatPair 9 2 [0x30008] = none ∧
      (match listed.readList (listed.x 6) 8 with | .ok _ => true | .error _ => false) = true) ∧
    (let s := (small.modCtx 0 0 fun x => { x with life := .parked (.wait false 5 3) }).post (.waitAns 0 0 3 7 0)
     s.net[0]? = some (.waitAns 0 0 3 7 0) ∧ (s.core 0).frozen = false ∧ (s.ctxAt 0 0).life = .parked (.wait false 5 3)) ∧
    (let s := (small.modCtx 0 0 fun x => { x with life := .parked (.wait true 5 3) }).post (.acqAns 0 0 3 7 1)
     s.net[0]? = some (.acqAns 0 0 3 7 1) ∧ (s.core 0).frozen = false ∧ (s.ctxAt 0 0).life = .parked (.wait true 5 3)) ∧
    (∀ f ∈ [[], [0]],
      let s := one { sync := 1, full := f } { live with life := .parked (.word 0) }
      (s.ctxAt 0 0).life = .parked (.word 0) ∧ (s.core 0).frozen = false ∧ (s.core 0).isFull 0 = !f.isEmpty) ∧
    (let s := (small.setX 6 0x30000).setX 7 256
     s.pageHeld (s.x 6) (pageLines (s.x 6) 2 false) = false ∧
      (s.x 6).toNat % 128 = 0 ∧ (s.x 7).toNat % 128 = 0 ∧ (s.x 7).toNat / 128 ≠ 0 ∧ (0x30008 : Word).toNat % 128 ≠ 0 ∧
      aDev (s.x 6) = s.dev ∧ aWin (s.x 6) = false ∧
      (s.translate 0 .cork 0x30000).2 = .ok (page 3 .lat 1 3) 0x30000 ∧ (s.translate 0 .cork 0x50000).2 = .ok (page 5 .lat 12 2) 0x50000) ∧
    (∀ w ∈ [Park.corkw, .rack],
      let s := small.modCtx 0 0 fun x => { x with life := .parked w }
      s.rangeAcked 0 0 = true ∧ (s.core 0).frozen = false ∧ s.flushPending 0 = false ∧ (s.ctxAt 0 0).life = .parked w) ∧
    (∀ p ∈ [((0x10000 : Word), page 1 .own 0 0), (0x30000, page 3 .lat 1 3)],
      let s := (small.setX 6 p.1).setX 7 65536
      let u := s.relStep.1
      let v := (u.translate 0 .cork p.1).1
      (s.x 6).toNat % 65536 = 0 ∧ (s.x 7).toNat % 65536 = 0 ∧ s.ctx.cursor < (s.x 7).toNat / 128 ∧ s.relStep.2 = true ∧
      u.me.tickets < 16 ∧ u.ctx.cursor = s.ctx.cursor ∧ (u.translate 0 .cork p.1).2 = .ok p.2 p.1.toNat ∧
      u.pageHeld p.1 (pageLines p.1 512 false) = false ∧ p.2.lg = false ∧ p.2.owner = v.me.owner ∧ p.2.mask = 0 ∧ p.2.pa p.1 < 2 ^ 40 ∧
      (v.convert 0 (s.dev, 0) (aVpn p.1) 512 v.me.owner 0 0 (v.party 0 0, v.me.nextAge, 0)).isSome = true) ∧
    (let lg : Tlb := { page 512 .lat 1 3 with lg := true }
     let s := small.setMe { small.me with tlb := [lg] }
     (s.translate 0 .cork 0x2000000).2 = .ok lg (lg.pa 0x2000000) ∧ s.pageHeld 0x2000000 512 = false ∧ s.pageHeld 0x2000000 262144 = false ∧
      (0x2000000 : Word).toNat % 33554432 = 0 ∧ 262144 ≤ 33554432 / 128 ∧
      ¬262144 ≤ 33554432 / 128 - 1) ∧
    (targetBad 0 = false ∧ targetBad 1 = true) := by
  refine ⟨by decide +kernel, by decide +kernel, by decide +kernel, by decide +kernel, by decide +kernel, by decide +kernel,
    by decide +kernel, by decide +kernel, by decide +kernel⟩

theorem witness_JoinAlgebra :
    typeOk 1 3 = true ∧ joinAccepts 1 = true ∧ typeOk 8 3 = true ∧ joinAccepts 8 = true ∧ typeOk 3 2 = true ∧ joinAccepts 3 = true ∧
    (2 ^ 64 - 1 < 2 ^ (8 * wBytes 3)) ∧ isNan32 0 = false := by decide +kernel

/-- An operation of core 0 for the line 0x600 at its press. -/
def queued (k : PressKind) : PressOp :=
  { line := 0x600, va := 0x30000, typ := 1, vint := 0, who := ⟨0, 0, 0, 0⟩, fdom := 0, kind := k, tag := 0 }

theorem witness_PressSteps :
    (∀ k ∈ [PressKind.join 3 0xFF 7 [⟨0, 0, 0, 0⟩] false, .rel 0 3 1 0, .cork, .rack, .fold 0 ⟨0, 0, 0, 0, 0, false⟩,
        .wait 0 3 .ge [1] 0 0, .read 3 0 false],
      let s : State := { small with pressQ := [queued k] }
      s.pressQ[0]? = some (queued k) ∧ (∀ o ∈ s.pressQ.take 0, o.line ≠ 0x600) ∧ (queued k).who.dev = s.dev ∧
        (queued k).who.ep ≠ 1036 ∧ s.poisoned.contains 0x600 = false ∧ (queued k).vint = (s.line 0x600).vint) ∧
    ((small.line 0x600).rack = false ∧ (small.line 0x600).fdv = false ∧ ({ queued .cork with vint := 1 } : PressOp).vint ≠ (small.line 0x600).vint ∧
      ({ small with lines := [(0x600, { rack := true })] }.line 0x600).rack = true ∧
      small.waitNow 0x600 0 1 3 .ge [1] 0 = none ∧ (small.waitNow 0x600 0 1 3 .ge [0] 0).isSome = true) ∧
    (let s : State := { small with pressQ := [queued .cork, queued .rack] }
     s.pressQ[1]? = some (queued .rack) ∧ ∃ o ∈ s.pressQ.take 1, o.line = 0x600) ∧
    (let s := small.post (.retry 1024 (queued .cork))
     s.net[0]? = some (.retry 1024 (queued .cork)) ∧ s.cycle < 1024 ∧ 1024 ≤ ({ s with cycle := 1024 } : State).cycle) ∧
    (∀ lat : Bool,
     let e : CbEntry := ⟨0x600, 0x30000, lat, 1, 3, 0, 0xFF, 7, [0], 1, 0⟩
     let s := one { cb := [e] } live
     (s.core 0).cb[0]? = some e ∧ s.cycle < e.since + 4 ∧ e.since + 4 ≤ ({ s with cycle := 4 } : State).cycle) ∧
    (∀ p ∈ [(0, some 9), (20, none)],
     let e : RouteEntry := ⟨p.1, 0, queued .cork⟩
     let s : State := { small with routers := [e] }
     s.routers[0]? = some e ∧ s.cycle < e.since + 16 ∧ e.since + 16 ≤ ({ s with cycle := 16 } : State).cycle ∧
       nextPort e.port e.op.line = p.2 ∧ (s.routers.filter fun x => !(x.port == e.port && x.op.line == e.op.line)) = []) := by
  decide +kernel

/-- The three places of a registration: the array with room; a full array; a full array and a full table. -/
theorem witness_PressSteps_places :
    let r (far : Bool) : Registration := ⟨0x600, 0, 1, 3, .ge, [1], 0, ⟨0, 0, 0, 0⟩, 0, 0, far⟩
    (((List.replicate 16 (r false)).filter fun x => x.line = 0x600 && !x.table).length = 16 ∧
      ((List.replicate 16 (r false)).filter fun x => homeSlice x.line = homeSlice 0x600 && x.table).length < 8192) ∧
    (((List.replicate 8192 (r true)).filter fun x => homeSlice x.line = homeSlice 0x600 && x.table).length = 8192) := by
  refine ⟨⟨by decide +kernel, by decide +kernel⟩, ?_⟩
  rw [List.filter_replicate, if_pos (by decide +kernel), List.length_replicate]

/-- A line whose first FILL element is filled and a corked line. -/
theorem witness_JoinsAtPress :
    let op : PressOp := { queued .cork with typ := 9 }
    let s : State := { small with lines := [(0x600, { fillst := 1 })] }
    Memory.wf s.mem = true ∧ (s.line 0x600).joinDiscard 0 = none ∧ joinAccepts 1 = true ∧ op.typ = 9 ∧ 4 ≤ wBytes 2 ∧
    0 ∈ activeOffs 4 0xFF ∧ 4 ∈ activeOffs 4 0xFF ∧ (s.line 0x600).fill 9 0 = 1 ∧ (s.line 0x600).fill 9 1 = 0 ∧
    lineVal (lineOf s.mem 0x600) 0 4 = lineVal 0 0 4 ∧ lineVal (lineOf s.mem 0x600) 0 4 ≠ lineVal 5 0 4 ∧
    ({ small with lines := [(0x600, { cork := true })] }.line 0x600).joinDiscard 0 ≠ none ∧ (∀ p ∈ [(⟨0, 0, 0, 0⟩ : Party)], p.dev = s.dev) ∧
    (let line (st : Nat) : State := { small with lines := [(0x600, { fillst := BitVec.ofNat 64 st })] }
     ({ op with typ := 10 }).typ = 10 ∧ s.regs = [] ∧
     ∀ st ∈ [0, 1, 2], ((line st).line 0x600).joinDiscard 0 = none ∧ ((line st).line 0x600).fill 10 0 = BitVec.ofNat 2 st ∧
       lineOf (line st).mem 0x600 = 0 ∧ lineOf (line st).mem 0x600 ≠ 5) := by decide +kernel

/-! ## Witnesses: vectors and matrices -/

theorem witness_VectorArithmetic :
    (let w := elemBits .f32
     let A := small.ctx.active (4096 / w)
     (∀ srcs ∈ [[1, 2], [1], []],
       small.misuse srcs [3] (srcs ++ [3]) = false ∧
       (match small.vsrcs srcs with | .ok vs => vs == srcs.map fun _ => 0 | .error _ => false) = true ∧
       (small.vrefuse 3 (actBytes w A)).isNone = true ∧ (small.vrefuse 3 (BitVec.allOnes 512)).isNone = true) ∧
     isFltT .f32 = true ∧ isFltT .i8 = false ∧ (elemFlt .f32).isSome = true ∧ small.ctx.bound 3 = none ∧
     (3 : Reg).toNat ≤ 7 ∧ 7 < (8 : Reg).toNat ∧ small.misuse [1] [] [1] = false ∧ small.misuse [1, 2] [] [1, 2] = false ∧
     (cvtFmt 0).isSome = true ∧ cvtFmt 31 = none ∧ small.ctx.csr.rnd ≠ 3) ∧
    (small.setCtx { small.ctx with csr := { small.ctx.csr with rnd := 3 } }).ctx.csr.rnd = 3 := by decide +kernel

/-- Loads and stores of whole blocks, segments and lanes: the OWN page, the LAT pages; a full and an empty synchronised block; a
bound write generator. -/
theorem witness_VectorMemory :
    (let s := small
     let byte := s.ctx.byteMask
     let free (cs : List Chunk) : Bool := !s.lineBusy 0 0 true cs && !s.lineBusy 0 0 false cs && !s.rangeBusy 0 cs &&
       !s.acquiring 0 0 && !s.heldAcquire 0 cs && (s.firstEmpty 0 byte cs).isNone
     byte = BitVec.allOnes 512 ∧ s.me.teamCores 0 = [0] ∧ s.me.tickets ≤ 16 ∧ s.me.remotes s.dev ≤ 256 ∧ s.me.accs = [] ∧
      s.misuse [] [3] [3] = false ∧ s.misuse [3] [] [3] = false ∧ s.misuse [2] [3] [2, 3] = false ∧ s.misuse [2, 3] [] [2, 3] = false ∧
      (∀ p ∈ [((0x10000 : Word), page 1 .own 0 0), (0x30000, page 3 .lat 1 3), (0x50000, page 5 .lat 12 2)],
        free (blockChunks p.1) = true ∧ onPages s .read (blockChunks p.1) p.2 = true ∧ onPages s .join (blockChunks p.1) p.2 = true) ∧
      onPages s .write (blockChunks 0x10000) (page 1 .own 0 0) = true ∧
      segBad 4 0x10000 0x6000000000000040 = none ∧ segBad 6 0x10000 0x6000000000000040 = none ∧ onPages s .read (segChunks 0x10000 0x6000000000000040) (page 1 .own 0 0) = true ∧
      laneBad (laneChunks 0x10000 0) (laneMask byte) = none ∧ onPages s .read (laneChunks 0x10000 0) (page 1 .own 0 0) = true ∧
      (0x10020 : Word).toNat % 64 ≠ 0 ∧ small.latCopy 0 0x600 (lineForm [(0x30000, 0, 64)] byte 0).1 = none) ∧
    (let b : Stream := ⟨2, false, 4, 0, 1, 0, 0, 0⟩
     let s := one {} { live with streams := [(24, b)] }
     s.ctx.bound 24 = some b ∧ s.me.genBad (s.win 0) b 0 = none ∧ s.misuse [] [24] [24] = false ∧ s.ctx.hold = .free ∧ s.genHeld 0 0 24 = false) ∧
    (∀ p ∈ [(true, ([] : List Nat)), (false, []), (false, List.range 128)],
      let s := one { sync := 1, ftrap := p.1, full := p.2.map fun k => k } live
      let words := maskWords 0 512 (laneMask s.ctx.byteMask).toNat
      s.mustWait true (words.map fun w => (s.padAddr w, 0, 4)) = false ∧
      (s.setMe { s.me with held := [⟨s.padAddr 0, 4, 0⟩] }).mustWait true (words.map fun w => (s.padAddr w, 0, 4)) = true ∧
      words.find? (fun k => !decide (k + 4 ≤ s.me.padSize) || !s.me.isSync k) = none ∧
      s.me.emptyWord 0 512 (laneMask s.ctx.byteMask).toNat = (if p.2.isEmpty then some 0 else none) ∧ (s.vrefuse 3 0).isNone = true) ∧
    (let s := one { sync := 1 } live
     let a := winAddr 0 0 0
     aWin a = true ∧ aDev a = s.dev ∧ isCompute (aEp a) = true ∧ s.coreOn (aEp a) = true ∧ laneMask s.ctx.byteMask ≠ 0 ∧
      NothingOlder s false a 512 ∧ s.me.tickets ≤ 16 ∧ s.me.accs = [] ∧
      s.imageBusy false (laneMask s.ctx.byteMask) [([(a, 0, 512)], .window)] = false ∧
      s.admitted (s.master 0) kCore (aEp a) rWrite = true ∧ (s.core (aEp a)).vstfBad (aOff a) (laneMask s.ctx.byteMask).toNat = none) ∧
    ((3 : Reg).toNat < 24 ∧ (0xC000000000000000 : Word).extractLsb' 62 2 = 3 ∧ (one { aqb := 1 } live).chanTaken 24 0 = false ∧
      genOk 0x4000000100000000 0x0001000000000000 = true ∧ genOk 0x4000000000000000 0 = false ∧
      genOk 0x4000000100400000 0x0001000000000000 = true ∧ small.me.padSize ≤ 0x400000 ∧
      (3 : Reg) ≠ 0 ∧ (one { aqb := 0 } live).me.aqb = 0) := by
  refine ⟨by decide +kernel, by decide +kernel, by decide +kernel, by decide +kernel, by decide +kernel⟩

/-- The matrix command MZERO of context 0. -/
def zeroes : MCmd := small.mcmd (.mzero 0) 0 0 0 0

theorem witness_MatrixCommands :
    (small.me.gang.g = false ∧ zeroes.check small.me (small.win 0) = none ∧ small.me.engineUse < 2 ∧ small.pushHeld = false ∧
      (small.addAcc 0 (scalarAcc small .store 0x10000 8 0 .none (.ticket 0 0))).pushHeld = true ∧
      ((small.mcmd (.mzero 4) 0 0 0 0).check small.me (small.win 0)) = some (2, 0) ∧
      2 ≤ (one { mq := [zeroes, zeroes] } live).me.engineUse ∧
      (small.mcmd (.mma 0 0 0 0 13 1 2 3) 0 0x10010 0 0).check small.me (small.win 0) = none) ∧
    (small.me.mx = true ∧ (one { mx := false } live).me.mx = false ∧ (5 : Word).extractLsb' 8 56 = 0 ∧ (0x100 : Word).extractLsb' 8 56 ≠ 0 ∧
      small.misuse [] [5] [5] = false ∧ (small.vrefuse 5 (BitVec.allOnes 512)).isNone = true ∧
      (match small.vsrc 5 with | .ok r => r == 0 | .error _ => false) = true) ∧
    (let s : State := { one { pad := writeNat [] 0 8 0x505B } live with cores := [(0, ({ pad := writeNat [] 0 8 0x505B } : Core).setCtx 0 live)] }
     let t := winAddr 0 1 0
     aDev t = s.dev ∧ aWin t = true ∧ isCompute (aEp t) = true ∧ aOff t = 0 ∧ s.coreOn (aEp t) = true ∧ 0 + 64 ≤ s.me.padSize ∧
      s.rangeBusy 0 [(s.padAddr 0, 0, 64)] = false ∧
      (match s.listWords 0 8 with
        | .ok ws => (sendInstr ((ws.headD 0).extractLsb' 0 32)).isSome && !blockBad ws
        | .error _ => false) = true ∧ s.me.mx = true ∧ s.donePlaces < 8 ∧ s.relStep.2 = true ∧ sendInstr 0 = none) ∧
    (∀ st ∈ [0, 1, 2],
      let c : Completion := ⟨BitVec.ofNat 64 (st * 65536), 0, 0⟩
      let s := one {} { live with done := [c], nPush := 1 }
      s.ctx.pushed + s.ctx.done.length ≠ 0 ∧
      s.ctx.done.find? (fun c => decide (c.token.extractLsb' 24 16 = s.ctx.oldestSeq)) = some c ∧ (c.token.extractLsb' 16 4).toNat = st) ∧
    (small.ctx.pushed = 0 ∧ small.ctx.done = [] ∧ small.offersPending = false ∧
      (one {} { live with pushed := 1, nPush := 1 }).ctx.pushed + 0 ≠ 0) ∧
    (let s := small.setMe { small.me with tlb := [page 6 .lat 3 2] }
     elemReady s .join 0x60004 (page 6 .lat 3 2) = true) := by
  refine ⟨by decide +kernel, by decide +kernel, by decide +kernel, by decide +kernel, by decide +kernel, by decide +kernel⟩

theorem witness_MatrixEngine :
    (let s := one { mq := [zeroes] } live
     (s.core 0).mrun = none ∧ (s.core 0).mq = [zeroes] ∧ s.mayStart 0 zeroes = true ∧ zeroes.refused (s.core 0) (s.win 0) = none) ∧
    (let q := { zeroes with sent := true, instr := .mzero 4, ep := 1 }
     let s := one { mq := [q] } live
     (s.core 0).mq = [q] ∧ s.mayStart 0 q = true ∧ q.refused (s.core 0) (s.win 0) ≠ none) ∧
    (let s := one { mq := [zeroes] } { live with done := List.replicate 8 ⟨0, 0, 0⟩ }
     s.mayStart 0 zeroes = false) ∧
    (let d := zeroes.plain
     let s := one { mrun := some { d with cmd := { zeroes with sent := true } } } live
     (s.core 0).mrun = some { d with cmd := { zeroes with sent := true } } ∧ d.copying = none ∧
      ({ d with cmd := { zeroes with orphan := true } } : MDone).cmd.orphan = true ∧ zeroes.orphan = false) ∧
    (∀ c ∈ [({} : Core), { mq := [zeroes, zeroes] }, { kmcap := 0x10 }, { kmcap := 0x1F }],
      let s := (one c live).post (.msend 0 { zeroes with sent := true } 0)
      s.net[0]? = some (.msend 0 { zeroes with sent := true } 0) ∧ s.admitted (s.master 0) kCore 0 rCommand = true) ∧
    (let c : Core := { kmcap := 0x10 }
     let d : Core := { kmcap := 0x1F }
     ({} : Core).kmcap.getLsbD 4 = false ∧ c.kmcap.extractLsb' 32 32 = 0 ∧ c.kmcap.getLsbD (allowBit (.mzero 0)) = false ∧
      d.kmcap.getLsbD (allowBit (.mzero 0)) = true) ∧
    (keysRise (small.core 0).z = true ∧ (small.ctxAt 0 0).bound 3 = none) := by decide +kernel

theorem witness_IntegerMatrixProduct :
    let q := small.mcmd (.mma 0 0 0 0 13 1 2 3) 0 0x10010 0 0
    q.instr = .mma 0 0 0 0 13 1 2 3 ∧ (q.b.extractLsb' 0 10).toNat ≤ 512 ∧ keysRise (small.core 0).z = true ∧
    Memory.wf (small.core 0).pad = true ∧ Memory.wf (small.core 0).canopy = true := by decide +kernel

/-! ## Witnesses: casks -/

/-- CK.FILL of four FP32 elements at 0. -/
def fill (ep : Nat) : Cask :=
  ⟨7, false, 0, 0, 0, 4, 0x3F800000, 0, false, 0, 0, ep, 0, 0x10000, 0, false, false, [], [], 0⟩

theorem witness_CaskCommands :
    (caskBad 7 1 0 4 0 = none ∧ caskBad 7 1 0 0xF0004 0 ≠ none ∧ (0 : Word).getLsbD 53 = false ∧
      (fill 0).check small.me (small.win 0) 4 = none ∧ { fill 0 with p := 2 }.check small.me (small.win 0) 4 = some (6, winAddr 0 0 2) ∧
      small.me.held.length + (fill 0).live.length ≤ 32 ∧ small.me.caskRoom (fill 0) = true ∧
      (one { casks := List.replicate 4 (fill 0) } live).me.caskRoom (fill 0) = false) ∧
    (let a : Word := winAddr 0 1 0 &&& 0x3FFFFFFFFFFFFF
     caskBad 7 1 a 4 0 = none ∧ a.getLsbD 53 = true ∧ (a.extractLsb' 42 11).toNat = 1 ∧ isCompute 1 = true ∧ small.coreOn 1 = true ∧
      small.relStep.2 = true ∧ small.relStep.1.me.nextAge = small.me.nextAge ∧
      (small.addAcc 0 (scalarAcc small .store 0x10000 8 0 .none .remote)).relStep.2 = false) ∧
    (let s := one { casks := [fill 0] } live
     (s.core 0).casks[0]? = some (fill 0) ∧ (s.core 0).held = [] ∧ (s.core 0).allFull ((fill 0).reads.filter fun r => r.2 ≠ 0) = true ∧
      (wordsOf (fill 0).writes).find? (fun w => (s.core 0).isSync w && (s.core 0).isFull w) = none ∧
      (fill 0).errors (s.core 0) = [] ∧ s.acquiring 0 0 = false ∧
      (let run (q : Cask) : Cask :=
        { q with started := true, out := q.runs (q.run (s.core 0) []).1.pad [], fill := q.filled [], flags := (q.run (s.core 0) []).2 }
       (run (fill 0)).parts.length ≤ 1 ∧ 1 < (run { fill 0 with p := 65528 }).parts.length ∧
        (run { fill 0 with p := 65528 }).parts.min? = some 0 ∧ ((run { fill 0 with p := 65528 }).rest 0).parts ≠ [] ∧
        ((run (fill 0)).rest 0).parts = [])) ∧
    (let c := (one { casks := [fill 0], sync := 1, full := [0] } live).core 0
     (wordsOf (fill 0).writes).find? (fun w => c.isSync w && c.isFull w) = some 0) ∧
    (let s := one { casks := [fill 0, fill 0] } live
     (s.core 0).casks[1]? = some (fill 0) ∧ ¬(∀ o ∈ (s.core 0).casks.take 1, ∀ b ∈ o.parts, b ∉ (fill 0).banks)) ∧
    (let s := small.post (.cask 0 (fill 1))
     s.net[0]? = some (.cask 0 (fill 1)) ∧ s.admitted (s.master 1) kCore 0 rCommand = true ∧
      (fill 1).check (s.core 0) (s.win 0) (fill 1).desc = none ∧ (s.core 0).caskRoom (fill 1) = true ∧
      ({ s with fab := { s.fab with access := [] } } : State).admitted (s.master 1) kCore 0 rCommand = false ∧ (s.core 1).frozen = false) ∧
    ((small.post (.caskDone (fill 0) 0 none)).net[0]? = some (.caskDone (fill 0) 0 none) ∧ (small.ctxAt 0 0).alive = true) := by
  refine ⟨by decide +kernel, by decide +kernel, by decide +kernel, by decide +kernel, by decide +kernel, ?_, by decide +kernel⟩
  decide +kernel

theorem witness_CaskResults :
    Memory.wf ({} : Core).pad = true ∧ (∀ k ∈ [0, 1, 2, 3, 4, 5, 7, 8, 9], caskFmt k 0 = true) ∧ caskFmt 6 14 = true ∧
    keysRise ({} : Core).amax = true ∧
    (∀ k ∈ [4, 5, 6],
      let q := { fill 0 with kind := k, p := 64, q := 0, fmt := if k = 6 then 14 else 0, len := 16, amaxEn := true }
      q.kind = k ∧ 0 < q.len ∧ q.q + 16 ≤ q.p ∧ (fmtBlock q.fmt = 0 ∨ q.len % fmtBlock q.fmt = 0)) := by
  decide +kernel

/-! ## Witnesses: copies, translation, package -/

/-- A CP of 4 bytes inside the scratchpad of core 0, from 8 to 0, and the state whose engine has it first. -/
def copy (kind : Nat) : Copy := ⟨kind, winAddr 0 0 0, winAddr 0 0 8, 4, 0, 0, 0x10000, 5, 0, [], false, 0, false⟩
def copying (q : Copy) (c : Core) : State := one { c with cq := [q], nextAge := 1 } live

/-- A window read: 0 the bytes, 1 an empty word, 2 no such words. -/
def winGives (r : WinRead) : Nat := match r with | .ok _ => 0 | .empty _ => 1 | .bad _ => 2
/-- A window write: 0 written, 1 a full word. -/
def putGives (r : WinWrite) : Nat := match r with | .ok _ => 0 | .full _ => 1 | _ => 2

theorem witness_Copies :
    (let s := ((small.setX 6 0x10000).setX 7 0x20000).setX 8 256
     (s.x 8).extractLsb' 32 32 = 0 ∧ (s.x 6).toNat % 4 = 0 ∧ (s.x 7).toNat % 4 = 0 ∧ (s.x 8).toNat % 4 = 0 ∧ s.x 8 ≠ 0 ∧
      (0x10002 : Word).toNat % 4 ≠ 0 ∧ s.me.cq.length < 2 ∧ s.me.held.length + 2 ≤ 32 ∧ s.pushHeld = false ∧
      ¬(one { cq := [copy 0, copy 0] } live).me.cq.length < 2) ∧
    (∀ kind ∈ [0, 1, 2, 3],
      let q := copy kind
      let s := copying q {}
      q.kind < 4 ∧ q.at_ < q.len ∧ (s.core 0).cq = [q] ∧ (s.core 0).mrun = none ∧ s.copyHeld 0 q = false ∧ q.failed = false ∧
        (s.copyOut 0 q).isNone ∧ q.portion = 4 ∧ aDev q.src = s.dev ∧ aWin q.src = true ∧ isCompute (aEp q.src) = true ∧
        aDev q.dst = s.dev ∧ aWin q.dst = true ∧ isCompute (aEp q.dst) = true ∧ s.coreOn (aEp q.dst) = true ∧
        s.admitted (s.master 0) kCore (aEp q.src) rRead = true ∧ s.admitted (s.master 0) kCore (aEp q.dst) rWrite = true) ∧
    (let get (s : State) (o : Nat) : Nat := winGives (s.winRead 0 (s.sysLevel 0 0) o 4 15)
     let put (s : State) : Nat := putGives (s.winPut 0 (s.sysLevel 0 0) (is960 0) 0 4 7 15)
     get (copying (copy 0) {}) 8 = 0 ∧ get (copying (copy 0) { sync := 1 }) 8 = 1 ∧ get (copying (copy 0) {}) 0x3FFFF0 = 2 ∧
      put (copying (copy 0) {}) = 0 ∧ put (copying (copy 3) { sync := 1 }) = 0 ∧ put (copying (copy 3) { sync := 1, full := [0] }) = 1 ∧
      ∀ w ∈ maskWords 0 4 15, ((copying (copy 3) { sync := 1 }).core 0).isSync w = true) ∧
    (∀ q ∈ [{ copy 0 with at_ := 4 }, { copy 0 with failed := true }, { copy 0 with at_ := 4, orphan := true }],
      let s := copying q {}
      (s.core 0).cq = [q] ∧ q.over = true ∧ (s.copyOut 0 q).isNone) ∧
    (copying (copy 0) { held := [⟨winAddr 0 0 0, 4, 0⟩] }).copyHeld 0 { copy 0 with age := 1 } = true := by
  refine ⟨by decide +kernel, by decide +kernel, by decide +kernel, by decide +kernel, by decide +kernel⟩

/-- Service core 960 with its own pages, in a device of 16 MiB. -/
def svc : State :=
  { State.reset with
    cores := [(960, (({ tlb := pages } : Core).setCtx 0 live))], cur := (960, 0), pkg := { t1size := 0x1000000 }
    mem := writeNat (writeNat [] 0x10000 8 0x8000000000000007) 0x10008 8 0x1000000000 }

theorem witness_ServiceInstructions :
    (isService svc.cur.1 = true ∧ isService small.cur.1 = false ∧ bare.ctx.csr.prv = false ∧ small.ctx.csr.prv = true) ∧
    (let s := svc.setX 6 0x10000
     (s.x 6).toNat % 8 = 0 ∧ (4 : Word).toNat % 8 ≠ 0 ∧
      (match s.innerWords (s.x 6) 3 with
        | .ok (u, [tag, map, ownw]) => u.cur == s.cur && (match u.tlbImage tag map ownw with | .ok t => t.vpn == 7 | .error _ => false)
        | _ => false) = true ∧
      (match s.tlbImage 0 0 0 with | .error _ => true | .ok _ => false) = true) ∧
    ((0x10000 : Word).toNat % (65536 * 1) = 0 ∧ (0x10000 : Word).toNat % (65536 * 512) ≠ 0 ∧ (1 : Word).extractLsb' 32 32 = 0 ∧
      (1 : Word).extractLsb' 2 14 = 0 ∧ svc.pinned 1 1 = false ∧
      (let s := svc.modCore 960 fun c => c.setCtx 0 { live with handles := [(0, ⟨[(1, 1, false)], 1, 0⟩)] }
       s.pinned 1 1 = true) ∧
      (let u := svc.everyTlb fun l => l.filter fun t => !t.within 1 1
       ((u.flushSubs 1 0).sendPages 1 1).pagesBusy 1 1 = false)) ∧
    (let s (k : Slot) : State := { svc with clusters := [(0, { slots := (Vector.replicate 8 {}).set 0 k })] }
     ((s {}).cluster 0).slots[(0 : Fin 8)].st = 0 ∧ ((s { st := 1 }).cluster 0).slots[(0 : Fin 8)].st ≠ 0 ∧
      (let k : Slot := { st := 1, kind := 2, vpn := 1, who := some (⟨0, 0, 0, 0⟩, 0, 0) }
       ((s k).cluster 0).slots[(0 : Fin 8)].kind = 2 ∧ (s k).convertBusy k = false)) ∧
    ((0x10000 : Word).extractLsb' 27 37 = 0 ∧ isCompute ((0x10000 : Word).extractLsb' 16 11 : BitVec 11).toNat = true ∧
      (0x8000000 : Word).extractLsb' 27 37 ≠ 0) ∧
    (let r : Msg := .request 0 (0, 0) 7 0 5 0 0 0
     (small.post r).net[0]? = some r ∧ isCompute 0 = true) ∧
    (∀ ep ∈ [0, 576, 960, 1032, 1036],
      let n : Msg := .notice ep 0 false 3 0 8
      (small.post n).net[0]? = some n ∧ (isCompute ep ∨ isMemCore ep ∨ isService ep ∨ (1032 ≤ ep ∧ ep < 1036) ∨ ep = 1036)) := by
  refine ⟨by decide +kernel, by decide +kernel, by decide +kernel, by decide +kernel, by decide +kernel, by decide +kernel,
    by decide +kernel⟩

/-- A collision of the team `team` at sub-page 5 of page 1, whose owner is team 3, waits in slot 0. -/
def collided (team : BitVec 16) : State :=
  { svc with clusters := [(0, { l2 := [{ page 1 .own 0 0 with owner := 3 }], slots := (Vector.replicate 8 {}).set 0 { st := 1, kind := 1, vpn := 1, team, sub := 5 } })] }

/-- The device splits the page for the collision's team, or does not. -/
abbrev CollisionSlot (team : BitVec 16) (splits : Bool) : Prop :=
  let s := collided team
  let t : Tlb := { page 1 .own 0 0 with owner := 3 }
  s.entryFor 1 = some t ∧ ((s.cluster 0).slots[(0 : Fin 8)]).kind = 1 ∧ (t.resolve team 0x15000).isSome = splits ∧
    ((s.flushSubs 1 0x20).sendPages 1 1).pagesBusy 1 1 = false

theorem witness_TranslationEntries :
    (match svc.tlbImage 0x8000000000000007 0x1000000000 0 with | .ok t => t.vpn == 7 && t.ppn == 16 | .error _ => false) = true ∧
    (page 1 .own 0 0).within 1 1 = true ∧ (page 1 .own 0 0).within 2 1 = false ∧
    ((({} : Cluster).l2.filter fun u => decide (u.l2set = (page 1 .own 0 0).l2set)).length < 8) ∧
    -- R355, its example: owner 3, no second owner; team 7 splits sub-page 5, then 2; team 9 and team 3 violate at 5
    (let t : Tlb := { page 1 .own 0 0 with owner := 3 }
     let u : Tlb := (t.resolve 7 0x5000).getD t
     u.second = 7 ∧ u.mask = 0x20 ∧ ((u.resolve 7 0x2000).getD t).mask = 0x24 ∧ u.answer 9 0x5000 = 2 ∧ u.answer 3 0x5000 = 2) ∧
    CollisionSlot 7 true ∧ CollisionSlot 3 false := by
  refine ⟨by decide +kernel, by decide +kernel, by decide +kernel, by decide +kernel, by decide +kernel, by decide +kernel,
    by decide +kernel⟩

theorem witness_UnitsAndBoot :
    (State.reset.canPost = true ∧ isUnit 0 = true ∧ 0 ∉ State.reset.pkg.log ∧ State.reset.unitOff 0 = false ∧
      mgetD State.reset.pkg.corrected 0 0 ≤ State.reset.pkg.ethr.toNat ∧
      256 < mgetD ({ State.reset with pkg := { corrected := [(0, 257)] } } : State).pkg.corrected 0 0 ∧ isUnit 960 = false ∧
      isUnit 2048 = true ∧ isUnit 2432 = false ∧ (one { disabled := true } live).unitOff 0 = true ∧ isCompute 2048 = false ∧
      isMemCore 2048 = false ∧ State.reset.unitOff 2048 = false) ∧
    (let s := one { marked := true } live
     (s.core 0).marked = true ∧ (s.core 0).team = none ∧ (small.core 0).marked = false ∧ (small.mc 576).marked = false ∧ ((one { team := some team } live).core 0).team ≠ none) ∧
    (let s : State := { State.reset with mcs := [(576, { marked := true })] }
     isMemCore 576 = true ∧ isCompute 576 = false ∧ (s.mc 576).marked = true ∧ (s.mc 576).st = .free) ∧
    (let s : State := { State.reset with cycle := 2 ^ 42 }
     s.pkg.epochs < s.time / 2 ^ 40 ∧ State.reset.time / 2 ^ 40 ≤ State.reset.pkg.epochs ∧ s.pkg.ms < s.time / 1000000 ∧
      hottest (#v[760, 0, 0, 0]) = 760 ∧ hottest State.reset.pkg.temps < 920 ∧ 920 ≤ hottest (#v[0, 920, 0, 0])) ∧
    (∀ b ∈ [1, 2, 3, 4, 5, 6],
      let s : State := { State.reset with pkg := { boot := BitVec.ofNat 4 b, hostReady := true } }
      s.pkg.boot.toNat = b ∧ s.pkg.off = false ∧ s.pkg.hostReady = true) := by decide +kernel

/-- A device that has booted, whose host has placed one entry in a ring of 16. -/
def ring (head arg : Nat) : State :=
  { one { team := some team } live with
    pkg := { boot := 7, hsqLog := 4, htail := 1, deqLog := 4, imgN := 1 }
    hostMem := writeNat (writeNat [] 256 8 head) 264 8 arg }

theorem witness_HostRings :
    ((0x4B00000 : Word).extractLsb' 16 12 = (1200 : BitVec 12) ∧ (0xAF00000 : Word).extractLsb' 16 12 = (2800 : BitVec 12) ∧
      (6 : BitVec 4) ≤ (ring 0 0).pkg.boot ∧ State.reset.pkg.boot < 6 ∧ ((17 : BitVec 32) - (ring 0 0).pkg.hseq).toNat > 2 ^ 4 ∧
      ((16 : BitVec 32) - (ring 0 0).pkg.hseq).toNat ≤ 2 ^ 4) ∧
    (∀ kind ∈ [0, 1, 2, 3, 4, 5, 6, 7],
      let s := ring (1 + kind * 2 ^ 32) 7
      let ws := entryWords s.hostMem (s.pkg.hsqBase.toNat + 256 * ((s.pkg.hseq + 1).toNat % 2 ^ s.pkg.hsqLog))
      s.pkg.boot = 7 ∧ s.pkg.stopped = false ∧ s.pkg.hsqLog ≠ 0 ∧ 1 ≤ (s.pkg.htail - s.pkg.hseq).toNat ∧
        (s.pkg.htail - s.pkg.hseq).toNat ≤ 2 ^ s.pkg.hsqLog ∧ ((ws.headD 0).extractLsb' 0 32 : BitVec 32) = s.pkg.hseq + 1 ∧
        ((ws.headD 0).extractLsb' 32 8 : BitVec 8).toNat = kind ∧ s.canPost = true ∧ s.teamLead 7 = some 0 ∧ s.teamLead 8 = none ∧
        s.slotsNeeded 0 ≤ s.slotsFree) ∧
    (let s := ring 2 0
     ((entryWords s.hostMem 256).headD 0).extractLsb' 0 32 ≠ s.pkg.hseq + 1) ∧
    (let s := ring (1 + 2 ^ 32) 0
     (match s.acceptEntry 0 ⟨0, true, false, (entryWords s.hostMem 256).drop 1, none⟩ with | .ok _ => true | .error _ => false) = true) ∧
    (let t := { okTask with checked := true }
     let s : State := { ring 0 0 with dists := [(0, ({ queues := (Vector.replicate 16 []).set 0 (List.replicate 256 t) } : Dist))] }
     (match s.acceptEntry 0 ⟨0, false, false, [0x10008, carve16], none⟩ with | .error _ => true | .ok _ => false) = true) ∧
    (let s : State := { ring 0 0 with reports := [[6, 0]] }
     s.reports = [[6, 0]] ∧ s.pkg.deqLog ≠ 0 ∧ s.pkg.boot ≠ 15 ∧ (s.pkg.dseq + 1 - s.pkg.dcons).toNat ≤ 2 ^ s.pkg.deqLog ∧
      Memory.wf s.hostMem = true ∧ (s.mc 576).st ≠ .held) := by
  refine ⟨by decide +kernel, by decide +kernel, by decide +kernel, by decide +kernel, by decide +kernel, by decide +kernel⟩

/-- Pages in the second-level TLBs of their clusters: 1 OWN, 2 HOST, 3 LAT, 5 FOLDF. -/
def shared : SMap Cluster :=
  [(1, { l2 := [page 1 .own 0 0] }), (2, { l2 := [page 2 .host 0 0] }), (3, { l2 := [page 3 .lat 1 3] }), (5, { l2 := [page 5 .lat 12 2] })]

theorem witness_HostAccesses :
    let s : State := { State.reset with clusters := shared }
    (s.canPost = true ∧ (s.pkg.hvBase.toNat + 0x20000) % 64 + 64 ≤ 64 ∧ (s.hostAccs.filter fun a => !a.press).length < 64) ∧
    (s.lookupL2 none (s.hostAddr 0x60000) = .miss 0 ∧ s.lookupL2 none (s.hostAddr 0x20000) = .hit (page 2 .host 0 0)) ∧
    (∀ p ∈ [page 1 .own 0 0, page 2 .host 0 0, page 3 .lat 1 3],
      ∀ r ∈ [rRead, rWrite, rJoin], s.admitted s.hostMaster kHome p.ppn r = true ∧ p.pa (s.hostAddr (p.vpn * 65536)) % 64 + 64 ≤ 64) ∧
    ({ s with fab := { s.fab with access := [] } } : State).admitted s.hostMaster kHome 1 rRead = false ∧
    (wholeElems 3 (beMask 0 4 15) ≠ beMask 0 4 15 ∧ 1024 ∉ s.poisoned ∧ Memory.wf s.mem = true) ∧
    ({ s with snoops := [⟨8, 0, 0⟩] } : State).snoops[0]? = some ⟨8, 0, 0⟩ ∧
    (aWin (s.hostAddr 0x60000) = false ∧ (512 ∈ ({ s with poisoned := [512] } : State).poisoned) ∧ wholeElems 3 (beMask 0 8 255) = beMask 0 8 255 ∧
      joinAccepts (page 3 .lat 1 3).typ = true ∧ joinAccepts (page 5 .lat 12 2).typ = false) ∧
    (let va := winAddr 0 1036 0x80
     let w := va - s.pkg.hvBase
     let far : State := { s with pkg := { s.pkg with hvBase := winAddr 0 1036 0 } }
     aWin (far.hostAddr 0x80) = true ∧ (far.pkg.hvBase.toNat + 0x80) % 64 + 8 ≤ 64 ∧ w = va - s.pkg.hvBase ∧ aEp va = 1036 ∧ aOff va = 0x80 ∧
      (∀ r ∈ [rRead, rWrite], s.admitted s.hostMaster (winKind 1036) 1036 r = true) ∧
      (s.hostDw 1036 0x80).isSome = true ∧ (s.hostDw 960 0).isNone = true ∧ s.admitted s.hostMaster (winKind 960) 960 rRead = true ∧
      ({ s with fab := { s.fab with access := [] } } : State).admitted s.hostMaster (winKind 960) 960 rRead = false) ∧
    (let a : HostAcc := ⟨4, 0x30000, false, 8, 0, 0, true, none⟩
     let h : State := { s with hostAccs := [a] }
     h.hostAccs.find? (fun b => b.id = a.id) = some a ∧
      (∀ p ∈ [(true, true), (false, false)],
        let mask : BitVec 128 := if p.1 = true then BitVec.allOnes 128 else readMask (h.line 0x800) 9 2 (lineOf h.mem 0x800)
        decide (maskRun 128 0 8 &&& ~~~mask = 0) = p.2)) := by decide +kernel

/-! ## Witnesses: fabric -/

/-- FIPS 197 appendix C.1, and the CMAC of the empty message of SP 800-38B appendix D.1. -/
theorem test_aes :
    beNat (aes (beBytes 0x000102030405060708090A0B0C0D0E0F 16) (beBytes 0x00112233445566778899AABBCCDDEEFF 16)) =
      0x69C4E0D86A7B0430D8CDB78070B4C55A ∧
    beNat (cmacShort (beBytes 0x2B7E151628AED2A6ABF7158809CF4F3C 16) []) = 0xBB1D6929E95937287FA37D129B756746 := by decide +kernel

/-- A token for device 9 with all rights, for region 0 or 1 (the window), that expires at an epoch. -/
@[irreducible] def token (region expiry : Nat) : Word :=
  let low : Word := BitVec.ofNat 64 (0xF * 2 ^ 36 + region * 2 ^ 20 + expiry)
  low ||| (tokenMac 0 low 9 0).zeroExtend 64 <<< 40

/-- Device 0, which grants to device 9 all of its memory and all of its windows, with the access table open. -/
def target : State :=
  { one {} live with
    clusters := shared
    mem := writeNat (writeNat (writeNat [] 8 8 0x8000FFFFFFFFFFFF) 16 8 0x20000000000000) 24 8 0x8000FFFFFFFFFFFF
    fab := { aen := true, rtn := 2, access := [(0, (0xE000003F003F0000, 0xFFFFFFFF00000000))] } }

/-- A packet of device 9 for device 0, to a page of its memory. -/
def packet (what kind : Nat) (addr : Word) : Packet :=
  { blankPacket with src := 9, dst := 0, what := what, kind := kind, addr := addr, len := 8, token := token (if aWin addr then 1 else 0) 0 }

theorem witness_PacketDelivery :
    (packet 1 1 0x30000).what = 1 ∧ (packet 1 1 0x30000).src ≠ target.dev ∧ (packet 1 1 0x30000).dst = target.dev ∧
    ({ packet 1 1 0x30000 with seq := 4 } : Packet).seq ≠ mgetD target.fab.rx (9 * 4 + 0) 0 ∧ keysRise target.fab.tx = true ∧
    ({ target with fab := { target.fab with merge := [(0, packet 2 1 0x30000)] } } : State).fab.merge[0]? = some (0, packet 2 1 0x30000) ∧
    (let e : Nat × Nat × PressOp := (0, 0, queued (.join 3 0xFF 7 [] false))
     let s : State := { target with fab := { target.fab with gate := [e] } }
     s.fab.merge[0]? = none ∧ s.fab.gate[0 - s.fab.merge.length]? = some e) ∧
    (0 + 32 ≤ ({ target with cycle := 32 } : State).cycle) ∧ target.cycle < 0 + 32 := by decide +kernel

/-- Every request code passes the checks; a wrong MAC, an expired token, a missing right, a region that does not hold the access. -/
theorem witness_GatewayChecks :
    (∀ c ∈ [1, 2, 3, 4, 5, 6, 7, 8], NextPacket target (packet c 1 0x30000) c) ∧
    (∀ c ∈ [1, 2, 4, 6], target.tokenReason (packet c 1 0x30000) = none) ∧
    (let p := packet 1 1 0x30000
     target.tokenReason { p with token := p.token ^^^ 0x8000000000000000 } = some 2 ∧
      target.tokenReason { p with token := token 0 0x80000 } = some 3 ∧
      (let low : Word := BitVec.ofNat 64 (0xB * 2 ^ 36)
       target.tokenReason { p with token := low ||| (tokenMac 0 low 9 0).zeroExtend 64 <<< 40 } = some 4) ∧
      target.tokenReason { p with token := token 2 0 } = some 5) ∧
    (let s : State := { target with fab := { target.fab with access := [] } }
     ∀ c ∈ [1], NextPacket s (packet c 1 0x30000) c ∧
       (received s (packet c 1 0x30000) c).tokenReason (packet c 1 0x30000) = none ∧
       s.lookupL2 none 0x30000 = .hit (page 3 .lat 1 3) ∧ s.admitted ⟨9, 0, false⟩ kHome 3 rRead = false) := by
  refine ⟨by decide +kernel, by decide +kernel, by decide +kernel, by decide +kernel⟩

theorem witness_RemoteRequests :
    (∀ c ∈ [2, 6], ∀ q ∈ [((0x30000 : Word), page 3 .lat 1 3), (0x50000, page 5 .lat 12 2)],
      let p := packet c 1 q.1
      NextPacket target p c ∧ target.tokenReason p = none ∧ aWin p.addr = false ∧ target.lookupL2 none p.addr = .hit q.2 ∧
        q.2.cls = .lat ∧ ∀ r ∈ [rRead, rJoin, rWait, rCork], target.admitted ⟨9, 0, false⟩ kHome (q.2.pa p.addr / 65536) r = true) ∧
    ((0x30000 : Word).toNat % 8 = 0 ∧ (0x30004 : Word).toNat % 8 ≠ 0 ∧ waitAccepts (waitForm 0) 1 3 = true ∧
      waitAccepts (waitForm 3) 1 3 = false ∧ waitAccepts (waitForm 2) 1 3 = true ∧ compatPair 1 3 [] = none ∧
      (match joinBytes (packet 2 1 0x30000) (page 3 .lat 1 3) with | .ok js => js.length == 1 && js.all fun j => j.1 != 0 | .error _ => false) = true ∧
      (match joinBytes { packet 2 2 0x30000 with words := chunkWords [(0x30000, 0, 8)] } (page 3 .lat 1 3) with
        | .ok js => (js.filter fun j => j.1 != 0).isEmpty | .error _ => false) = true ∧
      (match joinBytes { packet 2 4 0x30000 with words := chunkWords [(0x30000, 0, 4), (0x30000, 4, 4)], mask := 0xFF } (page 3 .lat 1 2) with
        | .ok js => js.length == 2 | .error _ => false) = true ∧
      (match joinBytes (packet 2 1 0x50000) (page 5 .lat 12 2) with | .error c => c == 17 | .ok _ => false) = true) ∧
    (∀ c ∈ [1, 6],
      let p := packet c 1 0x60000
      NextPacket target p c ∧ target.tokenReason p = none ∧ aWin p.addr = false ∧ target.lookupL2 none p.addr = .miss 0) ∧
    (let p := { packet 6 4 0x30000 with len := 128 }
     let s : State := { target with clusters := shared.map fun c =>
       (c.1, { c.2 with slots := Vector.replicate 8 { st := 1 } }) }
     NextPacket s p 6 ∧ s.tokenReason p = none ∧ (page 3 .lat 1 3).lg = false ∧
      (received s p 6).convert (aVpn p.addr % 72) (p.src, p.ep) (aVpn p.addr) 512 0 0 0 (⟨p.src, p.ep, p.ctx, 0⟩, p.tag, p.value) = none) ∧
    ((coversLarge { packet 6 0 0x2000000 with words := [0x2000000, 262144] }).1 = true ∧
      (coversLarge { packet 6 0 0x2000000 with words := [0x2000000, 262143] }).1 = false) ∧
    (∀ c ∈ [(({} : Core), some 0, none), ({ sync := 1 }, none, some 0), ({ sync := 1, full := [0, 1] }, none, none)],
      let s : State := { target with cores := [(0, c.1.setCtx 0 live)] }
      let p := { packet 1 0 (winAddr 0 0 0) with words := chunkWords [(winAddr 0 0 0, 0, 8)], mask := 0xFF }
      NextPacket s p 1 ∧ s.tokenReason p = none ∧ aWin p.addr = true ∧ isCompute (aEp p.addr) = true ∧ s.coreOn (aEp p.addr) = true ∧
        s.admitted ⟨9, 0, false⟩ kCore (aEp p.addr) rRead = true ∧ (s.core 0).padErr = [] ∧
        (received s p 1).plainWord 0 (wordChunks p.words) p.mask = c.2.1 ∧
        (c.2.1 = none → ((wordChunks p.words).findSome? fun k => (s.core 0).emptyWord (aOff k.1) k.2.2 (chunkMask p.mask k)) = c.2.2)) ∧
    (∀ c ∈ [(({} : Core), 0), ({ sync := 1 }, 0), ({ sync := 1, full := [0] }, 1)],
      let s : State := { target with cores := [(0, c.1.setCtx 0 live)] }
      let p := { packet 7 6 (winAddr 0 0 0) with words := chunkWords [(winAddr 0 0 0, 0, 8)], mask := 0xFF }
      let ws := (wordChunks p.words).map fun k => (aOff k.1, k.2.2, 0, chunkMask p.mask k)
      NextPacket s p 7 ∧ s.tokenReason p = none ∧ aWin p.addr = true ∧ isCompute (aEp p.addr) = true ∧ s.coreOn (aEp p.addr) = true ∧
        s.admitted ⟨9, 0, false⟩ kCore (aEp p.addr) rWrite = true ∧
        ((received s p 7).plainWord 0 (wordChunks p.words) p.mask = if c.1.sync = 0 then some 0 else none) ∧
        (c.1.sync ≠ 0 → putGives ((received s p 7).winPuts 0 false false ws) = c.2)) := by
  refine ⟨by decide +kernel, by decide +kernel, by decide +kernel, by decide +kernel, by decide +kernel, by decide +kernel,
    by decide +kernel⟩

/-- An access of context 0 of core 0 to device 9 whose reply is outstanding. -/
def away (op : AccOp) : Acc := scalarAcc small op 0x240000000030000 8 0 .none .remote

theorem witness_RemoteReplies :
    (∀ op ∈ [AccOp.load, .store, .wait .ge [1] 0, .wait .acq [1] 0, .copy true, .range 0 0 0 512, .range 4 0 0 512],
      let s := target.addAcc 0 (away op)
      ∀ c ∈ [0x11, 0x12, 0x13, 0x15, 0x16, 0x18],
        let p := packet c 1 0x30000
        NextPacket s p c ∧ (received s p c).named ((received s p c).imageOf p) = some (away op) ∧ ((received s p c).imageOf p).ep = p.ep ∧
          (away op).stage = .remote ∧ p.sat = false) ∧
    (∀ c ∈ [0x11, 0x12, 0x13, 0x15, 0x16, 0x18],
      let p := packet c 1 0x30000
      NextPacket target p c ∧ (received target p c).named ((received target p c).imageOf p) = none) ∧
    (target.fab.wds = [] ∧ (0, 0, 0) ∈ ({ target.fab with wds := [(0, 0, 0)] } : Fabric).wds) ∧
    (let p := packet 0x16 1 0x30000
     let s : State := { target with images := [image], cores := target.cores ++ [(4096, { accs := [away .load] })] }
     NextPacket s p 0x16 ∧ ((received s p 0x16).imageOf p).ep = 4096 ∧
       (received s p 0x16).named ((received s p 0x16).imageOf p) = some (away .load)) ∧
    (∀ c ∈ [0x14, 0x17], NextPacket target (packet c 1 0x30000) c) ∧
    (let a := away .load
     (lineForm a.chunks (effMask 8 a.chunks a.mask) 0).1 &&& ~~~(0#128) ≠ 0 ∧
      (lineForm a.chunks (effMask 8 a.chunks a.mask) 0).1 &&& ~~~(BitVec.allOnes 128) = 0) := by
  refine ⟨by decide +kernel, by decide +kernel, by decide +kernel, by decide +kernel, by decide +kernel, by decide +kernel⟩

theorem witness_FreezesAndFabricControl :
    (let s := one { frozen := true } live
     isCompute 0 = true ∧ (s.core 0).frozen = true ∧ (s.core 0).gang.g = false) ∧
    (∀ c ∈ [0x21, 0x22, 0x23, 0x24, 0x25, 0x26], NextPacket target (packet c 0 0) c ∧ target.domain 4 0 = none) ∧
    (let d := { dom0 with lvl := 4, dom := 0, wave := 2 }
     let s : State := { target with domains := [d] }
     (∀ c ∈ [0x21, 0x22, 0x23, 0x24, 0x25, 0x26], NextPacket s (packet c 2 0) c) ∧ s.domain 4 0 = some d ∧ d.coord = s.dev ∧
      d.wave = (packet 0x25 2 0).kind ∧ d.arrived = [] ∧ d.counts = [] ∧ d.finished = [] ∧ d.answers = [] ∧ d.hwake = false ∧
      d.phase = false ∧ (packet 0x21 2 0).kind ≠ 1 ∧ (packet 0x23 1 0).aux = BitVec.ofNat 64 d.tries ∧
      ({ packet 0x23 1 0 with aux := 5 } : Packet).aux ≠ BitVec.ofNat 64 d.tries ∧
      (∀ e ∈ [{ d with hwake := true }, { d with step := 1 }, { d with step := 2 }, { d with members := [] }],
        let s : State := { target with domains := [e] }
        NextPacket s (packet 0x26 2 0) 0x26 ∧ s.domain 4 0 = some e ∧ s.arrived4 d = false)) ∧
    (∀ k ∈ [0, 1, 2, 3, 4, 5], ∀ v ∈ [0, 1], NextPacket target { packet 0x23 k 0 with value := v } 0x23) ∧
    (let d := { dom0 with lvl := 4, dom := 0 }
     small.arrived4 d = false ∧ small.arrived4 { d with members := [] } = true ∧ d.step < 2 ∧ blankPacket.aux = BitVec.ofNat 64 d.tries) := by
  refine ⟨by decide +kernel, by decide +kernel, by decide +kernel, ?_, by decide +kernel⟩
  intro k _ v _
  exact (by decide +kernel : NextPacket target (packet 0x23 0 0) 0x23)

theorem witness_StepKeepsMemory :
    Memory.wf State.reset.mem = true ∧ Memory.wf State.reset.hostMem = true ∧ goesOn (step State.reset) = true := by decide +kernel

/-! ## Single steps of other families -/

/-- R206, R210, R212: VADD.I8 wraps in each element, and changes no flag; VABS of −128 keeps its bits. -/
theorem test_vector :
    let s := (small.setCtx { live with v := (Vector.replicate 32 0).set 1 0x80FF }).modCtx 0 0 fun x => x.wv 2 0x8001
    (match exec (.vadd 0 .i8 3 1 2) s with | .next t => (t.ctx.rv 3, t.ctx.csr.vstat) | _ => (0, 1)) = (0x0000, 0) ∧
    (match exec (.vabs .i8 3 1) s with | .next t => t.ctx.rv 3 | _ => 0) = 0x8001 := by decide +kernel

/-- The joins on their way pass a number of routers. -/
def hops : Nat → State → State
  | 0, s => s
  | n + 1, s => match execRouterCombineLeave 0 { s with cycle := s.cycle + 16 } with | .next t => hops n t | _ => s

/-- R96, R106, R463: JOIN of 5 and then of 3 into a MAXU element: the combined join leaves the element at 5. -/
theorem test_join :
    let s := (small.setX 6 0x30008).setX 7 5
    (match exec (.join 6 7) s with
     | .next t => (match exec (.join 6 7) (t.setX 7 3) with
       | .next u => (match exec (.combiningBufferLeave 0 0) { u with cycle := 64 } with
         | .next v =>
           let w := hops 6 v
           (match exec (.pressJoin 0) w with | .next r => readNat r.mem 0x30008 8 | _ => 0)
         | _ => 1)
       | _ => 2)
     | _ => 3) = 5 := by decide +kernel

/-- R283: CK.FILL writes its value to each element, and nothing behind them. -/
theorem test_cask :
    let c := ((fill 0).run (small.core 0) []).1
    readNat c.pad 0 4 = 0x3F800000 ∧ readNat c.pad 12 4 = 0x3F800000 ∧ readNat c.pad 16 4 = 0 := by decide +kernel

/-- R294: a copy of 4 bytes moves the word, and its token names the first push and CP. -/
theorem test_copy :
    let s := copying (copy 0) { pad := writeNat [] 8 4 0x12345678 }
    (match exec (.copyPortion 0) s with
     | .next t => (readNat (t.core 0).pad 0 4, match exec (.copyComplete 0) t with | .next u => (u.x 5).toNat | _ => 0)
     | _ => (0, 0)) = (0x12345678, 0x20) := by decide +kernel

/-- R480: the bundle moves 5 into g1, and the old g1 into a. -/
theorem test_bundle :
    (match exec (.mcBundle 576) (running { imem := [(0, bundle)], g := (Vector.replicate 16 0).set 1 9 }) with
     | .next t => ((t.mc 576).g[(1 : Fin 16)], (t.mc 576).a, (t.mc 576).pc) | _ => (0, 0, 9)) = (5, 9, 1) := by decide +kernel

end Sys2Proof.Tests
end

section
/-! PROOFS: the scope of the device, its units and its boot (O51).
Folds and rounded words, what the disabling of units changes and leaves, then each event of the package in turn. -/

namespace Sys2Proof.Machine

open Sys2Proof

/-! ## Folds over a list of updates -/

/-- Two folds with the same update of every listed element are the same. -/
theorem foldl_congr_of_mem {σ α : Type} {f g : σ → α → σ} {l : List α} (h : ∀ s, ∀ x ∈ l, f s x = g s x) (s : σ) :
    l.foldl f s = l.foldl g s := by
  induction l generalizing s with
  | nil => rfl
  | cons x l ih =>
    rw [List.foldl_cons, List.foldl_cons, h s x List.mem_cons_self]
    exact ih (fun s y hy => h s y (List.mem_cons_of_mem x hy)) (g s x)

/-- What every update of a fold leaves as it is, the fold leaves as it is. -/
theorem foldl_unchanged {σ α β : Type} (view : σ → β) (f : σ → α → σ) (h : ∀ s x, view (f s x) = view s) (l : List α) (s : σ) :
    view (l.foldl f s) = view s := by
  induction l generalizing s with
  | nil => rfl
  | cons x l ih => rw [List.foldl_cons, ih, h]

/-- What the update of an element brings about, and no update undoes, holds of every element after the fold. -/
theorem foldl_reaches {σ α : Type} (P : α → σ → Prop) (f : σ → α → σ) (brings : ∀ s x, P x (f s x))
    (keeps : ∀ s x y, P y s → P y (f s x)) {l : List α} {x : α} (hx : x ∈ l) (s : σ) : P x (l.foldl f s) := by
  induction l generalizing s with
  | nil => cases hx
  | cons y l ih =>
    rcases List.mem_cons.mp hx with rfl | hx
    · exact List.foldlRecOn l f (brings s x) fun t ht y _ => keeps t y x ht
    · exact ih hx (f s y)

@[simp] theorem mem_insertNat (l : List Nat) (n m : Nat) : m ∈ insertNat l n ↔ m = n ∨ m ∈ l := by
  induction l with
  | nil => simp [insertNat]
  | cons x l ih =>
    simp only [insertNat]
    split
    · subst_vars; simp
    · split
      · simp
      · rw [List.mem_cons, List.mem_cons, ih]
        exact or_left_comm

/-! ## Words rounded down to a power of two -/

theorem toNat_and_not_lowMask {w : Nat} (x : BitVec w) (k : Nat) :
    (x &&& ~~~BitVec.ofNat w (2 ^ k - 1)).toNat = x.toNat / 2 ^ k * 2 ^ k := by
  have h : x &&& ~~~BitVec.ofNat w (2 ^ k - 1) = (x >>> k) <<< k := by
    ext i hi
    have e : (BitVec.ofNat w (2 ^ k - 1))[i] = decide (i < k) := by
      rw [← BitVec.getLsbD_eq_getElem, BitVec.getLsbD_ofNat, Nat.testBit_two_pow_sub_one, decide_eq_true hi, Bool.true_and]
    rw [BitVec.getElem_and, BitVec.getElem_not, e, BitVec.getElem_shiftLeft]
    by_cases hk : i < k
    · simp [hk]
    · have hi' : k + (i - k) = i := by omega
      simp only [hk, decide_false, Bool.not_false, Bool.and_true, Bool.true_and]
      rw [BitVec.getElem_ushiftRight, hi', BitVec.getLsbD_eq_getElem]
  have hle : x.toNat / 2 ^ k * 2 ^ k < 2 ^ w := Nat.lt_of_le_of_lt (Nat.div_mul_le_self _ _) x.isLt
  rw [h, BitVec.toNat_shiftLeft, BitVec.toNat_ushiftRight, Nat.shiftLeft_eq, Nat.shiftRight_eq_div_pow, Nat.mod_eq_of_lt hle]

/-! ## Taking units out of service -/

/-- A unit of the device out of service, as the disable log and self-test do it. -/
def State.disableUnit (s : State) (u : Nat) : State :=
  if isCompute u then s.modCore u fun c => { c with disabled := true }
  else if isMemCore u then s.setMc u { s.mc u with disabled := true }
  else { s with pkg := { s.pkg with badPch := insertNat s.pkg.badPch (u - 2048) } }

/-- Several units out of service. -/
def State.disableUnits (s : State) (us : List Nat) : State := us.foldl State.disableUnit s

theorem State.disableLogged_eq (s : State) : s.disableLogged = s.disableUnits s.pkg.log := rfl

theorem State.coreOn_modCore (s : State) (e u : Nat) (f : Core → Core) :
    (s.modCore e f).coreOn u = if u = e then !(f (s.core e)).disabled else s.coreOn u := by
  simp only [State.coreOn, State.modCore, State.core_setCore]; split <;> rfl

theorem State.mcOn_setMc (s : State) (e u : Nat) (m : MemCore) :
    (s.setMc e m).mcOn u = if u = e then !m.disabled else s.mcOn u := by
  simp only [State.mcOn, State.mc_setMc]; split <;> rfl

theorem isCompute_memCore (n : Nat) : isCompute (576 + n) = false := decide_eq_false (by omega)

theorem isMemCore_memCore {n : Nat} (h : n < Config.nSlices) : isMemCore (576 + n) = true :=
  decide_eq_true (by simp only [Config.nSlices] at h; omega)

theorem isCompute_slice (n : Nat) : isCompute (2048 + n) = false := decide_eq_false (by omega)

theorem isMemCore_slice (n : Nat) : isMemCore (2048 + n) = false := decide_eq_false (by omega)

theorem State.unitOff_core (s : State) {e : Nat} (h : isCompute e = true) : s.unitOff e = !s.coreOn e := if_pos h

theorem State.unitOff_memCore (s : State) {n : Nat} (h : n < Config.nSlices) : s.unitOff (576 + n) = !s.mcOn (576 + n) := by
  simp [State.unitOff, isCompute_memCore, isMemCore_memCore h]

theorem State.unitOff_slice (s : State) (n : Nat) : s.unitOff (2048 + n) = s.pkg.badPch.contains n := by
  simp [State.unitOff, isCompute_slice, isMemCore_slice]

/-- What is out of service in `s` is so in `t`, when each kind of unit has this. -/
theorem State.unitOff_mono {s t : State} (cores : ∀ e, s.coreOn e = false → t.coreOn e = false)
    (mcs : ∀ e, s.mcOn e = false → t.mcOn e = false) (pch : ∀ n ∈ s.pkg.badPch, n ∈ t.pkg.badPch) (u : Nat)
    (h : s.unitOff u = true) : t.unitOff u = true := by
  by_cases hc : isCompute u = true
  · simpa [State.unitOff, hc] using cores u (by simpa [State.unitOff, hc] using h)
  · by_cases hm : isMemCore u = true
    · simpa [State.unitOff, hc, hm] using mcs u (by simpa [State.unitOff, hc, hm] using h)
    · simpa [State.unitOff, hc, hm] using pch (u - 2048) (by simpa [State.unitOff, hc, hm] using h)

/-- `t` is `s` with units out of service, and nothing else: a disabled unit stays disabled, and a context stays as it was. -/
structure Disables (s t : State) : Prop where
  rest : t = { s with cores := t.cores, mcs := t.mcs, pkg := { s.pkg with badPch := t.pkg.badPch } }
  ctx : ∀ ep n, t.ctxAt ep n = s.ctxAt ep n
  off : ∀ u, s.unitOff u = true → t.unitOff u = true

theorem Disables.refl (s : State) : Disables s s := ⟨rfl, fun _ _ => rfl, fun _ h => h⟩

theorem Disables.trans {s t u : State} (h : Disables s t) (k : Disables t u) : Disables s u where
  rest := by
    have e := k.rest
    rw [h.rest] at e
    exact e
  ctx ep n := (k.ctx ep n).trans (h.ctx ep n)
  off v hv := k.off v (h.off v hv)

theorem disables_disableUnit (s : State) (u : Nat) : Disables s (s.disableUnit u) := by
  unfold State.disableUnit
  split
  · refine ⟨rfl, fun ep n => ?_, State.unitOff_mono (fun e he => ?_) (fun _ he => he) fun _ hn => hn⟩
    · simp only [State.ctxAt, State.modCore, State.core_setCore]
      split
      · subst_vars; rfl
      · rfl
    · rw [State.coreOn_modCore, he]; simp
  · split
    · refine ⟨rfl, fun _ _ => rfl, State.unitOff_mono (fun _ he => he) (fun e he => ?_) fun _ hn => hn⟩
      rw [State.mcOn_setMc, he]; simp
    · exact ⟨rfl, fun _ _ => rfl, State.unitOff_mono (fun _ he => he) (fun _ he => he) fun n hn => by simp [hn]⟩

theorem unitOff_disableUnit (s : State) (u : Nat) : (s.disableUnit u).unitOff u = true := by
  unfold State.disableUnit State.unitOff
  split
  · simp [State.coreOn_modCore]
  · split
    · simp [State.mcOn_setMc]
    · simp

theorem disables_disableUnits (s : State) (us : List Nat) : Disables s (s.disableUnits us) :=
  List.foldlRecOn us _ (Disables.refl s) fun t ht u _ => ht.trans (disables_disableUnit t u)

theorem unitOff_disableUnits (s : State) {us : List Nat} {u : Nat} (hu : u ∈ us) : (s.disableUnits us).unitOff u = true :=
  foldl_reaches (fun u s => State.unitOff s u = true) _ unitOff_disableUnit
    (fun s u v h => (disables_disableUnit s u).off v h) hu s

/-! ## Marking and disabling, the error epoch (R524) -/

theorem isUnit_iff (u : Nat) : isUnit u = true ↔ u < 960 ∨ (2048 ≤ u ∧ u < 2432) :=
  decide_eq_true_iff

/-- The state with a unit marked in the log, RREQ set and its event posted. -/
def State.logMark (s : State) (u : Nat) : State :=
  { s with pkg := { s.pkg with rreq := true, log := s.pkg.log ++ [u] }, reports := s.reports ++ [s.unitEvent u 0] }

theorem execUnitMark_marks {s : State} {unit : Nat} {logic : Bool} (post : s.canPost = true) (counts : isUnit unit = true)
    (fresh : unit ∉ s.pkg.log) (on : s.unitOff unit = false) (cause : logic = true ∨ s.pkg.ethr.toNat < s.errors unit) :
    execUnitMark unit logic s = .next (if isCompute unit = true then (s.logMark unit).modCore unit fun c => { c with marked := true }
      else if isMemCore unit = true then (s.logMark unit).setMc unit { s.mc unit with marked := true } else s.logMark unit) :=
  if_neg (by rcases cause with h | h <;> simp [post, counts, fresh, on, h])

theorem execUnitMark_keeps_within {s : State} {unit : Nat} (within : s.errors unit ≤ s.pkg.ethr.toNat) :
    execUnitMark unit false s = .next s :=
  if_pos (by simp [within])

theorem execUnitMark_keeps_other {s : State} {unit : Nat} (logic : Bool)
    (other : isUnit unit = false ∨ unit ∈ s.pkg.log ∨ s.unitOff unit = true) : execUnitMark unit logic s = .next s :=
  if_pos (by rcases other with h | h | h <;> simp [h])

theorem execUnitDisable_core {s : State} {unit : Nat} (post : s.canPost = true) (on : s.unitOff unit = false)
    (compute : isCompute unit = true) (marked : (s.core unit).marked = true) (noTeam : (s.core unit).team = none) :
    execUnitDisable unit s = .next (({ s with reports := s.reports ++ [s.unitEvent unit 1] } : State).modCore unit
      fun c => { c with disabled := true }) :=
  (if_neg (by simp [post, on, compute, marked, noTeam])).trans (congrArg _ (if_pos compute))

theorem execUnitDisable_mc {s : State} {unit : Nat} (post : s.canPost = true) (on : s.unitOff unit = false)
    (compute : isCompute unit = false) (mem : isMemCore unit = true) (marked : (s.mc unit).marked = true)
    (free : (s.mc unit).st = .free) :
    execUnitDisable unit s = .next (({ s with reports := s.reports ++ [s.unitEvent unit 1] } : State).setMc unit
      { s.mc unit with disabled := true }) :=
  (if_neg (by simp [post, on, compute, mem, marked, free])).trans (congrArg _ (if_neg (by simp [compute])))

theorem execUnitDisable_keeps_core {s : State} {unit : Nat} (compute : isCompute unit = true)
    (busy : (s.core unit).marked = false ∨ (s.core unit).team ≠ none) : execUnitDisable unit s = .next s :=
  if_pos (.inl (by rcases busy with h | h <;> simp [compute, h, Option.isSome_iff_ne_none]))

theorem execUnitDisable_keeps_mc {s : State} {unit : Nat} (compute : isCompute unit = false)
    (busy : (s.mc unit).marked = false ∨ (s.mc unit).st ≠ .free) : execUnitDisable unit s = .next s :=
  if_pos (.inl (by rcases busy with h | h <;> simp [compute, h]))

theorem execUnitDisable_keeps_other {s : State} {unit : Nat}
    (other : isCompute unit = false ∧ isMemCore unit = false ∨ s.unitOff unit = true) : execUnitDisable unit s = .next s :=
  if_pos (by
    rcases other with ⟨hc, hm⟩ | off
    · simp [hc, hm]
    · simp [off])

/-! ## Temperature (R521) -/

theorem hottest_eq (temps : Vector (BitVec 16) 4) :
    hottest temps = max (max (max temps[0].toNat temps[1].toNat) temps[2].toNat) temps[3].toNat := by
  rcases temps with ⟨⟨l⟩, hl⟩
  match l, hl with
  | [a, b, c, d], _ => simp [hottest]

theorem le_hottest (temps : Vector (BitVec 16) 4) (i : Fin 4) : temps[i].toNat ≤ hottest temps := by
  rw [hottest_eq]
  match i with
  | 0 => exact Nat.le_trans (Nat.le_max_left _ _) (Nat.le_trans (Nat.le_max_left _ _) (Nat.le_max_left _ _))
  | 1 => exact Nat.le_trans (Nat.le_max_right _ _) (Nat.le_trans (Nat.le_max_left _ _) (Nat.le_max_left _ _))
  | 2 => exact Nat.le_trans (Nat.le_max_right _ _) (Nat.le_max_left _ _)
  | 3 => exact Nat.le_max_right _ _

theorem max_eq_either (a b : Nat) : max a b = a ∨ max a b = b :=
  (Nat.le_total b a).imp Nat.max_eq_left Nat.max_eq_right

theorem exists_eq_hottest (temps : Vector (BitVec 16) 4) : ∃ i : Fin 4, temps[i].toNat = hottest temps := by
  rw [hottest_eq]
  rcases max_eq_either (max (max temps[0].toNat temps[1].toNat) temps[2].toNat) temps[3].toNat with h | h <;> rw [h]
  · rcases max_eq_either (max temps[0].toNat temps[1].toNat) temps[2].toNat with h | h <;> rw [h]
    · rcases max_eq_either temps[0].toNat temps[1].toNat with h | h <;> rw [h]
      · exact ⟨0, rfl⟩
      · exact ⟨1, rfl⟩
    · exact ⟨2, rfl⟩
  · exact ⟨3, rfl⟩

theorem throttle_eq (old : BitVec 2) (h : Nat) :
    throttle old h = if h < 760 then 0 else if 840 ≤ h ∨ old = 3 then 3 else old + 1 := by
  unfold throttle
  by_cases hh : h < 840
  · simp [hh, Nat.not_le.mpr hh]
  · simp [hh, Nat.not_lt.mp hh]

/-- The package's fields after one step of the power loop. -/
def State.thermal (s : State) (temps : Vector (BitVec 16) 4) (power : BitVec 16) : State :=
  { s with pkg := { s.pkg with
    temps := temps, pavg := power, throt := throttle s.pkg.throt (hottest temps), ms := s.time / 1000000 } }

theorem execThermalStep_due {s : State} {temps : Vector (BitVec 16) 4} {power : BitVec 16} (post : s.canPost = true)
    (due : s.pkg.ms < s.time / 1000000) :
    execThermalStep temps power s = .next (
      if s.pkg.throt < throttle s.pkg.throt (hottest temps) ∧ hottest temps < 920 then { s.thermal temps power with
        reports := s.reports ++
          [[6, BitVec.ofNat 64 ((throttle s.pkg.throt (hottest temps)).toNat + if 840 ≤ hottest temps then 256 else 0)]] }
      else s.thermal temps power) := by
  unfold execThermalStep
  rw [if_neg (by simp [post, due])]
  simp only [decide_eq_true_eq]
  rfl

theorem thermalStep_outcomes {s : State} {temps : Vector (BitVec 16) 4} {power : BitVec 16} {h : Nat} (post : s.canPost = true)
    (hot : hottest temps = h) (due : s.pkg.ms < s.time / 1000000) :
    let k : BitVec 2 := if h < 760 then 0 else if 840 ≤ h ∨ s.pkg.throt = 3 then 3 else s.pkg.throt + 1
    let t : State := { s with pkg := { s.pkg with temps := temps, pavg := power, throt := k, ms := s.time / 1000000 } }
    (k ≤ s.pkg.throt ∨ 920 ≤ h → execThermalStep temps power s = .next t) ∧
    (s.pkg.throt < k → h < 920 → execThermalStep temps power s = .next { t with
      reports := s.reports ++ [[6, BitVec.ofNat 64 (k.toNat + if 840 ≤ h then 256 else 0)]] }) := by
  subst hot
  rw [← throttle_eq]
  have step := execThermalStep_due (temps := temps) (power := power) post due
  constructor
  · intro quiet
    refine step.trans (congrArg _ (if_neg fun ⟨rise, cool⟩ => ?_))
    rcases quiet with h | h
    · exact BitVec.not_lt.mpr h rise
    · exact Nat.not_lt.mpr h cool
  · intro rise cool
    exact step.trans (congrArg _ (if_pos ⟨rise, cool⟩))

/-! ## Reset (R509, R511, R524) -/

/-- The device at its reset state, but for what a reset keeps and posts (log 30); the units of its log are still in service. -/
def State.atReset (s : State) : State :=
  { State.reset with
    pkg := { log := s.pkg.log, rreq := s.pkg.rreq, boot := 1 }
    mem := s.mem, lines := s.lines, poisoned := s.poisoned
    reports := (s.pkg.log.filter fun u => !s.unitOff u).map fun u => s.unitEvent u 1
    hostMem := s.hostMem, agenda := s.agenda, free := s.free }

theorem execDeviceReset_eq (s : State) : execDeviceReset s = .next (s.atReset.disableUnits s.pkg.log) :=
  congrArg Host.Outcome.next s.atReset.disableLogged_eq

theorem execDeviceReset_state (s : State) :
    ∃ t, execDeviceReset s = .next t ∧ t.pkg.boot = 1 ∧ t.pkg.off = false ∧ t.pkg.log = s.pkg.log ∧ t.pkg.rreq = s.pkg.rreq ∧
      t.mem = s.mem ∧ t.net = [] ∧ (∀ ep n, t.ctxAt ep n = State.reset.ctxAt ep n) ∧
      (∀ u ∈ s.pkg.log, t.unitOff u = true) ∧
      t.reports = (s.pkg.log.filter fun u => !s.unitOff u).map fun u => s.unitEvent u 1 := by
  obtain ⟨rest, ctx, -⟩ := disables_disableUnits s.atReset s.pkg.log
  exact ⟨_, execDeviceReset_eq s, congrArg (·.pkg.boot) rest, congrArg (·.pkg.off) rest, congrArg (·.pkg.log) rest,
    congrArg (·.pkg.rreq) rest, congrArg (·.mem) rest, congrArg (·.net) rest, ctx, fun _ hu => unitOff_disableUnits _ hu,
    congrArg (·.reports) rest⟩

/-! ## The stages of boot (R511) -/

/-- The units that self-test finds failing: compute cores, memory cores from 576 on, and pseudo-channels as 2,048 plus their slice. -/
def failing (cores mcs pch : List Nat) : List Nat :=
  cores.filter isCompute ++ (mcs.filter fun n => n < Config.nSlices).map (576 + ·) ++
    (pch.filter fun n => n < Config.nSlices).map (2048 + ·)

theorem disableUnits_append (s : State) (us vs : List Nat) : s.disableUnits (us ++ vs) = (s.disableUnits us).disableUnits vs :=
  List.foldl_append

theorem disableUnits_cores {us : List Nat} (h : ∀ u ∈ us, isCompute u = true) (s : State) :
    s.disableUnits us = us.foldl (fun (s : State) e => s.modCore e fun c => { c with disabled := true }) s := by
  unfold State.disableUnits
  refine foldl_congr_of_mem (fun t u hu => ?_) s
  simp [State.disableUnit, h u hu]

theorem disableUnits_mcs {ns : List Nat} (h : ∀ n ∈ ns, n < Config.nSlices) (s : State) :
    s.disableUnits (ns.map (576 + ·)) =
      ns.foldl (fun (s : State) n => s.setMc (576 + n) { s.mc (576 + n) with disabled := true }) s := by
  unfold State.disableUnits
  rw [List.foldl_map]
  refine foldl_congr_of_mem (fun t n hn => ?_) s
  simp [State.disableUnit, isCompute_memCore, isMemCore_memCore (h n hn)]

theorem disableUnits_pch (ns : List Nat) (s : State) :
    s.disableUnits (ns.map (2048 + ·)) = { s with pkg := { s.pkg with badPch := ns.foldl insertNat s.pkg.badPch } } := by
  induction ns generalizing s with
  | nil => rfl
  | cons n ns ih =>
    have e : s.disableUnit (2048 + n) = { s with pkg := { s.pkg with badPch := insertNat s.pkg.badPch n } } := by
      simp [State.disableUnit, isCompute_slice, isMemCore_slice]
    calc s.disableUnits ((n :: ns).map (2048 + ·)) = (s.disableUnit (2048 + n)).disableUnits (ns.map (2048 + ·)) := rfl
      _ = _ := by rw [ih, e]; rfl

theorem mem_failing {cores mcs pch : List Nat} {u : Nat} : u ∈ failing cores mcs pch ↔
    (u ∈ cores ∧ isCompute u = true) ∨ (∃ n ∈ mcs, n < Config.nSlices ∧ 576 + n = u) ∨
      ∃ n ∈ pch, n < Config.nSlices ∧ 2048 + n = u := by
  simp [failing, and_assoc]

theorem failing_nonempty_iff (cores mcs pch : List Nat) :
    (!(failing cores mcs pch).isEmpty) = true ↔ (∃ e ∈ cores, isCompute e = true) ∨ ∃ n ∈ mcs ++ pch, n < Config.nSlices := by
  rw [Bool.not_eq_true', List.isEmpty_eq_false_iff_exists_mem]
  simp only [mem_failing, List.mem_append]
  grind

theorem execSelfTest_eq {s : State} (cores mcs pch : List Nat) (stage : s.pkg.boot = 1) (on : s.pkg.off = false) :
    let t := s.disableUnits (failing cores mcs pch)
    execSelfTest cores mcs pch s = .next { t with pkg := { t.pkg with
      boot := 2, tested := true, rreq := t.pkg.rreq || !(failing cores mcs pch).isEmpty } } := by
  have fails : (cores.any isCompute || (mcs.any fun n => n < Config.nSlices) || !(pch.filter fun n => n < Config.nSlices).isEmpty) =
      !(failing cores mcs pch).isEmpty := by
    rw [Bool.eq_iff_iff, failing_nonempty_iff]
    simp only [Bool.or_eq_true, List.any_eq_true, Bool.not_eq_true', List.isEmpty_eq_false_iff_exists_mem, List.mem_filter,
      decide_eq_true_eq, List.mem_append, or_and_right, exists_or, or_assoc]
  have compute : ∀ u ∈ cores.filter isCompute, isCompute u = true := fun u hu => (List.mem_filter.mp hu).2
  have slice : ∀ n ∈ mcs.filter fun n => n < Config.nSlices, n < Config.nSlices := fun n hn => by simpa using (List.mem_filter.mp hn).2
  rw [← fails, failing, disableUnits_append, disableUnits_append, disableUnits_pch, disableUnits_mcs slice, disableUnits_cores compute]
  exact if_neg (by simp [stage, on])

theorem execSelfTest_passes {s : State} (cores mcs pch : List Nat) (stage : s.pkg.boot = 1) (on : s.pkg.off = false) :
    ∃ t, execSelfTest cores mcs pch s = .next t ∧ t.pkg.boot = 2 ∧
      (∀ e ∈ cores, isCompute e = true → t.coreOn e = false) ∧ (∀ n ∈ mcs, n < Config.nSlices → t.mcOn (576 + n) = false) ∧
      (∀ n ∈ pch, n < Config.nSlices → n ∈ t.pkg.badPch) ∧
      (t.pkg.rreq = true ↔ s.pkg.rreq = true ∨ (∃ e ∈ cores, isCompute e = true) ∨ ∃ n ∈ mcs ++ pch, n < Config.nSlices) := by
  have off {u : Nat} (hu : u ∈ failing cores mcs pch) : (s.disableUnits (failing cores mcs pch)).unitOff u = true :=
    unitOff_disableUnits s hu
  have rreq : (s.disableUnits (failing cores mcs pch)).pkg.rreq = s.pkg.rreq := by
    rw [(disables_disableUnits s (failing cores mcs pch)).rest]
  refine ⟨_, execSelfTest_eq cores mcs pch stage on, rfl, fun e he hc => ?_, fun n hn hlt => ?_, fun n hn hlt => ?_, ?_⟩
  · exact (Bool.not_eq_true' _).mp ((State.unitOff_core _ hc).symm.trans (off (mem_failing.mpr (.inl ⟨he, hc⟩))))
  · exact (Bool.not_eq_true' _).mp ((State.unitOff_memCore _ hlt).symm.trans (off (mem_failing.mpr (.inr (.inl ⟨n, hn, hlt, rfl⟩)))))
  · exact List.contains_iff_mem.mp ((State.unitOff_slice _ n).symm.trans (off (mem_failing.mpr (.inr (.inr ⟨n, hn, hlt, rfl⟩)))))
  · rw [← failing_nonempty_iff, ← rreq]
    exact Bool.or_eq_true_iff

theorem execMemoryTraining_trains {s : State} (t2len : Vector (BitVec 41) 12) (stage : s.pkg.boot = 2) :
    ∃ t, execMemoryTraining t2len true s = .next t ∧ t.pkg.boot = 3 ∧
      t.pkg.t1size = BitVec.ofNat 64 (s.slices.length * 1216 * 2 ^ 20) ∧
      ∀ i : Fin 12, t.pkg.t2len[i].toNat = t2len[i].toNat / 65536 * 65536 := by
  refine ⟨_, (if_neg (by simp [stage])).trans (if_neg (by simp)), rfl, rfl, fun i => ?_⟩
  have e : (t2len.map fun l => l &&& ~~~0xFFFF)[i] = t2len[i] &&& ~~~BitVec.ofNat 41 (2 ^ 16 - 1) := by simp
  rw [e]
  exact toNat_and_not_lowMask t2len[i] 16

theorem State.bootFail_eq (s : State) :
    s.bootFail = if s.pkg.boot ∈ [1, 2, 3, 4, 6] then { s with pkg := { s.pkg with boot := 15 } } else s := by
  have stages : ∀ b : BitVec 4, (1 ≤ b ∧ b ≤ 6 ∧ b ≠ 5) ↔ b ∈ [1, 2, 3, 4, 6] := by decide
  unfold State.bootFail
  simp only [stages]

/-- Context 0 of each of several cores starts as `x`, as CHOING_LOAD does it for the service cores. -/
def State.startService (s : State) (x : Ctx) (es : List Nat) : State :=
  es.foldl (fun (s : State) e => s.setCtxAt e 0 x) s

theorem startService_pkg (s : State) (x : Ctx) (es : List Nat) : (s.startService x es).pkg = s.pkg :=
  foldl_unchanged State.pkg _ (fun s e => State.setCtxAt_pkg s e 0 x) es s

theorem startService_mem (s : State) (x : Ctx) (es : List Nat) : (s.startService x es).mem = s.mem :=
  foldl_unchanged State.mem _ (fun s e => State.setCtxAt_mem s e 0 x) es s

theorem ctxAt_startService (s : State) (x : Ctx) {es : List Nat} {e : Nat} (he : e ∈ es) : (s.startService x es).ctxAt e 0 = x :=
  foldl_reaches (fun e (s : State) => s.ctxAt e 0 = x) _ (fun s e => by simp [State.ctxAt_setCtxAt])
    (fun s e d h => by rw [State.ctxAt_setCtxAt, h]; simp) he s

theorem entry_aligned (entry : Word) : entry &&& ~~~3 = BitVec.ofNat 64 (entry.toNat / 4 * 4) := by
  rw [← BitVec.toNat_inj, BitVec.toNat_ofNat, Nat.mod_eq_of_lt (Nat.lt_of_le_of_lt (Nat.div_mul_le_self _ _) entry.isLt)]
  exact toNat_and_not_lowMask entry 2

theorem execChoingLoad_loads {s : State} (entry : Word) (image : List BootPiece) (stage : s.pkg.boot = 6) :
    ∃ t, execChoingLoad entry image s = .next t ∧ t.pkg = { s.pkg with boot := 7 } ∧
      t.mem = image.foldl (fun (m : List Host.Cell) p =>
        writeRange m p.1 p.2.2 (readRange s.hostMem (s.pkg.bootImg.toNat + p.2.1) p.2.2)) s.mem ∧
      ∀ c < 72, t.ctxAt (960 + c) 0 = { life := .live, pc := BitVec.ofNat 64 (entry.toNat / 4 * 4), csr := { prv := true } } := by
  have start : execChoingLoad entry image s = .next (State.startService _ _ serviceCores) :=
    (if_neg (by simp [stage])).trans (if_neg (by simp [stage]))
  refine ⟨_, start, startService_pkg _ _ _, startService_mem _ _ _, fun c hc => ?_⟩
  have he : 960 + c ∈ serviceCores := List.mem_map.mpr ⟨c, List.mem_range.mpr hc, rfl⟩
  rw [ctxAt_startService _ _ he, entry_aligned]

/-! ## The statement -/

/-- Settles O51: each clause is the lemma on its event, above, or the branch of the event's definition that its condition takes. -/
theorem unitsAndBoot : Obligations.UnitsAndBoot := by
  unfold Obligations.UnitsAndBoot
  refine ⟨fun s unit logic post => ?_, fun s => ?_, fun s => ?_⟩
  · refine ⟨isUnit_iff unit, fun counts fresh on => ⟨execUnitMark_marks post counts fresh on, ?_⟩, execUnitMark_keeps_other logic,
      fun on => ⟨fun compute => ?_, fun compute mem => ?_⟩, execUnitDisable_keeps_other⟩
    · rintro rfl within
      exact execUnitMark_keeps_within within
    · exact ⟨execUnitDisable_core post on compute, execUnitDisable_keeps_core compute⟩
    · exact ⟨execUnitDisable_mc post on compute mem, execUnitDisable_keeps_mc compute⟩
  · exact ⟨fun due => if_neg (Nat.not_le.mpr due), fun early => if_pos early,
      fun temps power h post hot => ⟨thermalStep_outcomes post hot, fun early => if_pos (.inl early)⟩,
      fun temps => ⟨le_hottest temps, exists_eq_hottest temps⟩,
      fun hot => if_neg (Nat.not_lt.mpr hot), fun cool => if_pos cool⟩
  · refine ⟨execDeviceReset_state s, ?powerOff, fun cores mcs pch => ⟨fun other => if_pos other, execSelfTest_passes cores mcs pch⟩,
      fun t2len => ⟨fun other ok => if_pos other, ?training⟩, fun stage => if_pos stage, ?stage4,
      fun not3 not4 => (if_neg not3).trans (if_neg not4), s.bootFail_eq,
      fun entry image => ⟨fun stage ready => if_pos ⟨stage, ready⟩, execChoingLoad_loads entry image, fun other wait => ?waits⟩⟩
    case powerOff => exact ⟨_, rfl, rfl, rfl, rfl, rfl, rfl, rfl⟩
    case training =>
      exact fun stage => ⟨(if_neg (· stage)).trans (if_pos rfl), execMemoryTraining_trains t2len stage⟩
    case stage4 => exact fun stage => (if_neg (by simp [stage])).trans (if_pos stage)
    case waits =>
      have notReady : ¬(s.pkg.boot = 5 ∧ s.pkg.hostReady = true) := fun h =>
        wait.elim (· h.1) fun off => Bool.false_ne_true (off.symm.trans h.2)
      exact (if_neg notReady).trans (if_pos other)

end Sys2Proof.Machine
end

section
/-! PROOFS: encoding and decoding (O1, O2, O3).
The fields of joined words, the decoders by major opcode, and then both round trips, row by row of the encoding tables. -/

namespace Sys2Proof

/-! ## Fields of joined words

The widths of a join are sums, which `no_index` lets `simp` match with the literal width of a field. -/

theorem fld_append_low {n m : Nat} (x : BitVec n) (y : BitVec m) {lo len : Nat} (h : lo + len ≤ m) :
    fld (no_index (x ++ y)) lo len = fld y lo len :=
  BitVec.extractLsb'_append_eq_of_add_le h

theorem fld_append_high {n m : Nat} (x : BitVec n) (y : BitVec m) {lo len : Nat} (h : m ≤ lo) :
    fld (no_index (x ++ y)) lo len = fld x (lo - m) len :=
  BitVec.extractLsb'_append_eq_of_le h

/-- Two fields side by side are one field. -/
theorem fld_append_fld {k hi lo m n : Nat} (w : BitVec k) (h : hi = lo + n) :
    @Eq (no_index (BitVec (m + n))) (no_index (fld w hi m ++ fld w lo n)) (fld w lo (no_index (m + n))) :=
  BitVec.extractLsb'_append_extractLsb'_eq_extractLsb' h

/-- A join is a word exactly when its parts are the upper and the lower field of the word. -/
theorem append_eq_iff {m n : Nat} (x : BitVec m) (y : BitVec n) (z : BitVec (m + n)) :
    @Eq (no_index (BitVec (m + n))) (no_index (x ++ y)) z ↔ x = fld z n m ∧ y = fld z 0 n := by
  constructor
  · rintro rfl
    rw [fld_append_high x y (Nat.le_refl n), fld_append_low x y (Nat.le_of_eq (Nat.zero_add n)), Nat.sub_self, fld_all, fld_all]
    exact ⟨rfl, rfl⟩
  · rintro ⟨rfl, rfl⟩
    rw [fld_append_fld z (Nat.zero_add n).symm, fld_all]

theorem fld_ofNat (n x lo len : Nat) : fld (BitVec.ofNat n x) lo len = BitVec.ofNat len ((x % 2 ^ n) >>> lo) := by
  simp [fld, BitVec.extractLsb']

@[simp] theorem fld_pack_20_6 (f7 : BitVec 7) (b a : BitVec 5) (f3 : BitVec 3) (d : BitVec 5) (op : BitVec 7) :
    fld (pack f7 b a f3 d op) 20 6 = fld f7 0 1 ++ b := by
  simp only [pack, fld]; ext i hi; simp; grind

/-- A packed word is a word exactly when each of the six fields is the word's. -/
theorem pack_eq_iff {w : BitVec 32} {f7 : BitVec 7} {b a d : BitVec 5} {f3 : BitVec 3} {op : BitVec 7} :
    pack f7 b a f3 d op = w ↔
      f7 = fld w 25 7 ∧ b = fld w 20 5 ∧ a = fld w 15 5 ∧ f3 = fld w 12 3 ∧ d = fld w 7 5 ∧ op = fld w 0 7 := by
  simp only [pack, append_eq_iff, fld_fld, and_assoc, Nat.reduceAdd, Nat.reduceLeDiff]

@[simp] theorem ElemT.ofCode_code (t : ElemT) : ElemT.ofCode t.code = some t := by cases t <;> rfl

@[simp] theorem ElemT.ofCode_memory : ElemT.ofCode 7#3 = none := rfl

theorem ElemT.code_ofCode {c : BitVec 3} {t : ElemT} (h : ElemT.ofCode c = some t) : t.code = c := by
  revert c t; decide

/-! ## Major opcodes (R36) -/

/-- The major opcodes with the decoder of each. -/
def majors : List (BitVec 7 × (BitVec 32 → Option Instr)) :=
  [(0x37, decLui), (0x17, decAuipc), (0x13, decOpImm), (0x1b, decOpImm32), (0x33, decOp), (0x3b, decOp32), (0x6f, decJal),
   (0x67, decJalr), (0x63, decBranch), (0x03, decLoad), (0x23, decStore), (0x07, decLoadFp), (0x27, decStoreFp),
   (0x0f, decMiscMem), (0x73, decSystem), (0x7b, decCustom3), (0x43, decMadd), (0x47, decMsub), (0x4b, decNmsub),
   (0x4f, decNmadd), (0x53, decOpFp), (0x0b, decCustom0), (0x2b, decCustom1), (0x5b, decCustom2)]

theorem foldr_ite_eq_lookup {α β ε : Type} [DecidableEq α] (op : α) (f : β → ε) (d : ε) (l : List (α × β)) :
    l.foldr (fun e r => if op = e.1 then f e.2 else r) d = ((l.lookup op).map f).getD d := by
  induction l with
  | nil => rfl
  | cons e l ih =>
    rw [List.foldr_cons, ih, List.lookup_cons]
    by_cases h : op = e.1
    · simp [h]
    · simp [h, beq_eq_false_iff_ne.mpr h]

theorem decMajor_eq (w : BitVec 32) :
    decMajor w = ((majors.lookup (fld w 0 7)).map fun dec => .ok (dec w)).getD (.error .majorOpcode) :=
  foldr_ite_eq_lookup (fld w 0 7) (fun dec : BitVec 32 → Option Instr => Except.ok (dec w)) (.error DecodeError.majorOpcode) majors

/-- The major opcodes are assigned, or among the eight that R36 calls illegal or reserved. -/
theorem lookup_majors_eq_none_iff : ∀ op : BitVec 7, fld op 0 2 = 3#2 →
    (majors.lookup op = none ↔ op ∈ ([0x1f, 0x2f, 0x3f, 0x57, 0x5f, 0x6b, 0x77, 0x7f] : List (BitVec 7))) := by
  decide +kernel

theorem low_of_lookup_majors : ∀ op : BitVec 7, majors.lookup op ≠ none → fld op 0 2 = 3#2 := by
  decide +kernel

theorem fld_op_low (w : BitVec 32) : fld (fld w 0 7) 0 2 = fld w 0 2 := fld_fld w 0 7 0 2 (by decide)

theorem decode_of_not_low {w : BitVec 32} (low : fld w 0 2 ≠ 3#2) : decode w = .error .lowBits := if_neg low

theorem decode_of_lookup_none {w : BitVec 32} (low : fld w 0 2 = 3#2) (hm : majors.lookup (fld w 0 7) = none) :
    decode w = .error .majorOpcode := by
  unfold decode
  rw [if_pos low, decMajor_eq, hm]
  rfl

theorem decode_of_lookup_some {w : BitVec 32} {dec : BitVec 32 → Option Instr} (hm : majors.lookup (fld w 0 7) = some dec) :
    decode w = ((dec w).map .ok).getD (.error .unassignedCode) := by
  have low : fld w 0 2 = 3#2 := fld_op_low w ▸ low_of_lookup_majors (fld w 0 7) (by simp [hm])
  unfold decode
  rw [if_pos low, decMajor_eq, hm, Option.map_some, Option.getD_some]
  cases dec w <;> rfl

theorem decode_eq_ok_iff {w : BitVec 32} {i : Instr} :
    decode w = .ok i ↔ ∃ dec, majors.lookup (fld w 0 7) = some dec ∧ dec w = some i := by
  cases hm : majors.lookup (fld w 0 7) with
  | none =>
    by_cases low : fld w 0 2 = 3#2
    · simp [decode_of_lookup_none low hm]
    · simp [decode_of_not_low low]
  | some dec =>
    rw [decode_of_lookup_some hm]
    cases hw : dec w <;> simp [hw]

theorem decode_eq_lowBits_iff (w : BitVec 32) : decode w = .error .lowBits ↔ fld w 0 2 ≠ 3#2 := by
  refine ⟨fun h low => ?_, decode_of_not_low⟩
  cases hm : majors.lookup (fld w 0 7) with
  | none => rw [decode_of_lookup_none low hm] at h; cases h
  | some dec => rw [decode_of_lookup_some hm] at h; cases hw : dec w <;> simp [hw] at h

theorem decode_eq_majorOpcode_iff {w : BitVec 32} (low : fld w 0 2 = 3#2) :
    decode w = .error .majorOpcode ↔ majors.lookup (fld w 0 7) = none := by
  refine ⟨fun h => ?_, decode_of_lookup_none low⟩
  cases hm : majors.lookup (fld w 0 7) with
  | none => rfl
  | some dec => rw [decode_of_lookup_some hm] at h; cases hw : dec w <;> simp [hw] at h

/-! ## Every word of an instruction decodes to it -/

theorem decode_pack {f7 : BitVec 7} {b a d : BitVec 5} {f3 : BitVec 3} {op : BitVec 7} {i : Instr}
    {dec : BitVec 32 → Option Instr} (h : majors.lookup op = some dec) (hi : dec (pack f7 b a f3 d op) = some i) :
    decode (pack f7 b a f3 d op) = .ok i :=
  decode_eq_ok_iff.mpr ⟨dec, by rw [fld_pack_op, h], hi⟩

/-- Settles O1: an event has no word; the major opcode of an instruction's word names its decoder, and of the decoder's rows the first
whose fields the word has is the instruction's own. -/
theorem decodeEncode : Obligations.DecodeEncode := by
  intro i w h
  cases i
  all_goals cases h
  all_goals refine decode_pack rfl ?_
  all_goals simp [decLui, decAuipc, decOpImm, decOpImm32, decOp, decOp32, decJal, decJalr, decBranch, decLoad, decStore, decLoadFp,
    decStoreFp, decMiscMem, decSystem, decCustom3, decMadd, decMsub, decNmsub, decNmadd, decOpFp, decCustom0, decCustom1,
    decVecArith, decVecMem, decCustom2, decB, decJ, decS, decPair, fld_append_low, fld_append_high, fld_append_fld, fld_fld,
    fld_ofNat, append_eq_iff]

/-! ## Every word that decodes is its instruction's -/

/-- What each row of a decoder has, its answer has: the row at hand has it under its condition, the later rows have it. -/
theorem forall_mem_ite {c : Prop} [Decidable c] {P : Instr → Prop} {x : Instr} {rows : Option Instr}
    (row : c → P x) (later : ∀ i ∈ rows, P i) : ∀ i ∈ (if c then some x else rows), P i := by
  split
  · next h => rintro i ⟨⟩; exact row h
  · exact later

theorem forall_mem_some {P : Instr → Prop} {x : Instr} (h : P x) : ∀ i ∈ some x, P i := by
  rintro i ⟨⟩; exact h

theorem forall_mem_none {P : Instr → Prop} : ∀ i ∈ (none : Option Instr), P i := fun _ h => nomatch h

/-- A packed word as the word of an instruction: field by field. -/
theorem encode_eq_of_fields {i : Instr} {w : BitVec 32} {f7 : BitVec 7} {b a d : BitVec 5} {f3 : BitVec 3} {op : BitVec 7}
    (h : encode i = some (pack f7 b a f3 d op))
    (fields : f7 = fld w 25 7 ∧ b = fld w 20 5 ∧ a = fld w 15 5 ∧ f3 = fld w 12 3 ∧ d = fld w 7 5 ∧ op = fld w 0 7) :
    encode i = some w :=
  h.trans (congrArg some (pack_eq_iff.mpr fields))

theorem encode_of_decVecArith {w : BitVec 32} {t : ElemT} (op : fld w 0 7 = 0x2b#7) (typ : t.code = fld w 12 3) :
    ∀ i ∈ decVecArith t w, encode i = some w := by
  unfold decVecArith
  repeat' apply forall_mem_ite
  any_goals exact forall_mem_none
  all_goals refine fun row => encode_eq_of_fields rfl ?_
  all_goals simp [append_eq_iff, fld_fld, row, op, typ]

theorem encode_of_decVecMem {w : BitVec 32} (op : fld w 0 7 = 0x2b#7) (group : fld w 12 3 = 7#3) :
    ∀ i ∈ decVecMem w, encode i = some w := by
  unfold decVecMem
  repeat' apply forall_mem_ite
  any_goals exact forall_mem_none
  all_goals refine fun row => encode_eq_of_fields rfl ?_
  all_goals simp [row, op, group]

theorem encode_of_decCustom1 {w : BitVec 32} (op : fld w 0 7 = 0x2b#7) : ∀ i ∈ decCustom1 w, encode i = some w := by
  unfold decCustom1
  split
  · next t typ => exact encode_of_decVecArith op (ElemT.code_ofCode typ)
  · split
    · next group => exact encode_of_decVecMem op group
    · exact forall_mem_none

theorem encode_of_majors (w : BitVec 32) : ∀ e ∈ majors, fld w 0 7 = e.1 → ∀ i ∈ e.2 w, encode i = some w := by
  simp only [majors, List.forall_mem_cons]
  refine ⟨?lui, ?auipc, ?opImm, ?opImm32, ?op, ?op32, ?jal, ?jalr, ?branch, ?load, ?store, ?loadFp, ?storeFp, ?miscMem, ?system,
    ?custom3, ?madd, ?msub, ?nmsub, ?nmadd, ?opFp, ?custom0, ?custom1, ?custom2, List.forall_mem_nil _⟩
  all_goals intro op
  case custom1 => exact encode_of_decCustom1 op
  case lui | auipc | jal =>
    refine forall_mem_some (encode_eq_of_fields rfl ?_)
    simp [decJ, fld_fld, fld_append_low, fld_append_high, append_eq_iff, op]
  all_goals simp only [decOpImm, decOpImm32, decOp, decOp32, decJalr, decBranch, decLoad, decStore, decLoadFp, decStoreFp,
    decMiscMem, decSystem, decCustom3, decMadd, decMsub, decNmsub, decNmadd, decOpFp, decCustom0, decCustom2]
  all_goals repeat' apply forall_mem_ite
  any_goals exact forall_mem_none
  all_goals refine fun row => encode_eq_of_fields rfl ?_
  all_goals simp [decB, decS, decPair, fld_fld, fld_append_low, fld_append_high, append_eq_iff, row, op]

/-- Settles O2: a word that decodes has the fields of a row of its decoder, hence of the row's word; it is refused for its major opcode
exactly when no decoder has that opcode. -/
theorem encodeDecode : Obligations.EncodeDecode := by
  refine fun w => ⟨fun i h => ?_, decode_eq_lowBits_iff w, fun low => ?_⟩
  · obtain ⟨dec, hm, hi⟩ := decode_eq_ok_iff.mp h
    obtain ⟨before, after, hl, -⟩ := List.lookup_eq_some_iff.mp hm
    exact encode_of_majors w (fld w 0 7, dec) (by simp [hl]) rfl i hi
  · rw [decode_eq_majorOpcode_iff low, lookup_majors_eq_none_iff _ ((fld_op_low w).trans low)]

/-- Settles O3: each word is the word of its instruction (O1). -/
theorem decodeWords : Obligations.DecodeWords := by
  have dec {i : Instr} {w : BitVec 32} (h : encode i = some w) : decode w = .ok i := decodeEncode i w h
  unfold Obligations.DecodeWords
  and_intros
  all_goals exact dec rfl

end Sys2Proof
end

section
/-! PROOFS: transfers, traps and returns (O6, O11).
What a jump and a branch do with their target, the trap of a word that is no instruction, the fetch that is refused, and the return
from a trap, which changes the context at hand alone. -/

namespace Sys2Proof.Safety

open Sys2Proof Sys2Proof.Machine

/-! ## Transfers (R68, R69, R52) -/

theorem jump_aligned {t : Word} {s : State} {go : State → State} (h : t.toNat % 4 = 0) :
    jump t s go = .next ((go s).goto t) :=
  if_neg (not_not_intro h)

theorem jump_misaligned {t : Word} {s : State} {go : State → State} (h : t.toNat % 4 ≠ 0) :
    jump t s go = .next (trapped 0 t s) :=
  if_pos h

theorem execJal_eq (rd : Reg) (j : BitVec 20) (s : State) :
    execJal rd j s = jump (s.pc + (j ++ 0#1).signExtend 64) s fun s => s.setX rd (s.pc + 4) := rfl

theorem execJalr_eq (rd rs1 : Reg) (imm : BitVec 12) (s : State) :
    execJalr rd rs1 imm s = jump ((s.x rs1 + imm.signExtend 64) &&& ~~~1) s fun s =>
      if isReturn rd rs1 imm then s.setX rd (s.pc + 4) else (s.setX rd (s.pc + 4)).expectPad 0 := rfl

/-- A branch whose condition is `c`. -/
theorem branch_eq {c : Prop} [Decidable c] {b : Bool} (h : b = true ↔ c) (off : BitVec 12) (s : State) :
    let t : Word := s.pc + (off ++ 0#1).signExtend 64
    branch b off s =
      if c then (if t.toNat % 4 = 0 then .next (s.goto t) else .next (trapped 0 t s)) else .next s.advance := by
  intro t
  by_cases hc : c
  · rw [if_pos hc]
    refine (if_pos (h.mpr hc)).trans ?_
    split
    · next aligned => exact jump_aligned aligned
    · next misaligned => exact jump_misaligned misaligned
  · rw [if_neg hc]
    exact if_neg (mt h.mp hc)

theorem execJt_misaligned {rd rs1 tb : Reg} {s : State} (h : (s.x tb).toNat % 8 ≠ 0) :
    execJt rd rs1 tb s = .next (trapped 4 (s.x tb) s) :=
  if_pos h

section
variable {rd rs1 tb : Reg} {s s1 s2 : State} {hdr e : Nat} (aligned : (s.x tb).toNat % 8 = 0)
  (header : s.innerRead (s.x tb) 8 = .ok s1 hdr)

include aligned header

theorem execJt_reserved (reserved : (BitVec.ofNat 64 hdr).extractLsb' 44 20 ≠ 0) :
    execJt rd rs1 tb s = .next (trapped 22 (s.x rs1) s1) := by
  unfold execJt
  rw [if_neg (not_not_intro aligned), header]
  exact if_pos reserved

theorem execJt_outside (plain : (BitVec.ofNat 64 hdr).extractLsb' 44 20 = 0)
    (outside : ((BitVec.ofNat 64 hdr).extractLsb' 0 32).toNat ≤ (s.x rs1).toNat) :
    execJt rd rs1 tb s = .next (trapped 22 (s.x rs1) s1) := by
  unfold execJt
  rw [if_neg (not_not_intro aligned), header]
  exact (if_neg (not_not_intro plain)).trans (if_pos outside)

theorem execJt_entry (plain : (BitVec.ofNat 64 hdr).extractLsb' 44 20 = 0)
    (inside : (s.x rs1).toNat < ((BitVec.ofNat 64 hdr).extractLsb' 0 32).toNat)
    (entry : s1.innerRead (s.x tb + 8 + 4 * s.x rs1) 4 = .ok s2 e) :
    execJt rd rs1 tb s = jump (s.x tb + (BitVec.ofNat 32 e).signExtend 64) s2 fun s =>
      (s.setX rd (s.pc + 4)).expectPad ((BitVec.ofNat 64 hdr).extractLsb' 32 12) := by
  unfold execJt
  rw [if_neg (not_not_intro aligned), header]
  refine (if_neg (not_not_intro plain)).trans ((if_neg (Nat.not_le.mpr inside)).trans ?_)
  rw [entry]
  rfl

end

/-- Settles O11: each transfer ends in `jump` or `branch`, which check the target; JT reads its header and its entry first. -/
theorem transfersAndPads : Obligations.TransfersAndPads := by
  constructor
  · intro s rd rs1 rs2 j imm off a b link tj tr tb ret taken
    have jal := execJal_eq rd j s
    have jalr := execJalr_eq rd rs1 imm s
    refine ⟨fun aligned => jal.trans (jump_aligned aligned), fun misaligned => jal.trans (jump_misaligned misaligned),
      fun aligned => jalr.trans (jump_aligned aligned), fun misaligned => jalr.trans (jump_misaligned misaligned),
      branch_eq beq_iff_eq off s, branch_eq bne_iff_ne off s,
      branch_eq decide_eq_true_iff off s, branch_eq ?bge off s, branch_eq decide_eq_true_iff off s, branch_eq ?bgeu off s⟩
    case bge => exact (iff_of_eq (Bool.not_eq_true' _)).trans (decide_eq_false_iff_not.trans Int.not_lt)
    case bgeu => exact (iff_of_eq (Bool.not_eq_true' _)).trans (decide_eq_false_iff_not.trans Nat.not_lt)
  · intro s rd rs1 tb label base i
    refine ⟨rfl, execJt_misaligned, fun s1 hdr aligned header =>
      ⟨execJt_reserved aligned header, execJt_outside aligned header, fun s2 e plain inside entry => ?_⟩⟩
    have jumps := execJt_entry (rd := rd) aligned header plain inside entry
    exact ⟨fun misaligned => jumps.trans (jump_misaligned misaligned), fun aligned => jumps.trans (jump_aligned aligned)⟩

/-! ## Traps and returns (R44, R45, R77, R81, R82) -/

/-- The context at hand replaced, and the note of how the instruction ended: nothing else differs. -/
theorem onlyContext_setCtx (s : State) (x : Ctx) (o : Issue) : OnlyContext s { s.setCtx x with out := o } := by
  refine ⟨rfl, fun ep n other => ?_, fun ep => ?_⟩
  · exact (State.ctxAt_setCtxAt s s.cur.1 ep s.cur.2 n x).trans (if_neg other)
  · have core : ({ s.setCtx x with out := o } : State).core ep = if ep = s.cur.1 then (s.core s.cur.1).setCtx s.cur.2 x else s.core ep :=
      State.core_setCore s s.cur.1 ep _
    rw [core]
    split
    · subst ep; rfl
    · rfl

theorem execIllegalInstruction_eq (w : BitVec 32) (s : State) :
    execIllegalInstruction w s =
      if w &&& 0x727F = 0x425B then .next (trapped 19 (w.zeroExtend 64) s) else .next (trapped 2 0 s) := by
  unfold execIllegalInstruction badWord
  split <;> rfl

/-- A fetch outside the pages of this device is refused. -/
theorem fetch_outside {s : State} (h : aDev s.pc ≠ s.dev ∨ aWin s.pc = true) : s.fetch = .stop (.next (trapped 1 s.pc s)) :=
  if_pos h

/-- A fetch from a LAT page of this device that is not corked, page and line, is refused. -/
theorem fetch_lat_open {s u : State} {t : Tlb} (dev : aDev s.pc = s.dev) (win : aWin s.pc = false)
    (found : s.translate s.cur.1 .read s.pc = (u, .ok t (t.pa s.pc))) (clear : s.storing s.cur.1 s.cur.2 s.pc = false)
    (lat : t.cls = .lat) (cork : t.cork = false) (lineOpen : (u.line (t.pa s.pc / 128)).cork = false) :
    s.fetch = .stop (.next (trapped 1 s.pc u)) := by
  unfold State.fetch
  simp only [found]
  rw [if_neg (by simp [dev, win]), if_neg (by simp [clear]), if_pos lat, if_neg (by simp [cork, lineOpen])]
  rfl

theorem execInstructionFetchFault_stop {s : State} {r : Res} (h : s.fetch = .stop r) : execInstructionFetchFault s = r := by
  unfold execInstructionFetchFault
  rw [h]

theorem execKret_system {s : State} (prv : s.ctx.csr.prv = true) :
    execKret s = .next { s.setCtx s.ctx.leaveTrap with out := .done } :=
  if_neg (by simp [prv])

/-- Settles O6: the trap of a word that is no instruction, the two refused fetches, and the return, each by the lemma on it. -/
theorem trapsAndReturns : Obligations.TrapsAndReturns := by
  intro s w
  have illegal := execIllegalInstruction_eq w s
  refine ⟨fun other => illegal.trans (if_neg other), fun mmas => illegal.trans (if_pos mmas),
    fun outside => execInstructionFetchFault_stop (fetch_outside outside),
    fun u t dev win found clear lat cork lineOpen =>
      execInstructionFetchFault_stop (fetch_lat_open dev win found clear lat cork lineOpen),
    rfl, rfl, fun prv => ⟨_, execKret_system prv, ?_⟩, fun prv => if_pos (by simp [prv])⟩
  have ctx : ({ s.setCtx s.ctx.leaveTrap with out := .done } : State).ctx = s.ctx.leaveTrap := State.ctx_setCtx s s.ctx.leaveTrap
  refine ⟨congrArg Ctx.pc ctx, congrArg Ctx.csr ctx, ?_, onlyContext_setCtx s s.ctx.leaveTrap .done⟩
  rw [ctx]
  rfl

end Sys2Proof.Safety
end

section
/-! PROOFS: a step of a context or of a gang (O4).
What an issue adds to the instruction that it performs, when nothing is pending: lines that reads inside it have fetched go, a cycle
passes, and the reports of the step find room. Then what a fetched word performs, alone and in a gang. -/

namespace Sys2Proof.Safety

open Sys2Proof Sys2Proof.Machine

/-! ## An issue around its instruction -/

@[simp] theorem dropHeld_reports (s : State) (ep : Nat) (n : Fin 11) : (s.dropHeld ep n).reports = s.reports := by
  unfold State.dropHeld
  split <;> rfl

/-- The instruction of a context or of a gang, as an issue performs it. -/
def issueRun (s : State) : Res := if s.me.gang.g then s.issueGang s.me.gang.set else s.issue1

/-- The lines that reads inside an instruction have fetched are dropped on each of its cores. -/
def dropHeldAll (cores : List Nat) (n : Fin 11) (t : State) : State := cores.foldl (fun t e => t.dropHeld e n) t

theorem dropHeldAll_reports (cores : List Nat) (n : Fin 11) (t : State) : (dropHeldAll cores n t).reports = t.reports :=
  Machine.foldl_unchanged State.reports _ (fun s e => dropHeld_reports s e n) cores t

/-- What an issue does with the outcome of its instruction: a deferred trap or a reported fault comes after it. -/
def afterRun (s : State) (ep : Nat) (n : Fin 11) (r : Res) : Res :=
  let cores := s.me.teamCores ep
  match r with
  | .next t =>
    match t.out with
    | .trapped .. => .next (dropHeldAll cores n t)
    | _ =>
      match cores.find? fun e => (s.ctxAt e n).deferred ≠ [] && s.mayTake e n with
      | some e => .next (s.takeDeferred e n)
      | none =>
        match cores.find? fun e => s.reportDue e n with
        | some e => .next (s.deliverReport e n)
        | none => .next (dropHeldAll cores n t)
  | r => r

theorem issue_eq {s : State} {ep : Nat} {n : Fin 11} (ready : s.ready ep n = true) :
    s.issue ep n = afterRun (issuing s ep n) ep n (issueRun (issuing s ep n)) :=
  (if_neg (by simp [ready])).trans rfl

theorem afterRun_next {s t : State} {ep : Nat} {n : Fin 11} (quiet : ∀ e ∈ s.me.teamCores ep, NothingPending s e n) :
    afterRun s ep n (.next t) = .next (dropHeldAll (s.me.teamCores ep) n t) := by
  have deferred : (s.me.teamCores ep).find? (fun e => (s.ctxAt e n).deferred ≠ [] && s.mayTake e n) = none :=
    List.find?_eq_none.mpr fun e he => by simp [(quiet e he).1]
  have due : (s.me.teamCores ep).find? (fun e => s.reportDue e n) = none :=
    List.find?_eq_none.mpr fun e he => by simp [(quiet e he).2]
  unfold afterRun
  simp only [deferred, due]
  split <;> rfl

/-- An issue that is the first turn of a step, with nothing pending and room for its reports, is the instruction's own, and a cycle
passes. -/
theorem step_issue {s t : State} {ep : Nat} {n : Fin 11} {rest : List Turn} {cores : List Nat} (turn : s.agenda = .issue ep n :: rest)
    (on : s.pkg.off = false) (unit : issues ep = true) (ready : ({ s with agenda := rest } : State).ready ep n = true)
    (hcores : (issuing { s with agenda := rest } ep n).me.teamCores ep = cores)
    (quiet : ∀ e ∈ cores, NothingPending (issuing { s with agenda := rest } ep n) e n)
    (run : issueRun (issuing { s with agenda := rest } ep n) = .next t) (room : RoomFor s t) :
    step s = .next { dropHeldAll cores n t with cycle := (dropHeldAll cores n t).cycle + 1 } := by
  subst hcores
  have issue := issue_eq ready
  rw [run, afterRun_next quiet] at issue
  unfold step State.doStep
  simp only [turn, on, Bool.false_and, Bool.false_eq_true, if_false, State.turn, State.turnIssue, unit, Bool.not_true, issue,
    State.orWaits]
  rw [if_pos (by rw [dropHeldAll_reports]; exact room)]

/-! ## What a fetched word performs -/

theorem pc_setCtx (s : State) (x : Ctx) : (s.setCtx x).pc = x.pc := congrArg Ctx.pc (State.ctx_setCtx s x)

theorem issue1_word {s s2 : State} {w : BitVec 32} (fetch : s.fetch = .word s2 w) : s.issue1 = s2.performWord w := by
  unfold State.issue1
  rw [fetch]

section
variable {s : State} {w : BitVec 32}

theorem performWord_ok {i : Instr} (pad : s.ctx.pad = none) (dec : decode w = .ok i) : s.performWord w = s.perform1 i := by
  unfold State.performWord
  simp only [pad, dec]

theorem performWord_error {e : DecodeError} (pad : s.ctx.pad = none) (dec : decode w = .error e) :
    s.performWord w = exec (.illegalInstruction w) s := by
  unfold State.performWord
  simp only [pad, dec]
  rfl

/-- After a checked transfer, a word other than the LPAD that is expected traps (R49). -/
theorem performWord_other {label : BitVec 12} (pad : s.ctx.pad = some label) (other : w ≠ label ++ 0x0107B#20) :
    s.performWord w = .next (trapped 21 s.pc (s.setCtx { s.ctx with pad := none })) := by
  unfold State.performWord
  simp only [pad]
  exact (if_pos (by simp [padOk, other])).trans
    (congrArg (trap 21 · (s.setCtx { s.ctx with pad := none })) (pc_setCtx s { s.ctx with pad := none }))

theorem performWord_lpad {label : BitVec 12} (pad : s.ctx.pad = some label) (lpad : w = label ++ 0x0107B#20) :
    s.performWord w = (s.setCtx { s.ctx with pad := none }).perform1 (.lpad label) := by
  unfold State.performWord
  simp only [pad]
  exact if_neg (by simp [padOk, lpad])

end

/-- The token reads of an instruction count when it completes and leaves the context past it (R138). -/
theorem perform1_done {s t : State} {i : Instr} (free : Unblocked s s.cur.2 i)
    (run : exec i (s.setCtx (s.ctx.takeTokens i)) = .next t) (done : t.out = .done)
    (read : (t.ctxAt s.cur.1 s.cur.2).unread = false) : s.perform1 i = .next t := by
  unfold State.perform1
  rw [if_neg (by simpa using free), run]
  exact if_pos ⟨done, by simp [read]⟩

/-- An instruction that stalls, traps or issues again is performed with no token read. -/
theorem perform1_again {s t u : State} {i : Instr} (free : Unblocked s s.cur.2 i)
    (run : exec i (s.setCtx (s.ctx.takeTokens i)) = .next t)
    (again : t.out ≠ .done ∨ (t.ctxAt s.cur.1 s.cur.2).unread = true) (plain : exec i s = .next u) :
    s.perform1 i =
      .next (if u.out = .done then u.modCtx s.cur.1 s.cur.2 fun x => { x with toks := s.ctx.tokenRegs i } else u) := by
  unfold State.perform1
  rw [if_neg (by simpa using free), run]
  refine (if_neg ?_).trans ?_
  · rintro ⟨done, read⟩
    rcases again with h | h
    · exact h done
    · simp [h] at read
  · rw [plain]

theorem unblocked_lpad (s : State) (n : Fin 11) (label : BitVec 12) : Unblocked s n (.lpad label) := fun _ => rfl

/-! ## A gang (R339) -/

theorem filterMap_done_eq_nil {β : Type} {f : Nat × Issue → Option β} {outs : List (Nat × Issue)} (done : ∀ o ∈ outs, o.2 = .done)
    (h : ∀ e, f (e, .done) = none) : outs.filterMap f = [] :=
  List.filterMap_eq_nil_iff.mpr fun ⟨e, o⟩ ho => by
    obtain rfl : o = .done := done (e, o) ho
    exact h e

/-- An instruction of a gang that every member completes is performed by all. -/
theorem performGang_done {s t : State} {set : List Nat} {i : Instr} {outs : List (Nat × Issue)} (plain : isControl i = false)
    (fold : gangFold i s.cur.2 set s = .ok (t, outs)) (done : ∀ o ∈ outs, o.2 = .done)
    (awake : ∀ e ∈ set, t.wordPark s.cur.2 e = none) (through : t.gangHeld set s.cur.2 = []) :
    s.performGang set set i = .next { t.markBehind set s.cur.2 s.pc with cur := s.cur, out := .done } := by
  have stalled : outs.find? (fun o => o.2 = .stalled) = none :=
    List.find?_eq_none.mpr fun o ho => by simp [done o ho]
  have parked : (set.filterMap fun e => (t.wordPark s.cur.2 e).map fun o => (e, o)) = [] :=
    List.filterMap_eq_nil_iff.mpr fun e he => by simp [awake e he]
  unfold State.performGang
  simp only [plain, Bool.false_eq_true, if_false, fold, stalled, parked, through]
  rw [filterMap_done_eq_nil done]
  exact fun _ => rfl

/-- A gang that is level fetches once, and all its members perform the word. -/
theorem issueGang_word {s s2 : State} {set : List Nat} {w : BitVec 32} {i : Instr} (level : s.behindOf set s.cur.2 = [])
    (fetch : (gangIssuing s set s.cur.2).fetch = .word s2 w) (pad : s2.ctx.pad = none) (dec : decode w = .ok i) :
    s.issueGang set = s2.performGang set set i := by
  unfold gangIssuing at fetch
  unfold State.issueGang
  simp only [level, if_true, fetch, pad, dec]

/-! ## The statement -/

/-- Settles O4: the fetched word is performed by the lemma on its case, and `step_issue` adds what the issue and the step do around it. -/
theorem stepRunsDecoded : Obligations.StepRunsDecoded := by
  intro s ep n rest s0 s1 turn on unit ready
  constructor
  · intro s2 w single quiet fetch cur
    have cores : s1.me.teamCores ep = [ep] := if_neg (by simp [single])
    have ends {t : State} (run : s2.performWord w = .next t) (room : RoomFor s t) : step s = .next (ended t ep n) :=
      step_issue turn on unit ready cores (List.forall_mem_singleton.mpr quiet)
        ((if_neg (by rw [single]; exact Bool.false_ne_true)).trans ((issue1_word fetch).trans run)) room
    obtain ⟨rfl, rfl⟩ := Prod.mk.inj cur
    refine ⟨fun i t pad dec free run => ⟨fun done read => ?_, fun u again plain => ?_⟩, fun e t pad dec run => ?_,
      fun label pad => ⟨fun other => ?_, fun t lpad run done read => ?_⟩⟩
    · exact ends ((performWord_ok pad dec).trans (perform1_done free run done read))
    · exact ends ((performWord_ok pad dec).trans (perform1_again free run again plain))
    · exact ends ((performWord_error pad dec).trans run)
    · exact ends (performWord_other pad other)
    · exact ends ((performWord_lpad pad lpad).trans (perform1_done (unblocked_lpad _ _ label) run done read))
  · intro s2 t w i outs set gang quiet level fetch cur pad dec plain fold done awake through room
    have cores : s1.me.teamCores ep = set := if_pos gang
    obtain rfl : s2.cur.2 = n := congrArg Prod.snd cur
    have run : s1.issueGang set = _ := (issueGang_word level fetch pad dec).trans (performGang_done plain fold done awake through)
    exact step_issue turn on unit ready cores quiet ((if_pos gang).trans run) room

end Sys2Proof.Safety
end

section
/-! PROOFS: trap entry and the end of a team without a handler (O5).
Trap entry replaces the context at hand. For the end of a team: the parts of a retirement leave the team and the live contexts of every
core as they are, the retirement itself takes its one context out, and the end of a team does so with each. -/

namespace Sys2Proof.Machine

open Sys2Proof

/-! ## The roll of a core -/

/-- The team of a core and its contexts that are not retired: what the end of a team is about (R143). -/
def Core.roll (c : Core) : Option Team × List (Fin 11) := (c.team, c.alive)

/-- The roll of a core, and the context at hand. -/
def State.roll (s : State) (e : Nat) : (Nat × Fin 11) × Option Team × List (Fin 11) := (s.cur, (s.core e).roll)

/-- The cores of the device and the context at hand: what the parts of a retirement outside the cores do not touch. -/
def State.coresCur (s : State) : SMap Core × Nat × Fin 11 := (s.cores, s.cur)

/-- A context that stays alive, or stays retired, keeps the roll. -/
theorem Core.roll_setCtx {c : Core} {n : Fin 11} {x : Ctx} (h : x.alive = (c.ctx n).alive) : (c.setCtx n x).roll = c.roll := by
  refine congrArg (Prod.mk c.team) (List.filter_congr fun m _ => ?_)
  rw [Core.ctx_setCtx]
  split
  · next same => rw [same, h]
  · rfl

/-- A context that is retired goes from the roll. -/
theorem Core.roll_setCtx_retired (c : Core) (n : Fin 11) {x : Ctx} (h : x.alive = false) :
    (c.setCtx n x).roll = (c.team, c.alive.filter (· ≠ n)) := by
  refine congrArg (Prod.mk c.team) ((List.filter_congr fun m _ => ?_).trans List.filter_filter.symm)
  rw [Core.ctx_setCtx]
  by_cases same : m = n
  · rw [if_pos same, h, decide_eq_false (not_not_intro same), Bool.false_and]
  · rw [if_neg same, decide_eq_true same, Bool.true_and]

/-! ## What a retirement does beside the context -/

theorem State.roll_of_coresCur {s t : State} (h : t.coresCur = s.coresCur) (e : Nat) : t.roll e = s.roll e :=
  congrArg (fun p => (p.2, (mgetD p.1 e {}).roll)) h

theorem State.roll_modCore (s : State) (ep e : Nat) {f : Core → Core} (h : ∀ c, (f c).roll = c.roll) :
    (s.modCore ep f).roll e = s.roll e := by
  refine congrArg (Prod.mk s.cur) ?_
  unfold State.modCore
  rw [State.core_setCore]
  split
  · next same => rw [h, same]
  · rfl

theorem State.roll_modCtx (s : State) (ep e : Nat) (n : Fin 11) {f : Ctx → Ctx} (h : ∀ x, (f x).alive = x.alive) :
    (s.modCtx ep n f).roll e = s.roll e :=
  State.roll_modCore s ep e (f := fun c => c.setCtx n (f (c.ctx n))) fun _ => Core.roll_setCtx (h _)

theorem State.send_coresCur (s : State) (p : Packet) : (s.send p).coresCur = s.coresCur := by
  unfold State.send
  extract_lets key n q u
  have counts : u.coresCur = s.coresCur := by
    simp only [u]
    split <;> rfl
  exact counts

theorem State.mergeFlush_coresCur (s : State) (dev : BitVec 10) (line : Nat) : (s.mergeFlush dev line).coresCur = s.coresCur :=
  foldl_unchanged State.coresCur _ (fun s _ => State.send_coresCur s _) _ _

theorem State.setLine_coresCur (s : State) (l : Nat) (x : LineState) : (s.setLine l x).coresCur = s.coresCur := rfl

theorem State.dropRegs_coresCur (s : State) (gone : Registration → Bool) : (s.dropRegs gone).coresCur = s.coresCur :=
  foldl_unchanged State.coresCur _ (fun s _ => State.setLine_coresCur s _ _) _ _

/-- A freeze stops a core or holds a memory core; no context retires (R543). -/
theorem State.roll_freeze (s : State) (ep ctx : Nat) (addr : Word) (reason : Nat) (denied : List Word) (e : Nat) :
    (s.freeze ep ctx addr reason denied).roll e = s.roll e := by
  unfold State.freeze
  split
  · rfl
  · exact State.roll_modCore _ ep e fun _ => rfl

theorem State.roll_sendWd (s : State) (ep : Nat) (n : Fin 11) (a : Acc) (e : Nat) : (s.sendWd ep n a).roll e = s.roll e := by
  unfold State.sendWd
  extract_lets dev tok
  cases tok with
  | none => exact State.roll_freeze s ep n a.va 1 [] e
  | some t =>
    refine (State.roll_of_coresCur (State.send_coresCur _ _) e).trans ?_
    exact State.roll_of_coresCur (State.mergeFlush_coresCur s dev (aLine a.va)) e

theorem State.roll_dropWait (s : State) (ep : Nat) (n : Fin 11) (e : Nat) : (s.dropWait ep n).roll e = s.roll e := by
  unfold State.dropWait
  extract_lets who isWait remote sent gone dropped
  calc State.roll _ e = dropped.roll e := State.roll_of_coresCur rfl e
    _ = gone.roll e := State.roll_of_coresCur (State.dropRegs_coresCur gone _) e
    _ = sent.roll e := State.roll_modCore sent ep e fun _ => rfl
    _ = s.roll e := foldl_unchanged (State.roll · e) _ (fun s a => State.roll_sendWd s ep n a e) remote s

/-- Abandoning an instruction ends no context: one that waits goes on, and one that is retired stays so (R151). -/
theorem State.roll_abandon (s : State) (ep : Nat) (n : Fin 11) (e : Nat) : (s.abandon ep n).roll e = s.roll e := by
  unfold State.abandon
  extract_lets dropped withdrawn settled
  calc State.roll _ e = settled.roll e := State.roll_modCtx settled ep e n fun x => by
        cases h : x.alive <;> simp [Ctx.alive]
    _ = withdrawn.roll e := by
      simp only [settled]
      split
      · exact State.roll_modCore withdrawn ep e fun _ => rfl
      · rfl
    _ = dropped.roll e := State.roll_of_coresCur rfl e
    _ = s.roll e := State.roll_dropWait s ep n e

theorem State.released_coresCur (s : State) (h : Handle) : (s.released h).coresCur = s.coresCur := by
  unfold State.released
  split
  · rfl
  · refine foldl_unchanged State.coresCur _ (fun s p => foldl_unchanged State.coresCur _ (fun s c => ?_) _ s) _ s
    dsimp only
    split <;> rfl

theorem State.dropLease_coresCur (s : State) (e : Nat) : (s.dropLease e).coresCur = s.coresCur := by
  unfold State.dropLease
  dsimp only
  split <;> rfl

theorem State.returnIndex_coresCur (s : State) (launch i : Nat) : (s.returnIndex launch i).coresCur = s.coresCur := by
  unfold State.returnIndex
  split <;> rfl

theorem State.taskEnd_coresCur (s : State) (ep : Nat) (n : Fin 11) : (s.taskEnd ep n).coresCur = s.coresCur := by
  unfold State.taskEnd
  dsimp only
  split <;> exact foldl_unchanged State.coresCur _ (fun s a => State.returnIndex_coresCur s _ _) _ _

theorem mget_map_snd {α β : Type} (g : α → β) (m : SMap α) (k : Nat) : mget (m.map fun p => (p.1, g p.2)) k = (mget m k).map g := by
  induction m with
  | nil => rfl
  | cons p m ih =>
    simp only [List.map_cons, mget, ih]
    by_cases here : k = p.1
    · rw [if_pos here, if_pos here, Option.map_some]
    · rw [if_neg here, if_neg here]
      by_cases past : k < p.1
      · rw [if_pos past, if_pos past, Option.map_none]
      · rw [if_neg past, if_neg past]

/-- The commands that a retired context leaves behind are on every core; its contexts and team are as before. -/
theorem State.roll_orphanWork (s : State) (ep : Nat) (n : Fin 11) (e : Nat) : (s.orphanWork ep n).roll e = s.roll e := by
  unfold State.orphanWork
  extract_lets marked
  refine (State.roll_modCore marked ep e ?_).trans (congrArg (Prod.mk s.cur) ?_)
  · exact fun _ => rfl
  · have orphans : mget marked.cores e = (mget s.cores e).map fun c => c.orphanOf ep n :=
      mget_map_snd (Core.orphanOf · ep n) s.cores e
    unfold State.core mgetD
    rw [orphans]
    cases mget s.cores e <;> rfl

/-! ## Retirement and the end of a team (R21, R143) -/

/-- A context that retires goes from the roll of its core; the other contexts and the team stay. -/
theorem State.roll_retireCtx (s : State) (ep : Nat) (n : Fin 11) (v : Word) :
    (s.retireCtx ep n v).roll ep = (s.cur, (s.core ep).team, (s.core ep).alive.filter (· ≠ n)) := by
  unfold State.retireCtx
  extract_lets free x unheld mine unleased untasked orphaned c unread helped woken gone skipped
  -- which handles the context holds plays no part
  clear_value x
  have leases : unleased.coresCur = unheld.coresCur :=
    foldl_unchanged State.coresCur State.dropLease State.dropLease_coresCur mine unheld
  have handles : unheld.coresCur = free.coresCur :=
    foldl_unchanged State.coresCur _ (fun s h => State.released_coresCur s h.2) x.handles free
  have before : orphaned.roll ep = s.roll ep :=
    calc orphaned.roll ep = untasked.roll ep := State.roll_orphanWork untasked ep n ep
      _ = unleased.roll ep := State.roll_of_coresCur (State.taskEnd_coresCur unleased ep n) ep
      _ = unheld.roll ep := State.roll_of_coresCur leases ep
      _ = free.roll ep := State.roll_of_coresCur handles ep
      _ = s.roll ep := State.roll_abandon s ep n ep
  have wakes : woken.roll = c.roll := by
    simp only [woken]
    split
    · next waits =>
      obtain ⟨-, parked, -⟩ := waits
      exact Core.roll_setCtx (by simp [Ctx.alive, parked])
    · rfl
  have skips : skipped.roll = woken.roll := rfl
  obtain ⟨cur, roll⟩ := Prod.mk.inj before
  obtain ⟨team, alive⟩ := Prod.mk.inj (skips.trans (wakes.trans roll))
  unfold State.roll
  rw [State.core_setCore_self]
  refine Prod.ext cur ((Core.roll_setCtx_retired skipped n rfl).trans ?_)
  rw [team, alive]

/-- Every listed context goes from the roll. -/
theorem State.roll_retireAll (s : State) (ep : Nat) (ns : List (Fin 11)) :
    (ns.foldl (fun s n => s.retireCtx ep n 0) s).roll ep = (s.cur, (s.core ep).team, (s.core ep).alive.filter (· ∉ ns)) := by
  induction ns generalizing s with
  | nil =>
    have all : (s.core ep).alive.filter (· ∉ ([] : List (Fin 11))) = (s.core ep).alive :=
      List.filter_eq_self.mpr fun m _ => decide_eq_true List.not_mem_nil
    rw [all]
    rfl
  | cons n ns ih =>
    obtain ⟨cur, roll⟩ := Prod.mk.inj (State.roll_retireCtx s ep n 0)
    obtain ⟨team, alive⟩ := Prod.mk.inj roll
    have both (m : Fin 11) : (decide (m ∉ ns) && decide (m ≠ n)) = decide (m ∉ n :: ns) := by
      rw [← Bool.decide_and]
      exact decide_eq_decide.mpr (by rw [List.mem_cons, not_or, and_comm])
    rw [List.foldl_cons, ih, cur, team, alive, List.filter_filter]
    simp only [both]

/-- Outside a gang a team is on one core: none of its contexts is left, and the team has its completion (R143). -/
theorem State.roll_endTeam {s : State} {ep : Nat} (single : (s.core ep).gang.g = false) (status : Nat)
    (value cause epc tval : Word) :
    (s.endTeam ep status value cause epc tval).roll ep =
      (s.cur, (s.core ep).team.map fun t => { t with ended := some (status, value, cause, epc, tval) }, []) := by
  have cores : (s.core ep).teamCores ep = [ep] := if_neg (by simp [single])
  obtain ⟨cur, roll⟩ := Prod.mk.inj (State.roll_retireAll s ep (s.core ep).alive)
  obtain ⟨team, alive⟩ := Prod.mk.inj roll
  unfold State.endTeam
  rw [cores, List.foldl_cons, List.foldl_nil]
  extract_lets retired
  unfold State.modCore State.roll
  rw [State.core_setCore_self]
  have none_left : (s.core ep).alive.filter (· ∉ (s.core ep).alive) = [] :=
    List.filter_eq_nil_iff.mpr fun n live => by rw [decide_eq_true_eq]; exact not_not_intro live
  exact Prod.ext cur (Prod.ext (congrArg (Option.map _) team) (alive.trans none_left))

end Sys2Proof.Machine

namespace Sys2Proof.Safety

open Sys2Proof Sys2Proof.Machine

/-! ## Trap entry (R142, R143) -/

/-- The kcause word of a trap that is not asynchronous (R18). -/
theorem causeWord_sync (code : BitVec 6) : causeWord false code = code.zeroExtend 64 := by
  apply BitVec.eq_of_toNat_eq
  refine (BitVec.toNat_append (bit false ++ 0#57) code).trans ?_
  simp [bit]
  omega

section
variable {s : State} {code : BitVec 6} {tval : Word} (single : s.me.gang.g = false)

include single

/-- An immediate trap with a handler, outside a gang, replaces the context at hand by itself at its handler. -/
theorem trapped_enter (handler : s.ctx.csr.tvec ≠ 0) :
    trapped code tval s = { s.setCtx (s.ctx.enterTrap code false true s.pc tval) with out := .trapped code tval } :=
  congrArg (fun t : State => { t with out := .trapped code tval })
    (State.takeTrap_enter s s.cur.1 s.cur.2 code false true s.pc tval single handler)

/-- An immediate trap without a handler, outside a gang, ends the team with the status 1, "unhandled trap". -/
theorem takeTrap_unhandled (unhandled : s.ctx.csr.tvec = 0) :
    s.takeTrap s.cur.1 s.cur.2 code false true s.pc tval = s.endTeam s.cur.1 1 0 (code.zeroExtend 64) s.pc tval := by
  have gang : ¬(s.core s.cur.1).gang.g = true := ne_true_of_eq_false single
  rw [← causeWord_sync]
  exact (if_neg gang).trans (if_pos unhandled)

end

/-! ## The statement -/

/-- Settles O5: with a handler `trapped_enter` says the next state; without one the end of the team empties the roll of its core. -/
theorem traps : Obligations.Traps := by
  constructor
  · intro s code tval single handler t
    have enters : t = _ := trapped_enter single handler
    have ctx : t.ctx = s.ctx.enterTrap code false true s.pc tval := by
      rw [enters]
      exact State.ctx_setCtx s _
    have only : OnlyContext s t := by
      rw [enters]
      exact onlyContext_setCtx s _ _
    unfold State.pc
    rw [ctx]
    exact ⟨rfl, rfl, rfl, rfl, rfl, rfl, rfl, rfl, rfl, only⟩
  · intro s code tval te single unhandled team t
    have ends := State.roll_endTeam (s := s) (ep := s.cur.1) single 1 0 (code.zeroExtend 64) s.pc tval
    rw [← takeTrap_unhandled single unhandled] at ends
    obtain ⟨cur, roll⟩ := Prod.mk.inj ends
    obtain ⟨ended, alive⟩ := Prod.mk.inj roll
    have me : t.me = t.core s.cur.1 := congrArg (fun p : Nat × Fin 11 => t.core p.1) cur
    rw [me]
    exact ⟨alive, ended.trans (congrArg (Option.map _) team)⟩

end Sys2Proof.Safety
end

section
/-! PROOFS: the dense INT8 product of the matrix engine (O45).
What sparse tables, ranges of bytes and accumulator rows read as; the exact sums of IntSum (R201); then the product, row by row. -/

namespace Sys2Proof.Machine

open Sys2Proof

/-! ## Sparse tables -/

/-- A table that is cut down to the keys of a predicate. -/
theorem mget_filter_key {α : Type} (m : SMap α) (p : Nat → Bool) (k : Nat) (rises : keysRise m = true) :
    mget (m.filter fun e => p e.1) k = if p k = true then mget m k else none := by
  induction m with
  | nil => simp [mget]
  | cons e rest ih =>
    obtain ⟨k', v⟩ := e
    obtain ⟨below, rises⟩ := (keysRise_cons k' v rest).mp rises
    by_cases kept : p k' = true
    · rw [List.filter_cons_of_pos (p := fun e : Nat × α => p e.1) kept]
      simp only [mget, ih rises]
      grind
    · rw [List.filter_cons_of_neg (p := fun e : Nat × α => p e.1) kept, ih rises]
      rcases Nat.lt_trichotomy k k' with before | rfl | after
      · have absent := mget_none_of_lt rest k fun e he => Nat.lt_trans before (below e he)
        simp [mget, before, Nat.ne_of_lt before, absent]
      · simp [kept]
      · simp [mget, Nat.ne_of_gt after, Nat.lt_asymm after]

/-- A range of a table holds what the table holds there. -/
theorem mgetD_mrange {α : Type} (m : SMap α) {lo n k : Nat} (d : α) (rises : keysRise m = true) (low : lo ≤ k) (high : k < lo + n) :
    mgetD (mrange m lo n) k d = mgetD m k d := by
  have inside : (decide (lo ≤ k) && decide (k < lo + n)) = true := by simp [low, high]
  have cut := mget_filter_key m (fun k => decide (lo ≤ k) && decide (k < lo + n)) k rises
  exact congrArg (Option.getD · d) (cut.trans (if_pos inside))

/-- Of two merged tables the first one answers where it lists a key. -/
theorem mget_mmerge {α : Type} (fuel : Nat) (a b : SMap α) (k : Nat) (enough : a.length + b.length ≤ fuel) :
    mget (mmerge fuel a b) k = (mget a k).or (mget b k) := by
  induction fuel generalizing a b with
  | zero =>
    obtain rfl := List.eq_nil_of_length_eq_zero (show a.length = 0 by omega)
    obtain rfl := List.eq_nil_of_length_eq_zero (show b.length = 0 by omega)
    rfl
  | succ fuel ih =>
    match a, b with
    | [], b => simp [mmerge, mget]
    | d :: a, [] => simp [mmerge, mget]
    | (i, v) :: a, (j, w) :: b =>
      simp only [List.length_cons] at enough
      rcases Nat.lt_trichotomy i j with before | rfl | after
      · have rest := ih a ((j, w) :: b) (by simp only [List.length_cons]; omega)
        simp only [mmerge, if_pos before, mget, rest]
        grind
      · have rest := ih a b (by omega)
        simp only [mmerge, Nat.lt_irrefl, if_false, mget, rest]
        grind
      · have rest := ih ((i, v) :: a) b (by simp only [List.length_cons]; omega)
        simp only [mmerge, if_neg (Nat.lt_asymm after), if_pos after, mget, rest]
        grind

/-- A list laid out at rising keys. -/
theorem mget_zipIdx {α : Type} (base lo k : Nat) (l : List α) :
    mget ((l.zipIdx lo).map fun p => (base + p.2, p.1)) k = if base + lo ≤ k then l[k - (base + lo)]? else none := by
  induction l generalizing lo with
  | nil => simp [mget]
  | cons x l ih =>
    simp only [List.zipIdx_cons, List.map_cons, mget, ih]
    rcases Nat.lt_trichotomy k (base + lo) with before | rfl | after
    · simp [before, Nat.ne_of_lt before, Nat.not_le_of_gt before]
    · simp
    · have next : k - (base + lo) = k - (base + (lo + 1)) + 1 := by omega
      rw [if_neg (Nat.ne_of_gt after), if_neg (Nat.lt_asymm after), if_pos (by omega), if_pos (Nat.le_of_lt after), next, List.getElem?_cons_succ]

/-! ## Runs of bytes -/

/-- Byte `i` of a little-endian number. -/
theorem readNat_byte (m : List Host.Cell) (a : Nat) {n i : Nat} (inside : i < n) :
    readNat m a n / 2 ^ (8 * i) % 2 ^ 8 = (byteAt m (a + i)).toNat := by
  induction n generalizing a i with
  | zero => omega
  | succ n ih =>
    have small : (byteAt m a).toNat < 256 := (byteAt m a).isLt
    cases i with
    | zero =>
      rw [readNat, Nat.mul_zero, Nat.pow_zero, Nat.div_one, Nat.add_zero a]
      omega
    | succ i =>
      have skip : ((byteAt m a).toNat + 256 * readNat m (a + 1) n) / 2 ^ 8 = readNat m (a + 1) n := by omega
      rw [readNat, Nat.mul_succ, Nat.add_comm (8 * i), Nat.pow_add, ← Nat.div_div_eq_div_mul, skip, ih (a + 1) (by omega)]
      congr 2
      omega

theorem readNat_congr {m m' : List Host.Cell} {a n : Nat} (same : ∀ k, a ≤ k → k < a + n → byteAt m k = byteAt m' k) :
    readNat m a n = readNat m' a n := by
  induction n generalizing a with
  | zero => rfl
  | succ n ih =>
    rw [readNat, readNat, same a (by omega) (by omega), ih fun k low high => same k (by omega) (by omega)]

/-- A long run is read as a short one. -/
theorem readRange_eq (m : List Host.Cell) (a n : Nat) (rises : keysRise m = true) : readRange m a n = readNat m a n :=
  readNat_congr fun _ low high => mgetD_mrange m 0 rises low high

/-- An element of 8 bits in a packed array is a byte of the memory. -/
theorem codeAt_readRange (m : List Host.Cell) (a : Nat) {n i : Nat} (rises : keysRise m = true) (inside : i < n) :
    codeAt (readRange m a n) 8 i = (byteAt m (a + i)).toNat := by
  rw [readRange_eq m a n rises]
  exact readNat_byte m a inside

/-! ## Accumulators -/

theorem zKey_eq_add (z i j : Nat) : zKey z i j = zKey z i 0 + j := by
  unfold zKey
  omega

/-- The word of a row and a column of an accumulator. -/
def Core.zWord (c : Core) (z i j : Nat) : BitVec 32 := mgetD c.z (zKey z i j) 0

theorem Core.zRow_eq (c : Core) (z i n : Nat) (rises : keysRise c.z = true) :
    c.zRow z i 0 n = (List.range n).map fun j => c.zWord z i j := by
  refine List.map_congr_left fun j hj => ?_
  rw [Core.zWord, zKey_eq_add z i j]
  exact mgetD_mrange c.z 0 rises (Nat.le_add_right _ j) (Nat.add_lt_add_left (List.mem_range.mp hj) _)

/-- Words of different rows lie apart. -/
theorem zKey_outside {z i k i' j : Nat} (other : ¬(k = z ∧ i' = i)) (hi : i < 64) (hi' : i' < 64) (hj : j < 512) :
    zKey k i' j < zKey z i 0 ∨ zKey z i 0 + 512 ≤ zKey k i' j := by
  unfold zKey
  omega

/-- The table after a row is written from column 0. -/
theorem Core.mget_putRow (c : Core) (z i key : Nat) (ws : List (BitVec 32)) :
    mget (c.putRow z i 0 ws).z key = (if zKey z i 0 ≤ key then ws[key - zKey z i 0]? else none).or (mget c.z key) := by
  rw [putRow, mget_mmerge _ _ _ _ (by rw [List.length_map, List.length_zipIdx]; omega), mget_zipIdx, Nat.add_zero (zKey z i 0)]

/-- A row that is written from column 0 replaces its words; no other word changes. -/
theorem Core.zWord_putRow (c : Core) (z i k i' j : Nat) (ws : List (BitVec 32)) (fits : ws.length ≤ 512) (hi : i < 64) (hi' : i' < 64)
    (hj : j < 512) :
    (c.putRow z i 0 ws).zWord k i' j = if k = z ∧ i' = i then ws[j]?.getD (c.zWord k i' j) else c.zWord k i' j := by
  unfold zWord mgetD
  rw [mget_putRow]
  by_cases here : k = z ∧ i' = i
  · obtain ⟨rfl, rfl⟩ := here
    rw [zKey_eq_add k i' j, if_pos (Nat.le_add_right _ j), if_pos ⟨rfl, rfl⟩, Nat.add_sub_cancel_left]
    cases ws[j]? with
    | none => rw [Option.none_or, Option.getD_none]
    | some w => rw [Option.some_or, Option.getD_some, Option.getD_some]
  · have outside := zKey_outside here hi hi' hj
    have absent : (if zKey z i 0 ≤ zKey k i' j then ws[zKey k i' j - zKey z i 0]? else none) = none := by
      split
      · exact List.getElem?_eq_none (by omega)
      · rfl
    rw [absent, if_neg here, Option.none_or]

/-- Rows written one after the other, from row 0 on. -/
theorem Core.zWord_putRows (c : Core) (z k i j : Nat) (rows : Nat → List (BitVec 32)) (fits : ∀ r, (rows r).length ≤ 512)
    (hi : i < 64) (hj : j < 512) {m : Nat} (hm : m ≤ 64) :
    ((List.range m).foldl (fun c r => c.putRow z r 0 (rows r)) c).zWord k i j =
      if k = z ∧ i < m then (rows i)[j]?.getD (c.zWord k i j) else c.zWord k i j := by
  induction m with
  | zero => simp
  | succ m ih =>
    rw [List.range_succ, List.foldl_append, List.foldl_cons, List.foldl_nil,
      zWord_putRow _ z m k i j (rows m) (fits m) (by omega) hi hj, ih (by omega)]
    by_cases last : i = m
    · subst last
      simp
    · simp only [last, and_false, if_false, show i < m + 1 ↔ i < m by omega]

/-! ## INT8 operands (R186, R242, R244) -/

/-- A code of an integer format is the word as a signed number. -/
theorem decodeNum_int {n : Nat} (b : BitVec n) : decodeNum (.int n) b.toNat = .ofInt b.toInt 0 false := by
  have top : b.toNat.testBit (n - 1) = b.msb := by rw [BitVec.testBit_toNat, BitVec.msb_eq_getLsbD_last]
  have lt := b.isLt
  change (if b.toNat.testBit (n - 1) = true then Val.fin true (2 ^ n - b.toNat) 0 else .fin false b.toNat 0) = _
  rw [top, BitVec.toInt_eq_msb_cond, Val.ofInt]
  by_cases neg : b.msb = true
  · simp only [neg, if_true]
    rw [if_neg (by omega), decide_eq_true (by omega)]
    congr 1
    omega
  · simp only [neg]
    by_cases zero : b.toNat = 0 <;> simp [zero]

/-- The byte at an offset as an INT8 element. -/
def int8At (m : List Host.Cell) (a : Nat) : Val := .ofInt (byteAt m a).toInt 0 false

theorem decodeScaled_int8 (sc : Nat) (m : List Host.Cell) (a : Nat) : decodeScaled 12 sc (byteAt m a).toNat = int8At m a :=
  decodeNum_int (byteAt m a)

/-- The rows of a dense operand A of INT8, not transposed. -/
theorem Core.aRows_int8 (c : Core) (xa : Nat) (rises : keysRise c.pad = true) :
    c.aRows ⟨false, 13, false, false⟩ 12 xa =
      (List.range 64).map fun i => (List.range 64).map fun k => int8At c.pad (xa + 64 * i + k) := by
  refine List.map_congr_left fun i hi => List.map_congr_left fun k hk => ?_
  rw [List.mem_range] at hi hk
  have code := codeAt_readRange c.pad xa rises (show i * 64 + k < 512 * 8 by omega)
  rw [show xa + (i * 64 + k) = xa + 64 * i + k by omega] at code
  exact (congrArg (decodeScaled 12 _) code).trans (decodeScaled_int8 _ c.pad _)

/-- The columns of a dense operand B of INT8, not transposed. -/
theorem Core.bCols_int8 (c : Core) (base n : Nat) (fits : n ≤ 512) (rises : keysRise c.canopy = true) :
    c.bCols ⟨false, 13, false, false⟩ 12 base n 64 =
      (List.range n).map fun j => (List.range 64).map fun k => int8At c.canopy (base + 512 * k + j) := by
  refine List.map_congr_left fun j hj => List.map_congr_left fun k hk => ?_
  rw [List.mem_range] at hj hk
  have size : bData 12 64 n false = 32768 := show 64 / 64 * ((n * 8 + 4095) / 4096) * 32768 = 32768 by omega
  have code := codeAt_readRange c.canopy base rises (show 512 * k + j < bData 12 64 n false by omega)
  have place : 8 * ((k / 64 * ((n * 8 + 4095) / 4096) + j * 8 / 4096) * 32768 + k % 64 * 512) + j * 8 % 4096 = 8 * (512 * k + j) := by
    rw [show k / 64 = 0 by omega, show j * 8 / 4096 = 0 by omega]
    omega
  rw [codeAt, ← place, ← Nat.add_assoc] at code
  exact (congrArg (decodeScaled 12 _) code).trans (decodeScaled_int8 _ c.canopy _)

/-! ## IntSum (R201) -/

/-- The integer that IntSum adds for a term. -/
def Val.toInteger : Val → Int
  | .fin n m e => if n then -(shiftInt m e : Int) else (shiftInt m e : Int)
  | _ => 0

theorem shiftInt_zero (m : Nat) : shiftInt m 0 = m := by simp [shiftInt]

theorem toInteger_ofInt (x : Int) : (Val.ofInt x 0 false).toInteger = x := by
  unfold Val.ofInt
  split
  · simp [Val.toInteger, shiftInt_zero, *]
  · simp only [Val.toInteger, shiftInt_zero, decide_eq_true_eq]
    omega

/-- An integer is a finite value with exponent 0. -/
theorem ofInt_eq_fin (x : Int) : Val.ofInt x 0 false = .fin (decide (x < 0)) x.natAbs 0 := by
  unfold Val.ofInt
  split
  · simp [*]
  · rfl

theorem toInteger_vMul_fin (n n' : Bool) (m m' : Nat) :
    (vMul (.fin n m 0) (.fin n' m' 0)).1.toInteger = (Val.fin n m 0).toInteger * (Val.fin n' m' 0).toInteger := by
  have product : (vMul (.fin n m 0) (.fin n' m' 0)).1 = .fin (n != n') (m * m') 0 := by
    simp [vMul, Val.isInf, Val.isNan, Val.neg]
  rw [product]
  simp only [Val.toInteger, shiftInt_zero, Int.natCast_mul]
  cases n <;> cases n'
  case false.false => rfl
  case false.true => exact (Int.mul_neg ..).symm
  case true.false => exact (Int.neg_mul ..).symm
  case true.true => exact (Int.neg_mul_neg ..).symm

/-- The product of two integers is exact. -/
theorem toInteger_vMul (x y : Int) : (vMul (.ofInt x 0 false) (.ofInt y 0 false)).1.toInteger = x * y := by
  rw [ofInt_eq_fin, ofInt_eq_fin, toInteger_vMul_fin, ← ofInt_eq_fin, ← ofInt_eq_fin, toInteger_ofInt, toInteger_ofInt]

/-- A fold that adds a number for each element of a list. -/
theorem foldl_eq_add_sum {α : Type} (step : Int → α → Int) (f : α → Int) (adds : ∀ a x, step a x = a + f x) (a : Int)
    (l : List α) : l.foldl step a = a + (l.map f).sum := by
  induction l generalizing a with
  | nil => simp
  | cons x l ih => rw [List.foldl_cons, ih, adds, List.map_cons, List.sum_cons, Int.add_assoc]

/-- The 32-bit word of an integer or, outside the range, of the end that is nearer to it. -/
def sat32 (v : Int) : BitVec 32 := BitVec.ofInt 32 (max (-2147483648) (min 2147483647 v))

theorem intSum_sat32 (terms : List Val) : BitVec.ofNat 32 (intSum terms).1 = sat32 (terms.map Val.toInteger).sum := by
  unfold intSum
  rw [foldl_eq_add_sum _ Val.toInteger (fun a t => by cases t <;> simp [Val.toInteger]), Int.zero_add]
  generalize (terms.map Val.toInteger).sum = v
  apply BitVec.eq_of_toNat_eq
  rw [sat32, BitVec.toNat_ofInt, BitVec.toNat_ofNat]
  dsimp only
  split
  · omega
  · split <;> omega

/-! ## The product (R244, R248) -/

/-- The exact sum of a row of A times a column of B, from their places in the scratchpad and the canopy. -/
def Core.int8Dot (c : Core) (xa base i j : Nat) : Int :=
  ((List.range 64).map fun k => (byteAt c.pad (xa + 64 * i + k)).toInt * (byteAt c.canopy (base + 512 * k + j)).toInt).sum

/-- One word of the product: the exact sum of the products of a row and a column, and of the old word. -/
theorem Core.dotElem_int8 (c : Core) (sigma : Val) (xa base i j : Nat) (acc : Bool) (w : BitVec 32) :
    BitVec.ofNat 32 (dotElem true sigma ((List.range 64).map fun k => int8At c.pad (xa + 64 * i + k))
      ((List.range 64).map fun k => int8At c.canopy (base + 512 * k + j)) (if acc then some w else none)).1 =
      sat32 (c.int8Dot xa base i j + if acc then w.toInt else 0) := by
  have products : ((((List.range 64).map fun k => int8At c.pad (xa + 64 * i + k)).zip
      ((List.range 64).map fun k => int8At c.canopy (base + 512 * k + j))).map fun p => (vMul p.1 p.2).1).map Val.toInteger =
      (List.range 64).map fun k => (byteAt c.pad (xa + 64 * i + k)).toInt * (byteAt c.canopy (base + 512 * k + j)).toInt := by
    rw [List.zip_map', List.map_map, List.map_map]
    exact List.map_congr_left fun k _ => toInteger_vMul _ _
  simp only [dotElem, if_true, intSum_sat32]
  cases acc
  case false => simp only [Bool.false_eq_true, if_false, products, int8Dot, Int.add_zero]
  case true =>
    simp only [if_true, List.map_cons, List.sum_cons, products, int8Dot, toInteger_ofInt]
    rw [Int.add_comm]

/-- Row i of the product. -/
def Core.int8Row (c : Core) (z : Nat) (acc : Bool) (xa base n i : Nat) : List (BitVec 32) :=
  (List.range n).map fun j => sat32 (c.int8Dot xa base i j + if acc then (c.zWord z i j).toInt else 0)

theorem Core.length_int8Row (c : Core) (z : Nat) (acc : Bool) (xa base n i : Nat) : (c.int8Row z acc xa base n i).length = n := by
  rw [int8Row, List.length_map, List.length_range]

theorem zipIdx_map_range {α : Type} (f : Nat → α) (n : Nat) : ((List.range n).map f).zipIdx = (List.range n).map fun i => (f i, i) := by
  rw [List.zipIdx_eq_zip_range', List.length_map, List.length_range, ← List.range_eq_range', ← List.zip_map', List.map_id']

section
variable (c : Core) (z : Nat) (acc : Bool) (a b : Word) (sigma : BitVec 32)
variable (fits : xnN b ≤ 512) (words : keysRise c.z = true) (pad : keysRise c.pad = true) (canopy : keysRise c.canopy = true)

include fits words pad canopy

/-- A product of INT8 operands writes the rows of the accumulator one after the other. -/
theorem Core.multiply_int8 :
    (c.multiply ⟨false, 13, false, false⟩ z acc a b sigma).1 =
      (List.range 64).foldl
        (fun r i => r.putRow z i 0 (c.int8Row z acc a.toNat (512 * (fld b 16 16).toNat) (xnN b) i)) c := by
  have row : ∀ i, ((((c.bCols ⟨false, 13, false, false⟩ 12 (512 * (fld b 16 16).toNat) (xnN b) 64).zip
      (c.zRow z i 0 (xnN b))).map fun q =>
        dotElem true (decodeFlt fp32 sigma.toNat) ((List.range 64).map fun k => int8At c.pad (a.toNat + 64 * i + k)) q.1
          (if acc then some q.2 else none)).map fun o => BitVec.ofNat 32 o.1) =
      c.int8Row z acc a.toNat (512 * (fld b 16 16).toNat) (xnN b) i := by
    intro i
    rw [c.bCols_int8 _ _ fits canopy, c.zRow_eq z i _ words, List.zip_map', List.map_map, List.map_map]
    exact List.map_congr_left fun j _ => c.dotElem_int8 _ a.toNat _ i j acc (c.zWord z i j)
  have formats : pairFmt false 13 = some (12, 12) := rfl
  unfold Core.multiply
  simp only [formats, Bool.false_eq_true, if_false, decide_true, c.aRows_int8 a.toNat pad, zipIdx_map_range, List.foldl_map]
  exact (List.foldl_hom Prod.fst fun r i => congrArg (r.1.putRow z i 0) (row i).symm).symm

/-- A word after a product of INT8 operands. -/
theorem Core.zWord_multiply_int8 (k i j : Nat) (hi : i < 64) (hj : j < 512) :
    (c.multiply ⟨false, 13, false, false⟩ z acc a b sigma).1.zWord k i j =
      if k = z ∧ j < xnN b then
        sat32 (c.int8Dot a.toNat (512 * (fld b 16 16).toNat) i j + if acc then (c.zWord z i j).toInt else 0)
      else c.zWord k i j := by
  rw [c.multiply_int8 z acc a b sigma fits words pad canopy,
    c.zWord_putRows z k i j _ (fun r => Nat.le_trans (Nat.le_of_eq (c.length_int8Row ..)) fits) hi hj (Nat.le_refl 64), int8Row, List.getElem?_map]
  by_cases row : k = z
  · by_cases column : j < xnN b <;> simp [row, hi, column]
  · simp [row]

end

/-- An MMA command of INT8 operands, not transposed, multiplies on the core that executes it. -/
theorem State.runCmd_mma_int8 (s : State) (ep : Nat) {q : MCmd} {zd : BitVec 2} {acc : BitVec 1} {rs1 rs2 rs3 : Reg}
    (mma : q.instr = .mma zd acc 0 0 13 rs1 rs2 rs3) :
    (s.runCmd ep q).1 =
      s.setCore ep ((s.core ep).multiply ⟨false, 13, false, false⟩ zd.toNat (acc = 1) q.a q.b q.sigma).1 := by
  unfold State.runCmd
  rw [mma]
  rfl

end Sys2Proof.Machine

namespace Sys2Proof.Safety

open Sys2Proof Sys2Proof.Machine

/-- Settles O45: an `MMA` command multiplies on the operands of its core, and `Core.zWord_multiply_int8` says what that writes. -/
theorem integerMatrixProduct : Obligations.IntegerMatrixProduct := by
  intro s ep q zd acc rs1 rs2 rs3 mma c n base fits words pad canopy t z A B sum k i j hi hj
  obtain ⟨pad, -⟩ := (Memory.wf_iff _).mp pad
  obtain ⟨canopy, -⟩ := (Memory.wf_iff _).mp canopy
  have core : t.core ep = _ := (congrArg (State.core · ep) (s.runCmd_mma_int8 ep mma)).trans (State.core_setCore_self s ep _)
  have product := c.zWord_multiply_int8 zd.toNat (acc = 1) q.a q.b q.sigma fits words pad canopy k i j hi hj
  rw [← core] at product
  simp only [decide_eq_true_eq] at product
  exact product

end Sys2Proof.Safety
end

section
/-! PROOFS: the matrix engine's commands, from their start to their completion (O44).
The events of the engine case by case, the fields of a token, and the words that MRD, MWR and MZERO move. -/

namespace Sys2Proof.Machine

open Sys2Proof

/-! ## The start of a command (R248, R249) -/

@[simp] theorem State.setCore_win (s : State) (e ep : Nat) (c : Core) : (s.setCore e c).win ep = s.win ep := rfl

section
variable {s : State} {ep : Nat} {q : MCmd} {rest : List MCmd}
variable (idle : (s.core ep).mrun = none) (queue : (s.core ep).mq = q :: rest)

include idle queue

theorem execEngineCommandStart_waits (held : s.mayStart ep q = false) : execEngineCommandStart ep s = .next s := by
  simp only [execEngineCommandStart, idle, queue, held, Bool.not_false, if_true]

theorem execEngineCommandStart_executes (may : s.mayStart ep q = true) (taken : q.refused (s.core ep) (s.win ep) = none) :
    execEngineCommandStart ep s =
      let r := ((s.setCore ep { s.core ep with mq := rest }).tellOperands ep q).runCmd ep q
      .next (r.1.modCore ep fun c => { c with mrun := some r.2 }) := by
  simp only [execEngineCommandStart, idle, queue, may, State.setCore_win, taken, Bool.not_true, Bool.false_eq_true, if_false]

theorem execEngineCommandStart_rejects {reason : BitVec 4} (may : s.mayStart ep q = true)
    (refused : q.refused (s.core ep) (s.win ep) = some reason) :
    execEngineCommandStart ep s = .next ((s.setCore ep { s.core ep with mq := rest }).modCore ep fun c =>
      { c with mrun := some { q.plain with status := 1, reason := reason } }) := by
  simp only [execEngineCommandStart, idle, queue, may, State.setCore_win, refused, Bool.not_true, Bool.false_eq_true, if_false]

end

/-! ## Its completion (R249, R250) -/

theorem execEngineCommandComplete_gives {s : State} {ep : Nat} {d : MDone} (running : (s.core ep).mrun = some d)
    (performed : d.copying = none) :
    execEngineCommandComplete ep s = .next ((s.modCore ep fun c => { c with mrun := none }).giveDone ep d) := by
  simp only [execEngineCommandComplete, running, performed, Option.isSome_none, Bool.false_eq_true, if_false]

theorem State.giveDone_orphan (s : State) (ep : Nat) {d : MDone} (retired : d.cmd.orphan = true) : s.giveDone ep d = s :=
  if_pos (.inr retired)

theorem State.ctxAt_modCtx_self (s : State) (ep : Nat) (n : Fin 11) (f : Ctx → Ctx) :
    (s.modCtx ep n f).ctxAt ep n = f (s.ctxAt ep n) := by
  rw [State.modCtx, State.ctxAt_setCtxAt, if_pos ⟨rfl, rfl⟩]

theorem State.giveDone_done (s : State) (ep : Nat) {d : MDone} (active : d.cmd.orphan = false)
    (answers : completes d.cmd.instr = true ∨ d.cmd.sent = true) :
    ((s.giveDone ep d).ctxAt d.cmd.ep d.cmd.ctx).done = (s.ctxAt d.cmd.ep d.cmd.ctx).done ++ [⟨d.token ep, d.flags, ep⟩] := by
  have given : ¬((!d.cmd.sent ∧ !completes d.cmd.instr) ∨ d.cmd.orphan) := by
    rcases answers with h | h <;> simp [h, active]
  unfold State.giveDone
  rw [if_neg given, State.ctxAt_modCtx_self]

/-! ## Its token (R250) -/

section
variable (d : MDone) (ep : Nat)

/-- DETAIL of a token. -/
def MDone.tokenDetail : BitVec 24 :=
  if d.status = 1 then BitVec.ofNat 11 ep ++ 0#9 ++ d.reason else if d.status = 2 then 0#2 ++ fld d.detail 0 22 else 0

theorem MDone.token_eq : d.tokenDetail ep ++ d.cmd.seq ++ 0#4 ++ d.status ++ 0#3 ++ d.flags ++ bit d.cmd.sent ++ cmdCode d.cmd.instr =
    d.token ep := rfl

theorem MDone.token_fields : d.tokenDetail ep = fld (d.token ep) 40 24 ∧ d.cmd.seq = fld (d.token ep) 24 16 ∧
    0#4 = fld (d.token ep) 20 4 ∧ d.status = fld (d.token ep) 16 4 ∧ 0#3 = fld (d.token ep) 13 3 ∧
    d.flags = fld (d.token ep) 8 5 ∧ bit d.cmd.sent = fld (d.token ep) 7 1 ∧ cmdCode d.cmd.instr = fld (d.token ep) 0 7 := by
  have joined := d.token_eq ep
  simpa only [append_eq_iff, fld_fld, and_assoc, Nat.reduceAdd, Nat.reduceLeDiff] using joined

theorem MDone.token_detail_done (done : d.status = 0) : fld (d.token ep) 40 24 = 0 := by
  rw [← (d.token_fields ep).1, tokenDetail, done]; rfl

/-- A rejected command names its target and the reason. -/
theorem MDone.token_detail_rejected (rejected : d.status = 1) :
    BitVec.ofNat 11 ep = fld (d.token ep) 53 11 ∧ 0#9 = fld (d.token ep) 44 9 ∧ d.reason = fld (d.token ep) 40 4 := by
  have joined : BitVec.ofNat 11 ep ++ 0#9 ++ d.reason = fld (d.token ep) 40 24 := by
    rw [← (d.token_fields ep).1, tokenDetail, if_pos rejected]
  simpa only [append_eq_iff, fld_fld, and_assoc, Nat.reduceAdd, Nat.reduceLeDiff] using joined

theorem getLsbD_eq_of_bit {n : Nat} {w : BitVec n} {k : Nat} {b : Bool} (h : bit b = fld w k 1) : w.getLsbD k = b := by
  have low : (fld w k 1).getLsbD 0 = w.getLsbD k := by simp [fld]
  rw [← low, ← h]
  cases b <;> rfl

end

/-! ## Commands that MSEND carried (R263, R264) -/

section
variable {s : State} {k to_ : Nat} {q : MCmd} {key : BitVec 32}
variable (sent : s.net[k]? = some (.msend to_ q key))
variable (first : ∀ t p y, Msg.msend t p y ∈ s.net.take k → ¬(t = to_ ∧ p.ep = q.ep))
variable (admitted : s.admitted (s.master q.ep) kCore to_ rCommand = true)

include sent first admitted

/-- The oldest command of its sender, admitted by the access table: room, then the capability, decide. -/
theorem execMsendArrival_eq : execMsendArrival k s =
    if (s.core to_).engineUse ≥ 2 then .next s
    else if !(s.core to_).kmcap.getLsbD 4 ∨ fld (s.core to_).kmcap 32 32 ≠ key then
      .next ((s.take k).giveDone to_ { q.plain with status := 1, reason := 1 })
    else if !(s.core to_).kmcap.getLsbD (allowBit q.instr) then
      .next ((s.take k).giveDone to_ { q.plain with status := 1, reason := 2 })
    else .next ((s.take k).modCore to_ fun c => { c with mq := c.mq ++ [q] }) := by
  unfold execMsendArrival
  rw [sent]
  dsimp only
  rw [if_neg, if_neg (by simp [admitted])]
  · rfl
  · rw [Bool.not_eq_true, List.any_eq_false]
    intro m hm
    cases m
    case msend t p y => simpa using first t p y hm
    all_goals exact Bool.false_ne_true

end

/-! ## Lanes of a vector register (R179) -/

theorem packElems_lane (w : Nat) (l : List Nat) (e : Nat) : packElems w l / 2 ^ (w * e) % 2 ^ w = l.getD e 0 % 2 ^ w := by
  induction l generalizing e with
  | nil => simp [packElems]
  | cons x xs ih =>
    have positive : 0 < 2 ^ w := Nat.two_pow_pos w
    have low : x % 2 ^ w < 2 ^ w := Nat.mod_lt x positive
    cases e with
    | zero => simp [packElems]
    | succ e =>
      rw [packElems, Nat.mul_succ, Nat.add_comm (w * e), Nat.pow_add, ← Nat.div_div_eq_div_mul, Nat.add_mul_div_left _ _ positive,
        Nat.div_eq_of_lt low, Nat.zero_add, ih, List.getD_cons_succ]

/-- A lane of a vector register that is made of elements. -/
theorem extractLsb'_vOf (w : Nat) (l : List Nat) (e : Nat) (inside : w * e + w ≤ 4096) :
    (vOf w l).extractLsb' (w * e) w = BitVec.ofNat w (l.getD e 0) := by
  apply BitVec.eq_of_toNat_eq
  rw [BitVec.toNat_ofNat, ← packElems_lane, ← BitVec.toNat_ofNat]
  congr 1
  apply BitVec.eq_of_getLsbD_eq
  intro i hi
  rw [BitVec.getLsbD_extractLsb', vOf, BitVec.getLsbD_ofNat, BitVec.getLsbD_ofNat, Nat.testBit_div_two_pow, decide_eq_true hi,
    decide_eq_true (show w * e + i < 4096 by omega), Bool.true_and, Nat.add_comm i]

/-- The elements of a vector register are its lanes. -/
theorem getElem?_elemsOf (w v n e : Nat) : (elemsOf w v n)[e]? = if e < n then some (v / 2 ^ (w * e) % 2 ^ w) else none := by
  induction n generalizing v e with
  | zero => rfl
  | succ n ih =>
    cases e with
    | zero => simp [elemsOf]
    | succ e =>
      rw [elemsOf, List.getElem?_cons_succ, ih, Nat.div_div_eq_div_mul, ← Nat.pow_add, Nat.mul_succ, Nat.add_comm w]
      simp only [Nat.add_lt_add_iff_right]

theorem length_elemsOf (w v n : Nat) : (elemsOf w v n).length = n := by
  induction n generalizing v with
  | zero => rfl
  | succ n ih => rw [elemsOf, List.length_cons, ih]

/-- The 128 words of a vector register. -/
def lanes (row : BitVec 4096) : List (BitVec 32) := (elemsOf 32 row.toNat 128).map (BitVec.ofNat 32)

theorem length_lanes (row : BitVec 4096) : (lanes row).length = 128 := by rw [lanes, List.length_map, length_elemsOf]

theorem getElem?_lanes (row : BitVec 4096) (e : Nat) :
    (lanes row)[e]? = if e < 128 then some (row.extractLsb' (32 * e) 32) else none := by
  rw [lanes, List.getElem?_map, getElem?_elemsOf]
  split
  · refine congrArg some (BitVec.eq_of_toNat_eq ?_)
    rw [BitVec.toNat_ofNat, BitVec.extractLsb'_toNat, Nat.mod_mod, Nat.shiftRight_eq_div_pow]
  · rfl

/-! ## Words of an accumulator (R253) -/

/-- A row's words from column `lo` on. -/
theorem Core.getElem?_zRow (c : Core) (z i lo n e : Nat) (rises : keysRise c.z = true) (inside : e < n) :
    (c.zRow z i lo n)[e]? = some (c.zWord z i (lo + e)) := by
  have range : (List.range n)[e]? = some e := by rw [List.getElem?_eq_getElem (by simpa), List.getElem_range]
  have key : zKey z i (lo + e) = zKey z i lo + e := by unfold zKey; omega
  rw [Core.zRow, List.getElem?_map, range, Option.map_some, mgetD_mrange c.z 0 rises (Nat.le_add_right _ e) (by omega), ← key]
  rfl

/-- The table after words of a row are written from column `lo` on. -/
theorem Core.mget_putRow_from (c : Core) (z i lo key : Nat) (ws : List (BitVec 32)) :
    mget (c.putRow z i lo ws).z key = (if zKey z i lo ≤ key then ws[key - zKey z i lo]? else none).or (mget c.z key) := by
  rw [putRow, mget_mmerge _ _ _ _ (by rw [List.length_map, List.length_zipIdx]; omega), mget_zipIdx, Nat.add_zero (zKey z i lo)]

/-- Words written from column `lo` on replace those of their places, and no others. -/
theorem Core.zWord_putRow_from (c : Core) {z i lo k i' j : Nat} {ws : List (BitVec 32)} (fits : lo + ws.length ≤ 512) (hi : i < 64)
    (hi' : i' < 64) (hj : j < 512) :
    (c.putRow z i lo ws).zWord k i' j =
      if k = z ∧ i' = i ∧ lo ≤ j then ws[j - lo]?.getD (c.zWord k i' j) else c.zWord k i' j := by
  unfold zWord mgetD
  rw [mget_putRow_from]
  by_cases here : k = z ∧ i' = i ∧ lo ≤ j
  · obtain ⟨rfl, rfl, low⟩ := here
    have column : zKey k i' j - zKey k i' lo = j - lo := by unfold zKey; omega
    rw [if_pos (show zKey k i' lo ≤ zKey k i' j by unfold zKey; omega), column, if_pos ⟨rfl, rfl, low⟩]
    cases ws[j - lo]? <;> rfl
  · have absent : (if zKey z i lo ≤ zKey k i' j then ws[zKey k i' j - zKey z i lo]? else none) = none := by
      split
      · exact List.getElem?_eq_none (by unfold zKey at *; omega)
      · rfl
    rw [absent, if_neg here, Option.none_or]

/-! ## MRD, MWR and MZERO (R253) -/

/-- The core after MWR: 128 words of a row are the lanes of the vector. -/
def Core.writeLanes (c : Core) (z i lo : Nat) (row : BitVec 4096) : Core :=
  c.putRow z i lo (lanes row)

theorem Core.zWord_writeLanes (c : Core) {z i lo k i' j : Nat} (row : BitVec 4096) (fits : lo + 128 ≤ 512) (hi : i < 64) (hi' : i' < 64)
    (hj : j < 512) :
    (c.writeLanes z i lo row).zWord k i' j =
      if k = z ∧ i' = i ∧ lo ≤ j ∧ j < lo + 128 then row.extractLsb' (32 * (j - lo)) 32 else c.zWord k i' j := by
  rw [writeLanes, zWord_putRow_from c (by rwa [length_lanes]) hi hi' hj, getElem?_lanes]
  by_cases column : j < lo + 128
  · simp only [column, and_true, if_pos (show j - lo < 128 by omega), Option.getD_some]
  · simp only [column, and_false, if_false, if_neg (show ¬j - lo < 128 by omega), Option.getD_none, ite_self]

/-- The core after MZERO. -/
def Core.zeroAcc (c : Core) (z : Nat) : Core := { c with z := c.z.filter fun e => e.1 / 32768 ≠ z }

theorem Core.zWord_zeroAcc (c : Core) {z k i j : Nat} (rises : keysRise c.z = true) (hi : i < 64) (hj : j < 512) :
    (c.zeroAcc z).zWord k i j = if k = z then 0 else c.zWord k i j := by
  have place : zKey k i j / 32768 = k := by unfold zKey; omega
  have cut := mget_filter_key c.z (fun key => decide (key / 32768 ≠ z)) (zKey k i j) rises
  rw [place] at cut
  unfold zWord mgetD zeroAcc
  dsimp only
  rw [cut]
  by_cases same : k = z <;> simp [same]

section
variable (s : State) (ep : Nat) {q : MCmd}

theorem State.runCmd_mzero {zd : Reg} (h : q.instr = .mzero zd) :
    (s.runCmd ep q).1 = s.setCore ep ((s.core ep).zeroAcc zd.toNat) := by
  unfold State.runCmd
  rw [h]
  rfl

theorem State.runCmd_mwr {zd rs1 rs2 : Reg} (h : q.instr = .mwr zd rs1 rs2) :
    (s.runCmd ep q).1 =
      s.setCore ep ((s.core ep).writeLanes zd.toNat (fld q.a 0 6).toNat (128 * (fld q.a 6 2).toNat) q.row) := by
  unfold State.runCmd
  rw [h]
  rfl

/-- MRD into a register that no stream is bound to. -/
theorem State.runCmd_mrd {rd rs1 zs : Reg} (h : q.instr = .mrd rd rs1 zs) (active : q.orphan = false)
    (free : (s.ctxAt ep q.ctx).bound rd = none) :
    (s.runCmd ep q).1 = s.modCtx ep q.ctx fun x =>
      x.wv rd (vOf 32 (((s.core ep).zRow zs.toNat (fld q.a 0 6).toNat (128 * (fld q.a 6 2).toNat) 128).map BitVec.toNat)) := by
  unfold State.runCmd
  rw [h]
  simp only [mulOf, active, free]
  rfl

/-- The register that MRD writes holds 128 words of a row, one in each lane. -/
theorem State.runCmd_mrd_lane {rd rs1 zs : Reg} (h : q.instr = .mrd rd rs1 zs) (active : q.orphan = false)
    (free : (s.ctxAt ep q.ctx).bound rd = none) (rises : keysRise (s.core ep).z = true) {e : Nat} (inside : e < 128) :
    (((s.runCmd ep q).1.ctxAt ep q.ctx).rv rd).extractLsb' (32 * e) 32 =
      (s.core ep).zWord zs.toNat (fld q.a 0 6).toNat (128 * (fld q.a 6 2).toNat + e) := by
  rw [s.runCmd_mrd ep h active free, State.ctxAt_modCtx_self, Ctx.rv_wv, if_pos rfl, extractLsb'_vOf 32 _ e (by omega),
    List.getD_eq_getElem?_getD, List.getElem?_map, Core.getElem?_zRow _ _ _ _ _ _ rises inside]
  exact (BitVec.ofNat_toNat _ _).trans (BitVec.setWidth_eq _)

theorem State.z_modCtx (n : Fin 11) (f : Ctx → Ctx) : ((s.modCtx ep n f).core ep).z = (s.core ep).z := by
  rw [State.modCtx, State.setCtxAt, State.core_setCore_self]; rfl

end
end Sys2Proof.Machine

namespace Sys2Proof.Safety

open Sys2Proof Sys2Proof.Machine

/-- Settles O44: the events of the engine, the fields of a token, and the words of an accumulator, each by its own lemma. -/
theorem matrixEngine : Obligations.MatrixEngine := by
  refine ⟨fun s ep q rest idle queue => ?start, fun s ep d running performed => ?complete, fun d ep => ?token,
    fun s k to_ q key sent first admitted => ?arrival, fun s ep q rd rs1 rs2 rises => ?words⟩
  case start =>
    exact ⟨execEngineCommandStart_waits idle queue, fun may =>
      ⟨execEngineCommandStart_executes idle queue may, fun _ => execEngineCommandStart_rejects idle queue may⟩⟩
  case complete =>
    exact ⟨execEngineCommandComplete_gives running performed, s.giveDone_orphan ep, s.giveDone_done ep⟩
  case token =>
    obtain ⟨-, seq, zero20, status, zero13, flags, remote, -⟩ := d.token_fields ep
    refine ⟨seq.symm, zero20.symm, status.symm, zero13.symm, flags.symm, getLsbD_eq_of_bit remote, d.token_detail_done ep,
      fun rejected => ?_⟩
    obtain ⟨target, zero44, reason⟩ := d.token_detail_rejected ep rejected
    exact ⟨target.symm, zero44.symm, reason.symm⟩
  case arrival =>
    have arrives : exec (.msendArrival k) s = _ := execMsendArrival_eq sent first admitted
    refine ⟨fun full => arrives.trans (if_pos full), fun room => ?_⟩
    rw [if_neg (Nat.not_le.mpr room)] at arrives
    refine ⟨fun closed => arrives.trans (if_pos ?_), fun opens matching => ?_⟩
    · simpa [fld] using closed
    · rw [if_neg (by simp [opens, fld, matching])] at arrives
      exact ⟨fun forbidden => arrives.trans (if_pos (by simp [forbidden])), fun allowed => arrives.trans (if_neg (by simp [allowed]))⟩
  case words =>
    intro t i lo z
    have row : i < 64 := (q.a.extractLsb' 0 6).isLt
    have fits : lo + 128 ≤ 512 := by have := (q.a.extractLsb' 6 2).isLt; omega
    refine ⟨fun mrd active free => ⟨fun e inside => s.runCmd_mrd_lane ep mrd active free rises inside, ?_⟩,
      fun mwr k i' j hi' hj => ?_, fun mzero k i' j hi' hj => ?_⟩
    · exact (congrArg (fun u => (u.core ep).z) (s.runCmd_mrd ep mrd active free)).trans (s.z_modCtx ep _ _)
    · have core : t.core ep = _ := (congrArg (State.core · ep) (s.runCmd_mwr ep mwr)).trans (State.core_setCore_self s ep _)
      exact (congrArg (Core.zWord · k i' j) core).trans ((s.core ep).zWord_writeLanes q.row fits row hi' hj)
    · have core : t.core ep = _ := (congrArg (State.core · ep) (s.runCmd_mzero ep mzero)).trans (State.core_setCore_self s ep _)
      exact (congrArg (Core.zWord · k i' j) core).trans ((s.core ep).zWord_zeroAcc rises hi' hj)

end Sys2Proof.Safety
end
